-- ==== Sys2Proof/Word.lean ====
section
/-!
DEFINITION. The word types of the block.
-/

namespace Sys2Proof

/-- A byte of the store, of DRAM or of a payload. -/
abbrev Byte := BitVec 8

/-- A 32-bit word: a parcel, a lane element, half a register. -/
abbrev W32 := BitVec 32

/-- A 64-bit word: a scalar register, a CSR, a summary. -/
abbrev W64 := BitVec 64

/-- Number of a control core (R146). -/
abbrev CoreId := BitVec 4

/-- Scoreboard slot, ticket bits [11:0] (R158). -/
abbrev SlotId := BitVec 12

/-- Device number (R25). -/
abbrev DevId := BitVec 12

/-- Number of a Hoof (R1). -/
abbrev HoofId := Fin 12

/-- Number of a fabric port (R26). -/
abbrev FabPort := BitVec 4

/-- Number of a host port (R457). -/
abbrev HostPort := BitVec 2

/-- Stream number (R308). -/
abbrev StreamId := BitVec 20

end Sys2Proof
end

