-- ==== Sys2Proof/Syntax.lean ====
section
/-!
DEFINITION. The commands of the block: one constructor of `Instr` per row of spec/opcode_table.json, in the table's order,
with the operands the spec gives the row.
-/

namespace Sys2Proof

/-- A die of the block: local times, monitors and faults belong to one (R52). -/
inductive Die where
  | central
  | hoof (n : HoofId)
deriving DecidableEq, Repr

/-- Fields of a vector instruction (R248, Table 9-5); the OP is the command's row. -/
structure VecF where
  fn  : BitVec 8
  vd  : BitVec 5
  va  : BitVec 5
  vb  : BitVec 5
  msk : BitVec 5
  men : Bool
  bnd : BitVec 2
  imm : BitVec 16
deriving DecidableEq, Repr

/-- Fields of a micro-op (R195, Table 7-2); the OP is the command's row. -/
structure MicroF where
  d   : BitVec 4
  a   : BitVec 4
  b   : BitVec 4
  k   : BitVec 4
  imm : BitVec 10
deriving DecidableEq, Repr

/-- A Qorand packet (R362, Tables 13-2 and 13-3). The payload is a whole number of 64-byte units, at most 64 of them. -/
structure Packet where
  kind    : BitVec 8
  hb      : BitVec 4
  last    : Bool
  retry   : Bool
  dir     : BitVec 2
  src     : DevId
  dst     : DevId
  ticket  : BitVec 16
  sstr    : StreamId
  tenant  : BitVec 4
  step    : W32
  addr    : BitVec 52
  akey    : W32
  part    : BitVec 16
  status  : Byte
  payload : List Byte
  ecrc    : W32
deriving DecidableEq, Repr

/-- A host message (R457, Table 17-5). KIND is the command's row for a message that arrives. -/
structure HostMsg where
  kind    : Byte
  last    : Bool
  req     : BitVec 11
  stream  : StreamId
  ticket  : BitVec 16
  status  : Byte
  len     : Byte
  tag     : W32
  addr    : BitVec 52
  count   : W32
  payload : List Byte
deriving DecidableEq, Repr

/-- Parameters of IMPORT and EXPORT (R95-R97). The spec gives their descriptor no layout, so the command carries them:
region offset of the first element, element count, store offset of the binary32 values, store offset of the report.
DESIGN CHOICE 3. -/
structure ConvP where
  off    : BitVec 48
  count  : BitVec 32
  data   : BitVec 30
  report : BitVec 30
deriving DecidableEq, Repr

/-- Parameters of DRAW (R138, Table 5-4), with the purpose code of Table 5-3 under which it draws and, for purpose 0x06, whether the values are
normal-shaped; the spec gives the operation's descriptor no layout. DESIGN CHOICE 3. -/
structure DrawP where
  purpose : BitVec 8
  normal : Bool
  off    : BitVec 48
  count  : BitVec 24
  row    : BitVec 48
  tm     : BitVec 16
  te     : BitVec 8
  topk   : BitVec 11
  topp   : BitVec 16
  draws  : BitVec 11
  repl   : Bool
  tag    : BitVec 30
  out    : BitVec 30
deriving DecidableEq, Repr

/-- What a Hoof finds when it trains its stack (R387, R442): whether the identification data could be read and the interface
trained, the height, density (Gb) and fastest bin (0.1 Gb/s) declared, whether extensions are declared, and the channels
whose own training failed. -/
structure TrainP where
  ok      : Bool
  height  : BitVec 5
  dens    : BitVec 8
  bin     : BitVec 8
  ext     : Bool
  badChan : BitVec 32
deriving DecidableEq, Repr

/-- What hardware faults do to the parties of a shadow check (R261-R264), all zero where nothing fails: units of the tile's own grid that the Tine
or the array adds to the tile's first element, and to the one that it recomputes; the same for the references of the first, the second and the third
group of wide lanes, and which group is the first. -/
structure Verdict where
  tile  : Int
  retry : Int
  ref1  : Int
  ref2  : Int
  ref3  : Int
  group : BitVec 2
deriving DecidableEq, Repr

/-- A link that can time out or lose a module (Table 15-1, Table 17-4). -/
inductive Link where
  | host (p : HostPort)
  | hoof (n : HoofId)
  | fabric (p : FabPort)
deriving DecidableEq, Repr

/-- A unit that fails (Tables 15-1 and 15-2). -/
inductive FaultUnit where
  /-- a module of a link; with the last of a fabric port's modules its link goes down, and the flits of `lost` packets in its buffers are lost -/
  | module (l : Link) (lost : Nat)
  /-- parity on the micro-op registers of a Tine -/
  | tine (h : HoofId) (tine : BitVec 5)
  /-- parity on a weight tile of an array half: 0 ARRA, 1 ARRB -/
  | array (half : BitVec 1)
  /-- parity on the registers of a slice of the vector lanes -/
  | slice (k : BitVec 2)
  /-- parity on the registers of a group of the wide lanes -/
  | wide (k : BitVec 2)
  /-- parity on a control core's registers, or on a parcel that it fetched -/
  | core (c : CoreId)
  /-- an uncorrectable error in 64-byte unit n of the store -/
  | store (n : BitVec 24)
  /-- an access of an operation to the DRAM, the errors that it meets and those that its re-read meets -/
  | dram (h : HoofId) (ch : BitVec 5) (acc : BitVec 27) (errs errs2 : List (Fin 38 × BitVec 16))
  /-- a sequencer of a channel fails its timing -/
  | channel (h : HoofId) (ch : BitVec 5)
  /-- an Antler scheduler, a parity engine, HCTL or HAON of a Hoof -/
  | hoofUnit (h : HoofId)
  /-- parity of the scheduler, the scoreboard, the stream table or AON_C -/
  | central
deriving DecidableEq, Repr

/-- A unit's failure: transient or lasting, met by the operation in slot `slot`. -/
structure UnitFault where
  unit    : FaultUnit
  lasting : Bool
  slot    : SlotId
deriving DecidableEq, Repr

/-- Replays of one flit (R364): how many fail before one succeeds, and how many packets the link loses where the eighth fails. -/
structure Replays where
  fails : Nat
  lost  : Nat
deriving DecidableEq, Repr

/-- A message on a Hoof link that nothing has acknowledged in time, and the slot of its operation. -/
structure LateMsg where
  hoof : HoofId
  slot : SlotId
deriving DecidableEq, Repr

/-- Power domains that can be gated (R430): ARRA, ARRB, VEC, HOSTP, FABP0, FABP1 and the Hoof domains. -/
inductive Domain where
  | arra | arrb | vec | hostp | fabp0 | fabp1
  | htine (n : HoofId)
  | hctl (n : HoofId)
deriving DecidableEq, Repr

/-- The commands. -/
inductive Instr where
  -- scalar instructions (Table 6-3): the control core, then the fields of the parcel
  | op (c : CoreId) (rd rs1 rs2 : BitVec 5) (func : BitVec 6)
  | addi (c : CoreId) (rd rs1 : BitVec 5) (imm : BitVec 16)
  | andi (c : CoreId) (rd rs1 : BitVec 5) (imm : BitVec 16)
  | ori (c : CoreId) (rd rs1 : BitVec 5) (imm : BitVec 16)
  | xori (c : CoreId) (rd rs1 : BitVec 5) (imm : BitVec 16)
  | shi (c : CoreId) (rd rs1 : BitVec 5) (imm : BitVec 16)
  | li (c : CoreId) (rd : BitVec 5) (imm : BitVec 21) (lo : W32)
  | cmp (c : CoreId) (rd rs1 rs2 : BitVec 5) (func : BitVec 6)
  | cmpi (c : CoreId) (rd rs1 : BitVec 5) (imm : BitVec 16)
  | plog (c : CoreId) (rd rs1 rs2 : BitVec 5) (func : BitVec 6)
  | ld (c : CoreId) (rd rs1 : BitVec 5) (imm : BitVec 16)
  | st (c : CoreId) (rd rs1 : BitVec 5) (imm : BitVec 16)
  | ld32 (c : CoreId) (rd rs1 : BitVec 5) (imm : BitVec 16)
  | st32 (c : CoreId) (rd rs1 : BitVec 5) (imm : BitVec 16)
  | br (c : CoreId) (p : BitVec 3) (neg : Bool) (off : BitVec 22)
  | jal (c : CoreId) (rd : BitVec 5) (imm : BitVec 21)
  | jr (c : CoreId) (rd rs1 : BitVec 5) (imm : BitVec 16)
  | wait (c : CoreId) (rd rs1 : BitVec 5)
  | summ (c : CoreId) (rd rs1 : BitVec 5)
  | tsts (c : CoreId) (rd rs1 : BitVec 5) (imm : BitVec 16)
  | fence (c : CoreId) (rd rs1 : BitVec 5) (imm : BitVec 16)
  | mfs (c : CoreId) (rd : BitVec 5) (imm : BitVec 16)
  | mts (c : CoreId) (rs1 : BitVec 5) (imm : BitVec 16)
  | tret (c : CoreId)
  | brk (c : CoreId)
  | drx (c : CoreId) (rd rs1 rs2 : BitVec 5)
  | halt (c : CoreId)
  | engineWord (c : CoreId) (w : BitVec 128)
  | pendingTrap (c : CoreId)
  | coreStallEnd (c : CoreId)
  -- steps and engine operations: the slot that holds the operation
  | stop (t : SlotId)
  | stepOpening
  | stcl (t : SlotId)
  | roundA (n : W32)
  | roundADone (n : W32)
  | roundB (n : W32)
  | roundBDone (n : W32)
  | fenc (t : SlotId)
  | copy (t : SlotId) (units : Nat)
  | import_ (t : SlotId) (p : ConvP)
  | export_ (t : SlotId) (p : ConvP)
  | rread (t : SlotId)
  | rwrite (t : SlotId)
  | racc (t : SlotId)
  | acc (t : SlotId)
  | upd (t : SlotId)
  | smp (t : SlotId)
  | gth (t : SlotId) (records : Nat)
  | sct (t : SlotId) (msgs : Nat)
  | clrs (t : SlotId)
  | mma (t : SlotId) (blocks : Nat)
  | vop (t : SlotId) (iters : Nat)
  | draw (t : SlotId) (p : DrawP)
  | comb (t : SlotId) (rows : Nat)
  | flush (t : SlotId)
  | ctxs (t : SlotId)
  | ctxr (t : SlotId)
  | dispatch (t : SlotId)
  | completion (t : SlotId)
  | cqHeadRecheck (st : StreamId)
  | blockRelease (t : SlotId) (u : Nat)
  | antlerReport (t : SlotId) (h : HoofId) (antler : Fin 8)
  | shadowVerdict (t : SlotId) (u : Nat) (v : Verdict)
  | bucketTrigger (n : W32) (b : BitVec 12)
  -- vector instructions (Table 9-6): the register context, then the fields
  | nld (x : Fin 8) (f : VecF)
  | vld (x : Fin 8) (f : VecF)
  | vst (x : Fin 8) (f : VecF)
  | vadd (x : Fin 8) (f : VecF)
  | vsub (x : Fin 8) (f : VecF)
  | vmul (x : Fin 8) (f : VecF)
  | vmax (x : Fin 8) (f : VecF)
  | vmin (x : Fin 8) (f : VecF)
  | vabs (x : Fin 8) (f : VecF)
  | vneg (x : Fin 8) (f : VecF)
  | vscl (x : Fin 8) (f : VecF)
  | vclp (x : Fin 8) (f : VecF)
  | vcon (x : Fin 8) (f : VecF)
  | vcmp (x : Fin 8) (f : VecF)
  | vsel (x : Fin 8) (f : VecF)
  | vdrp (x : Fin 8) (f : VecF)
  | vred (x : Fin 8) (f : VecF)
  | tred (x : Fin 8) (f : VecF)
  | vprm (x : Fin 8) (f : VecF)
  | viota (x : Fin 8) (f : VecF)
  | tld (x : Fin 8) (f : VecF)
  | tst (x : Fin 8) (f : VecF)
  | ttr (x : Fin 8) (f : VecF)
  | top (x : Fin 8) (f : VecF)
  | tgv (x : Fin 8) (f : VecF)
  | tpv (x : Fin 8) (f : VecF)
  | wcv (x : Fin 8) (f : VecF)
  | wop (x : Fin 8) (f : VecF)
  | wfn (x : Fin 8) (f : VecF)
  | pcv (x : Fin 8) (f : VecF)
  | padd (x : Fin 8) (f : VecF)
  | pmul (x : Fin 8) (f : VecF)
  | wsum (x : Fin 8) (f : VecF)
  | wnr (x : Fin 8) (f : VecF)
  | setvl (x : Fin 8) (f : VecF)
  | sumc (x : Fin 8) (f : VecF)
  -- micro-ops (Table 7-3): the UPD's slot, the block or row of its range, the fields
  | nop (t : SlotId) (u : Nat) (f : MicroF)
  | mov (t : SlotId) (u : Nat) (f : MicroF)
  | add (t : SlotId) (u : Nat) (f : MicroF)
  | sub (t : SlotId) (u : Nat) (f : MicroF)
  | mul (t : SlotId) (u : Nat) (f : MicroF)
  | mulc (t : SlotId) (u : Nat) (f : MicroF)
  | mac (t : SlotId) (u : Nat) (f : MicroF)
  | lrp (t : SlotId) (u : Nat) (f : MicroF)
  | sqr (t : SlotId) (u : Nat) (f : MicroF)
  | abs (t : SlotId) (u : Nat) (f : MicroF)
  | neg (t : SlotId) (u : Nat) (f : MicroF)
  | sgn (t : SlotId) (u : Nat) (f : MicroF)
  | max (t : SlotId) (u : Nat) (f : MicroF)
  | min (t : SlotId) (u : Nat) (f : MicroF)
  | ldc (t : SlotId) (u : Nat) (f : MicroF)
  | scl (t : SlotId) (u : Nat) (f : MicroF)
  | rcp (t : SlotId) (u : Nat) (f : MicroF)
  | rsq (t : SlotId) (u : Nat) (f : MicroF)
  | pwr (t : SlotId) (u : Nat) (f : MicroF)
  | grp (t : SlotId) (u : Nat) (f : MicroF)
  | rsum (t : SlotId) (u : Nat) (f : MicroF)
  | rmax (t : SlotId) (u : Nat) (f : MicroF)
  | red (t : SlotId) (u : Nat) (f : MicroF)
  | apl (t : SlotId) (u : Nat) (f : MicroF)
  | clp (t : SlotId) (u : Nat) (f : MicroF)
  -- host messages (Table 17-6): the port they arrive on
  | word (p : HostPort) (m : HostMsg)
  | write (p : HostPort) (m : HostMsg)
  | read (p : HostPort) (m : HostMsg)
  | sopen (p : HostPort) (m : HostMsg)
  | sclose (p : HostPort) (m : HostMsg)
  | rxcred (p : HostPort) (m : HostMsg)
  -- fabric packets (Table 13-3): the port they arrive on
  | rdreq (p : FabPort) (k : Packet)
  | wrreq (p : FabPort) (k : Packet)
  | accm (p : FabPort) (k : Packet)
  | preq (p : FabPort) (k : Packet)
  | fwd (p : FabPort) (k : Packet)
  | pend (p : FabPort) (k : Packet)
  | rply (p : FabPort) (k : Packet)
  | rel (p : FabPort) (k : Packet)
  | ring (p : FabPort) (k : Packet)
  | bar (p : FabPort) (k : Packet)
  | beac (p : FabPort) (k : Packet)
  | bleat (p : FabPort) (k : Packet)
  | excl (p : FabPort) (k : Packet)
  | packetForward (p : FabPort) (k : Packet)
  | linkReplay (p : FabPort) (fails : Replays)
  | fabricLinkDown (p : FabPort) (lost : Nat)
  | fabricLinkUp (p : FabPort) (far : DevId)
  | moduleDown (l : UnitFault)
  | beaconSend
  | beaconSilence (d : DevId)
  | reissue (t : SlotId)
  | reissueSilence (t : SlotId)
  | pendTimer (src : DevId) (ticket : BitVec 16)
  | rplyResend (src : DevId) (ticket : BitVec 16)
  | originatorSilence (src : DevId) (ticket : BitVec 16)
  | residencyDiscard (k : Nat)
  | quarantineEnd (t : SlotId)
  | filterEntryExpiry (h : HoofId) (src : DevId) (ticket : BitVec 16)
  | heldKeyExpiry (src : DevId) (ticket : BitVec 16)
  | remoteStreamIdleClose (st : StreamId)
  | hoofLinkTimeout (h : LateMsg)
  | hostResponseTimeout (p : HostPort)
  | linkRetrainTimeout (l : Link)
  | fabricPortRetire (p : FabPort)
  | rateWindow (d : Die) (mhz : BitVec 16)
  | dramRefresh (h : HoofId) (ch : BitVec 5) (bank : BitVec 7)
  | scrub (h : HoofId) (ch : BitVec 5) (acc : BitVec 27) (errs errs2 : List (Fin 38 × BitVec 16))
  | patchMoveDone (h : HoofId) (ch : BitVec 5) (patch : BitVec 13)
  | parityDelta (k : Nat)
  | fullStripeComplete (k : Nat)
  | streamRefill (st : StreamId)
  | streamCloseComplete (st : StreamId)
  | domainWake (d : Domain)
  | domainIdleGate (d : Domain)
  | functionDisabled (f : Fin 8)
  | hoofTrained (h : HoofId) (p : TrainP)
  | rstNAssert (ns : Nat)
  | rstNRelease
  | wrstNAssert (ns : Nat)
  | warmResetRemoteTimeout (t : SlotId)
  | warmResetIdleDone
  | wrstNRelease
  | refclkLoss (d : Die)
  | supplyFault (d : Die)
  | thermAlert (d : Die) (celsius : Byte)
  | thermalTrip (d : Die) (celsius : Byte)
  -- register commands (the CSR chapters)
  | coreRun (c : CoreId) (bootpc : BitVec 28)
  | coreHalt (c : CoreId)
  | wake (c : CoreId)
  | rateClr (d : Die)
  | rateLowClear (d : Die)
  | drxtestCall (v : W64)
  | toutRead (hi : Bool)
  | streamOpen (st : StreamId) (img : BitVec 24)
  | streamClose (st : StreamId)
  | streamReconfigure (st : StreamId) (img : BitVec 24)
  | enable (f : Fin 8)
  | drain (f : Fin 8)
  | abort (f : Fin 8)
  | pclr
  | fabadmit (d : DevId)
  | fabcfgWrite (v : W64)
  | slayWrite (n : Fin 3) (v : W64)
  | spaceWrite (k : BitVec 6) (b : Bool) (v : W64)
  | hresvWrite (h : HoofId) (v : W64)
  | pwrctlWrite (v : W64)
  | vecstatWrite (v : W64)
  | drstatWrite (v : W64)
  | lstatWrite (p : FabPort) (v : W64)
  | mlogptrWrite (v : W64)
  | fltstatWrite (v : W64)
  | thermWrite (v : W64)
  | sbstatRead
  | arrhsRead
  | arrmacRead
  | shdcnt0Read
  | shdcnt1Read
  | grcntRead (h : HoofId)
  | sholdRead
  | strmcntRead
  | drcntRead
  | fabcnt0Read
  | fabcnt1Read
  | lstatRead (p : FabPort)
  | heccRead (h : HoofId)
  | parcntRead (h : HoofId)
  | fltcntRead
  | hpstatRead (p : HostPort)
  | hlstatRead (h : HoofId)
  | registerWrite (off : BitVec 28) (v : W64)
  -- management port (R464, R465)
  | i3cReadCommand (addr : BitVec 56)
  | i3cWriteCommand (addr : BitVec 56) (data : W64)
  | i3cResultRead
  | entdaa (a : BitVec 7)
  | setdasa (a : BitVec 7)
  | setnewda (a : BitVec 7)
  | rstdaa
  | getpid
  | getbcr
  | getdcr
  | getstatus
  -- test access (R466, Table 17-10)
  | tapReset
  | idcode
  | samplePreload
  | extest
  | clamp
  | highz
  | ijtag (instrument : BitVec 3)
  | bypass
  -- the rows at the end of the table
  | bringUpComplete (badBanks : List (BitVec 8))
  | hostLinkUp (p : HostPort)
  | hoofLinkUp (h : HoofId)
  | malformedPacket (p : FabPort)
  | discardedHostMessage (p : HostPort)
  | otherCcc (directed : Bool)
deriving DecidableEq, Repr

end Sys2Proof
end

