-- ==== Sys2Proof/Decode.lean ====
section
/-!
DEFINITION. The command that a word of the opcode table spells, and the scalar instruction that a parcel spells (R149, R150). The table gives no row
any bits: its rows are commands (notes/assumptions/8), so no word of it spells one. Engine words and descriptors are read where a command carries
them.
-/

namespace Sys2Proof

/-- No row of spec/opcode_table.json has bits. -/
def decodeTableWord (_nbits _w : Nat) : Option Instr := none

/-- Bits [hi:lo] of a parcel as a field. -/
def parcelField (n : Nat) (w lo : Nat) : BitVec n := BitVec.ofNat n (w / 2 ^ lo)

/-- The scalar instruction that core c reads from a parcel, `second` being the one behind it, which LI takes (R149, Tables 6-2 and 6-3). Fields that
a command carries are judged where it runs; a MAJ that Table 6-3 does not list, and bits that a form leaves unused, give none (R150). -/
def decodeParcel (c : CoreId) (w second : Nat) : Option Instr :=
  let rd : BitVec 5 := parcelField 5 w 6
  let rs1 : BitVec 5 := parcelField 5 w 11
  let rs2 : BitVec 5 := parcelField 5 w 16
  let func : BitVec 6 := parcelField 6 w 21
  let imm : BitVec 16 := parcelField 16 w 16
  let imm21 : BitVec 21 := parcelField 21 w 11
  let unused := fun (lo n : Nat) (i : Instr) => if w / 2 ^ lo % 2 ^ n = 0 then some i else none
  match w % 64 with
  | 0x01 => unused 27 5 (.op c rd rs1 rs2 func)
  | 0x02 => some (.addi c rd rs1 imm)
  | 0x03 => some (.andi c rd rs1 imm)
  | 0x04 => some (.ori c rd rs1 imm)
  | 0x05 => some (.xori c rd rs1 imm)
  | 0x06 => some (.shi c rd rs1 imm)
  | 0x07 => some (.li c rd imm21 (parcelField 32 second 0))
  | 0x08 => unused 27 5 (.cmp c rd rs1 rs2 func)
  | 0x09 => some (.cmpi c rd rs1 imm)
  | 0x0A => unused 27 5 (.plog c rd rs1 rs2 func)
  | 0x10 => some (.ld c rd rs1 imm)
  | 0x11 => some (.st c rd rs1 imm)
  | 0x12 => some (.ld32 c rd rs1 imm)
  | 0x13 => some (.st32 c rd rs1 imm)
  | 0x18 => some (.br c (parcelField 3 w 6) (decide (w / 2 ^ 9 % 2 = 1)) (parcelField 22 w 10))
  | 0x19 => some (.jal c rd imm21)
  | 0x1A => some (.jr c rd rs1 imm)
  | 0x20 => unused 16 16 (.wait c rd rs1)
  | 0x21 => unused 16 16 (.summ c rd rs1)
  | 0x22 => some (.tsts c rd rs1 imm)
  | 0x23 => some (.fence c rd rs1 imm)
  | 0x24 => unused 11 5 (.mfs c rd imm)
  | 0x25 => unused 6 5 (.mts c rs1 imm)
  | 0x26 => unused 6 26 (.tret c)
  | 0x27 => unused 6 26 (.brk c)
  | 0x28 => unused 21 11 (.drx c rd rs1 rs2)
  | 0x29 => unused 6 26 (.halt c)
  | _ => none

end Sys2Proof
end

