-- ==== Sys2Proof/Config.lean ====
section
/-!
DEFINITION. The free values: what the manual leaves open and the model constrains no further than the manual does.
Each is an opaque constant, so nothing can prove which value it has (notes/assumptions/1).
-/

namespace Sys2Proof.Config

/-- DESIGN CHOICE 1. Whether the stepping's algebraic function (0 RCP, 1 SQRT, 2 RSQ) gives, for an operand `m * 2^e` whose
exact result is not on the grid, the grid value above the exact result in place of the one below it; both lie within the
1 ulp of Table 4-9 (R126). -/
opaque upper : (fn : Nat) → (m e : Int) → (X : Int) → Bool

/-- DESIGN CHOICE 1. Mantissa bits of a transcendental result (3 EXP2, 4 LOG2, 5 EXP, 6 LOG, 7 POW) of the operands `m * 2^e`
and `m2 * 2^e2`: R126 bounds it, and the stepping fixes it (R10). -/
opaque mant : (fn : Nat) → (m e m2 e2 : Int) → Nat

/-- DESIGN CHOICE 1. Exponent of the same results (EXP2 and the draw's exp2 do not use it). -/
opaque expo : (fn : Nat) → (m e m2 e2 : Int) → Int

/-- DESIGN CHOICE 1. Sign of LOG2 and LOG results. -/
opaque sign : (fn : Nat) → (m e m2 e2 : Int) → Bool

/-- DESIGN CHOICE 2. Whether the n-th reset pulse of 100 ns to 1 us is acted on (R453). -/
opaque pulseActs : (n : Nat) → Bool

/-- DESIGN CHOICE 1. The two status bytes that the n-th GETSTATUS returns: R464 says that the target answers, and gives no value. -/
opaque getStatus : (n : Nat) → BitVec 16

end Sys2Proof.Config
end

