-- ==== Sys2Proof/Machine/Map.lean ====
section
/-!
DEFINITION. Sparse total maps with a canonical form: a list of (key, value) pairs, keys strictly rising, no entry equal to
what an unlisted key reads as. The store, DRAM, register files, slots and tables of the block are such maps, so that the
state stays plain data and equal contents are equal lists.
-/

namespace Sys2Proof.Machine

/-- Read key `k`; `d` is what an unlisted key reads as. -/
def mget {α : Type} (d : Nat → α) : List (Nat × α) → Nat → α
  | [], k => d k
  | (j, v) :: m, k => if j = k then v else mget d m k

/-- Place `v` at key `k`, keeping the keys in rising order. -/
def mins {α : Type} : List (Nat × α) → Nat → α → List (Nat × α)
  | [], k, v => [(k, v)]
  | (j, w) :: m, k, v =>
    if k < j then (k, v) :: (j, w) :: m
    else if k = j then (k, v) :: m
    else (j, w) :: mins m k v

/-- Write `v` at key `k`: writing what an unlisted key reads as removes the entry. -/
def mput {α : Type} [DecidableEq α] (d : Nat → α) (m : List (Nat × α)) (k : Nat) (v : α) : List (Nat × α) :=
  if v = d k then m.filter (fun e => e.1 ≠ k) else mins m k v

/-- Every key of the list is above `k`. -/
def keysAbove {α : Type} (k : Nat) (m : List (Nat × α)) : Bool := m.all (fun e => decide (k < e.1))

/-- The canonical form. -/
def mwf {α : Type} [DecidableEq α] (d : Nat → α) : List (Nat × α) → Bool
  | [] => true
  | (j, v) :: m => decide (v ≠ d j) && keysAbove j m && mwf d m

/-- Replace the entries of a list of pairs that satisfy nothing but their key: association-list update in place, appending a new key. -/
def aput {κ α : Type} [DecidableEq κ] : List (κ × α) → κ → α → List (κ × α)
  | [], k, v => [(k, v)]
  | (j, w) :: m, k, v => if j = k then (k, v) :: m else (j, w) :: aput m k v

/-- Look a key up in a list of pairs. -/
def aget {κ α : Type} [DecidableEq κ] : List (κ × α) → κ → Option α
  | [], _ => none
  | (j, w) :: m, k => if j = k then some w else aget m k

/-- Remove a key from a list of pairs. -/
def adel {κ α : Type} [DecidableEq κ] (m : List (κ × α)) (k : κ) : List (κ × α) := m.filter (fun e => e.1 ≠ k)

/-- Insert a number into a list without repeats. -/
def addNew {κ : Type} [DecidableEq κ] (l : List κ) (x : κ) : List κ := if x ∈ l then l else l ++ [x]

end Sys2Proof.Machine
end

