-- ==== Sys2Proof/Machine/Bits.lean ====
section
/-!
DEFINITION. Bit fields, bytes and checksums: fields of numbers, little-endian bytes (R68), signed readings, the CRCs of R110
and R362, and saturating counters.
-/

namespace Sys2Proof.Machine

/-- Bits [hi:lo] of a number. -/
def bits (w hi lo : Nat) : Nat := (w / 2 ^ lo) % 2 ^ (hi + 1 - lo)

/-- Bit `i` of a number. -/
def bitAt (w i : Nat) : Bool := bits w i i = 1

/-- Bits [hi:lo] of a register. -/
def fld (w : W64) (hi lo : Nat) : Nat := bits w.toNat hi lo

/-- Bit `i` of a register. -/
def flag (w : W64) (i : Nat) : Bool := bitAt w.toNat i

/-- Replace bits [hi:lo] of a number. -/
def setBits (w hi lo v : Nat) : Nat :=
  w - bits w hi lo * 2 ^ lo + (v % 2 ^ (hi + 1 - lo)) * 2 ^ lo

/-- Replace bits [hi:lo] of a register. -/
def setFld (w : W64) (hi lo v : Nat) : W64 := BitVec.ofNat 64 (setBits w.toNat hi lo v)

/-- Set or clear bit `i` of a register. -/
def setFlag (w : W64) (i : Nat) (b : Bool) : W64 := setFld w i i (if b then 1 else 0)

/-- Two's-complement reading of an n-bit number. -/
def sext (n v : Nat) : Int := if v % 2 ^ n < 2 ^ (n - 1) then ((v % 2 ^ n : Nat) : Int) else ((v % 2 ^ n : Nat) : Int) - ((2 ^ n : Nat) : Int)

/-- The n-bit pattern of an integer. -/
def uns (n : Nat) (v : Int) : Nat := (v % ((2 ^ n : Nat) : Int)).toNat

/-- A counter that saturates at its largest n-bit value. -/
def satAdd (n v k : Nat) : Nat := Nat.min (v + k) (2 ^ n - 1)

/-- Add to a counter field [hi:lo] of a register, saturating. -/
def bump (w : W64) (hi lo k : Nat) : W64 := setFld w hi lo (satAdd (hi + 1 - lo) (fld w hi lo) k)

/-- Number of bits of a number: 0 for 0. -/
def bitLen (n : Nat) : Nat := if n = 0 then 0 else Nat.log2 n + 1

/-- ceil(a / b). -/
def cdiv (a b : Nat) : Nat := (a + b - 1) / b

/-- ceil(log2 n), 0 for n at most 1. -/
def clog2 (n : Nat) : Nat := if n ≤ 1 then 0 else Nat.log2 (n - 1) + 1

/-- Little-endian number of a list of bytes. -/
def leNat : List Byte → Nat
  | [] => 0
  | b :: bs => b.toNat + 256 * leNat bs

/-- The n little-endian bytes of a number. -/
def leBytes : Nat → Nat → List Byte
  | 0, _ => []
  | n + 1, v => BitVec.ofNat 8 v :: leBytes n (v / 256)

/-- Field of `n` bytes at byte `o` of a record. -/
def fieldAt (bs : List Byte) (o n : Nat) : Nat := leNat ((bs.drop o).take n)

/-- Signed byte at byte `o` of a record. -/
def sbyteAt (bs : List Byte) (o : Nat) : Int := sext 8 (fieldAt bs o 1)

/-- Replace `new` at byte `o` of a record. -/
def putAt (bs : List Byte) (o : Nat) (new : List Byte) : List Byte :=
  bs.take o ++ new ++ bs.drop (o + new.length)

/-- Read `n` bytes of a byte memory that reads zero where nothing is listed. -/
def readBytes (m : List (Nat × Byte)) (a : Nat) : Nat → List Byte
  | 0 => []
  | n + 1 => mget (fun _ => 0) m a :: readBytes m (a + 1) n

/-- Write bytes into a byte memory. -/
def writeBytes (m : List (Nat × Byte)) (a : Nat) : List Byte → List (Nat × Byte)
  | [] => m
  | b :: bs => writeBytes (mput (fun _ => 0) m a b) (a + 1) bs

/-- One bit of the reflected CRC-32 with the Castagnoli polynomial 0x1EDC_6F41 (R362). -/
def crc32bit (c : Nat) : Nat := if c % 2 = 1 then (c / 2) ^^^ 0x82F63B78 else c / 2

/-- `n`-fold application. -/
def times {α : Type} (f : α → α) : Nat → α → α
  | 0, x => x
  | n + 1, x => times f n (f x)

/-- CRC-32 of R362: initial value 0xFFFF_FFFF, reflected, final value inverted. -/
def crc32 (bs : List Byte) : Nat :=
  (bs.foldl (fun c b => times crc32bit 8 (c ^^^ b.toNat)) 0xFFFFFFFF) ^^^ 0xFFFFFFFF

/-- One bit of the CRC-16 with polynomial 0x1021, most significant bit first (Table 4-4). -/
def crc16bit (c : Nat) : Nat := if c / 32768 % 2 = 1 then ((c * 2) % 65536) ^^^ 0x1021 else (c * 2) % 65536

/-- CRC-16 of Table 4-4: ascending bytes, initial value 0xFFFF. -/
def crc16 (bs : List Byte) : Nat :=
  bs.foldl (fun c b => times crc16bit 8 (c ^^^ (b.toNat * 256))) 0xFFFF

/-- The number whose bit `i` is set for each listed `i` below `n`. -/
def bitmapBytes (n : Nat) (set : List Nat) : List Byte :=
  (List.range n).map (fun k => BitVec.ofNat 8
    ((List.range 8).foldl (fun a i => if (8 * k + i) ∈ set then a + 2 ^ i else a) 0))

/-- The set bits of a bitmap. -/
def bitmapList (bs : List Byte) : List Nat :=
  (List.range (8 * bs.length)).filter (fun i => bitAt (fieldAt bs (i / 8) 1) (i % 8))

/-- Add to the element `i` of a list of numbers that satisfy a key. -/
def sumNat (l : List Nat) : Nat := l.foldl (· + ·) 0

/-- Largest of a list of integers, `d` for the empty list. -/
def maxInt (d : Int) : List Int → Int
  | [] => d
  | x :: xs => xs.foldl Max.max x

end Sys2Proof.Machine
end

