-- ==== Sys2Proof/Machine/Format.lean ====
section
/-!
DEFINITION. Number formats (spec/03) and rounding (spec/04): exact values, codes, block scales, conversion toward zero,
stochastic rounding, compensated pairs, wide numbers.
-/

namespace Sys2Proof.Machine

/-- An exact value of the block: void, or `m * 2^e` (R64, R81). -/
inductive Num where
  | void
  | fin (m e : Int)
deriving DecidableEq, Repr

/-- `m * 2^e` on the grid `2^X`, rounded toward zero (R99). -/
def onGrid (m e X : Int) : Int :=
  if X ≤ e then m * (2 ^ (e - X).toNat : Int) else Int.tdiv m (2 ^ (X - e).toNat : Int)

/-- Is `m * 2^e` exactly a multiple of `2^X`? -/
def exactOn (m e X : Int) : Bool := X ≤ e || decide (Int.tmod m (2 ^ (X - e).toNat : Int) = 0)

/-- floor(log2 |m * 2^e|) for a non-zero m. -/
def lg (m e : Int) : Int := (Nat.log2 m.natAbs : Int) + e

namespace Num

/-- The value zero. -/
def zero : Num := .fin 0 0

/-- Is the value void? -/
def isVoid : Num → Bool
  | .void => true
  | .fin _ _ => false

/-- Neither zero nor void (R244). -/
def active : Num → Bool
  | .void => false
  | .fin m _ => decide (m ≠ 0)

/-- Mantissa on the grid `2^X`, toward zero. -/
def at_ (X : Int) : Num → Option Int
  | .void => none
  | .fin m e => some (onGrid m e X)

/-- Exact sum (R81: void with anything is void). -/
def add : Num → Num → Num
  | .fin a x, .fin b y => let z := Min.min x y; .fin (onGrid a x z + onGrid b y z) z
  | _, _ => .void

/-- Exact negation. -/
def neg : Num → Num
  | .void => .void
  | .fin m e => .fin (-m) e

/-- Exact difference. -/
def sub (a b : Num) : Num := add a (neg b)

/-- Exact product. -/
def mul : Num → Num → Num
  | .fin a x, .fin b y => .fin (a * b) (x + y)
  | _, _ => .void

/-- Exact magnitude. -/
def abs : Num → Num
  | .void => .void
  | .fin m e => .fin m.natAbs e

/-- Exact scaling by a power of two. -/
def scl (k : Int) : Num → Num
  | .void => .void
  | .fin m e => .fin m (e + k)

/-- a < b for two values that are not void. -/
def lt : Num → Num → Bool
  | .fin a x, .fin b y => let z := Min.min x y; decide (onGrid a x z < onGrid b y z)
  | _, _ => false

/-- a = b in value, neither void. -/
def eqv : Num → Num → Bool
  | .fin a x, .fin b y => let z := Min.min x y; decide (onGrid a x z = onGrid b y z)
  | _, _ => false

/-- Larger of two values; a void operand is ignored (R81). -/
def max : Num → Num → Num
  | .void, b => b
  | a, .void => a
  | a, b => if lt a b then b else a

/-- Smaller of two values; a void operand is ignored (R81). -/
def min : Num → Num → Num
  | .void, b => b
  | a, .void => a
  | a, b => if lt b a then b else a

/-- a clamped to -|c| .. +|c|. -/
def clamp : Num → Num → Num
  | .void, _ => .void
  | _, .void => .void
  | a, c => if lt (abs c) (abs a) then (match a with | .fin m _ => if m < 0 then neg (abs c) else abs c | .void => .void) else a

/-- Sign of a value as a value at exponent 0. -/
def sgn : Num → Num
  | .void => .void
  | .fin m _ => .fin m.sign 0

/-- Integer toward zero; void gives none. -/
def trunc (a : Num) : Option Int := at_ 0 a

end Num

/-- Exact sum of values; void if any is (R81). -/
def sumNum (l : List Num) : Num := l.foldl Num.add Num.zero

/-- Largest magnitude of the non-void values, as `m * 2^e`; none if there is no non-zero one. -/
def maxMag (l : List Num) : Option (Int × Int) :=
  match l.foldl (fun acc v => Num.max acc (Num.abs v)) Num.void with
  | .fin m e => if m = 0 then none else some (m, e)
  | .void => none

/-- Log2 code of R111: floor(log2) clamped to -127 .. +127, and -128 (0x80) for no value. -/
def logCode (o : Option (Int × Int)) : Int :=
  match o with
  | none => -128
  | some (m, e) => Max.max (-127) (Min.min 127 (lg m e))

/-- Larger of two log2 codes, 0x80 below every other. -/
def logMax (a b : Int) : Int := Max.max a b

/-- Antilog table T (Table 3-5). -/
def antilog : List Nat := [2048, 2138, 2233, 2332, 2435, 2543, 2655, 2773, 2896, 3024, 3158, 3298, 3444, 3596, 3756, 3922]

/-- Decoded magnitude of an L8 magnitude code in units of 2^-11 quanta (R77). -/
def l8mag (m : Nat) : Nat :=
  if m < 16 then m * 128 else antilog.getD ((m - 16) % 16) 0 * 2 ^ ((m - 16) / 16)

/-- Format codes of Table 11-5. -/
def fRAW : Nat := 0
/-- K4 -/
def fK4 : Nat := 1
/-- K8 -/
def fK8 : Nat := 2
/-- K16 -/
def fK16 : Nat := 3
/-- K4U -/
def fK4U : Nat := 4
/-- K8U -/
def fK8U : Nat := 5
/-- K16U -/
def fK16U : Nat := 6
/-- L8 -/
def fL8 : Nat := 7
/-- A32 -/
def fA32 : Nat := 8
/-- G32 -/
def fG32 : Nat := 9
/-- wide numbers -/
def fWIDE : Nat := 10
/-- pairs -/
def fPAIR : Nat := 11

/-- Formats with block bytes (R64). -/
def narrow (fmt : Nat) : Bool := 1 ≤ fmt && fmt ≤ 7

/-- Formats without a void code (R69). -/
def unsignedFmt (fmt : Nat) : Bool := 4 ≤ fmt && fmt ≤ 6

/-- Width in bits of a code. -/
def codeBits (fmt : Nat) : Nat :=
  if fmt = 1 ∨ fmt = 4 then 4 else if fmt = 2 ∨ fmt = 5 ∨ fmt = 7 then 8 else if fmt = 3 ∨ fmt = 6 then 16 else 32

/-- Width w of Table 4-3 (A32 takes 31, R112). Table 4-3 and R112 give none for a G32 region: it takes A32's, whose element it has
(DESIGN CHOICE, notes/assumptions/27). -/
def widthW (fmt : Nat) : Int :=
  if fmt = 1 then 3 else if fmt = 2 then 7 else if fmt = 3 then 15 else if fmt = 4 then 4 else if fmt = 5 then 8
  else if fmt = 6 then 16 else if fmt = 7 then 7 else 31

/-- Largest magnitude of an integer format (Table 3-3). -/
def fmtMax (fmt : Nat) : Nat := 2 ^ (widthW fmt).toNat - 1

/-- Value of a narrow code at block exponent E (R64, R69, R75-R77). -/
def decodeCode (fmt : Nat) (code : Nat) (E : Int) : Num :=
  if fmt = fL8 then
    if code % 256 = 0x80 then .void
    else
      let v : Int := (l8mag (code % 128) : Int)
      .fin (if code % 256 < 128 then v else -v) (E - 11)
  else if unsignedFmt fmt then .fin ((code % 2 ^ codeBits fmt : Nat) : Int) E
  else
    let v := sext (codeBits fmt) code
    if v = -((2 ^ (codeBits fmt - 1) : Nat) : Int) then .void else .fin v E

/-- Result of writing one element. -/
structure Enc where
  code : Nat
  ovf  : Bool
  vp   : Bool
  unf  : Bool
  edge : Bool
  /-- a void made from a non-void value (R81) -/
  made : Bool
  /-- a void lost in an unsigned format (R82) -/
  lost : Bool
deriving DecidableEq, Repr

/-- A clean element. -/
def Enc.ok (code : Nat) : Enc := { code := code, ovf := false, vp := false, unf := false, edge := false, made := false, lost := false }

/-- Pattern of a signed integer code or of an L8 code of magnitude c (R79). -/
def signedCode (fmt : Nat) (negative : Bool) (c : Nat) : Nat :=
  if fmt = fL8 then (if negative ∧ c ≠ 0 then 128 + c else c)
  else uns (codeBits fmt) (if negative then -(c : Int) else (c : Int))

/-- Void code of a signed format. -/
def voidCode (fmt : Nat) : Nat := 2 ^ (codeBits fmt - 1)

/-- Largest code magnitude: the largest integer, or m = 127 (R79). -/
def topCode (fmt : Nat) : Nat := if fmt = fL8 then 127 else fmtMax fmt

/-- `sat_or_void` of R79. -/
def satOrVoid (fmt : Nat) (strict negative : Bool) : Enc :=
  if strict then { Enc.ok (voidCode fmt) with vp := true, made := true }
  else { Enc.ok (signedCode fmt negative (topCode fmt)) with ovf := true }

/-- Toward-zero code magnitude of |m| * 2^e at exponent E, below the saturation threshold (R79). -/
def towardCode (fmt : Nat) (m e E : Int) : Nat :=
  if fmt = fL8 then
    if (onGrid m.natAbs e E) < 1 then (onGrid m.natAbs e (E - 4)).toNat
    else
      let a := (onGrid m.natAbs e (E - 11)).toNat
      (List.range 112).foldl (fun best k => if l8mag (16 + k) ≤ a then 16 + k else best) 16
  else (onGrid m.natAbs e E).toNat

/-- Does |m| * 2^e reach the saturation threshold max + 1 = 2^w (R79)? -/
def overTop (fmt : Nat) (m e E : Int) : Bool := decide (((2 ^ (widthW fmt).toNat : Nat) : Int) ≤ onGrid m.natAbs e E)

/-- Conversion toward zero (R79, R80, R82). -/
def encode (fmt : Nat) (strict : Bool) (E : Int) : Num → Enc
  | .void => if unsignedFmt fmt then { Enc.ok 0 with lost := true } else { Enc.ok (voidCode fmt) with vp := true }
  | .fin m e =>
    if unsignedFmt fmt ∧ m < 0 then { Enc.ok 0 with ovf := true }
    else if overTop fmt m e E then satOrVoid fmt strict (decide (m < 0))
    else
      let c := towardCode fmt m e E
      if c = 0 then { Enc.ok 0 with unf := decide (m ≠ 0) }
      else Enc.ok (signedCode fmt (decide (m < 0)) c)

/-- Top b bits of the fraction that conversion toward zero drops (R101, R102). -/
def roundFrac (fmt b : Nat) (m e E : Int) (c : Nat) : Nat :=
  if fmt = fL8 then
    if c < 16 then (onGrid m.natAbs e (E - 4 - b) - (c : Int) * (2 ^ b : Nat)).toNat
    else
      let d := l8mag c
      let up := if c = 127 then 2 ^ 18 else l8mag (c + 1)
      let k := e - E + 11
      if 0 ≤ k then ((m.natAbs * 2 ^ k.toNat - d) * 2 ^ b) / (up - d)
      else ((m.natAbs - d * 2 ^ (-k).toNat) * 2 ^ b) / ((up - d) * 2 ^ (-k).toNat)
  else (onGrid m.natAbs e (E - b) - (c : Int) * (2 ^ b : Nat)).toNat

/-- Stochastic rounding with the b random bits r (R101-R103). -/
def sround (fmt : Nat) (strict : Bool) (E : Int) (b r : Nat) : Num → Enc
  | .void => if unsignedFmt fmt then { Enc.ok 0 with lost := true } else { Enc.ok (voidCode fmt) with vp := true }
  | .fin m e =>
    if unsignedFmt fmt ∧ m < 0 then { Enc.ok 0 with ovf := true }
    else if overTop fmt m e E then satOrVoid fmt strict (decide (m < 0))
    else
      let c := towardCode fmt m e E
      let up := decide (2 ^ b ≤ roundFrac fmt b m e E c + r)
      let c' := if up then c + 1 else c
      if topCode fmt < c' then { Enc.ok (signedCode fmt (decide (m < 0)) (topCode fmt)) with edge := true }
      else if c' = 0 then { Enc.ok 0 with unf := decide (m ≠ 0) }
      else Enc.ok (signedCode fmt (decide (m < 0)) c')

/-- Largest magnitude A of a block (R104): void values left out; an unsigned format leaves out negative ones. -/
def blockMag (fmt : Nat) (vals : List Num) : Option (Int × Int) :=
  maxMag (if unsignedFmt fmt then vals.filter (fun v => match v with | .fin m _ => decide (0 ≤ m) | .void => false) else vals)

/-- Fine scale that a whole-block write takes (R104). -/
def chooseF (fmt : Nat) (C : Int) (L : Nat) (vals : List Num) : Int :=
  match blockMag fmt vals with
  | none => 0
  | some (m, e) => Min.min 7 (Max.max (-8) (lg m e - (C + L) - widthW fmt + 1))

/-- The block byte (R66). -/
def blockByte (F : Int) (L : Nat) (ovf vp : Bool) : Byte :=
  BitVec.ofNat 8 (uns 4 F + 16 * (L % 4) + (if ovf then 64 else 0) + (if vp then 128 else 0))

/-- F, L, OVF and VP of a block byte. -/
def bbF (b : Byte) : Int := sext 4 b.toNat
/-- L -/
def bbL (b : Byte) : Nat := bits b.toNat 5 4
/-- OVF -/
def bbOvf (b : Byte) : Bool := bitAt b.toNat 6
/-- VP -/
def bbVp (b : Byte) : Bool := bitAt b.toNat 7

/-- Lift of a whole-block write in the steady or guarded regime (R107): the lift used, and whether CARRY_PEND is requested. -/
def liftRule (guarded strict : Bool) (old : Byte) : Nat × Bool :=
  if guarded ∨ strict ∨ ¬ bbOvf old then (bbL old, false)
  else if bbL old < 3 then (bbL old + 1, false) else (3, true)

/-- nearest(v / 256), ties toward zero (R88). -/
def nearest256 (v : Int) : Int :=
  let q := Int.tdiv v 256
  let r := Int.tmod v 256
  if 128 < r then q + 1 else if r < -128 then q - 1 else q

/-- Compensated pair of an exact value at block exponent E (R88): hi and lo. -/
def compensate (m e E : Int) : Int × Int :=
  let v := onGrid m e (E - 8)
  let hi := nearest256 v
  let lo := v - 256 * hi
  let lo := if lo.natAbs = 128 then lo - lo.sign else lo
  if 127 < hi.natAbs then (hi.sign * 127, hi.sign * 127) else (hi, lo)

/-- A compensated element as it is written: what the hi code reports, and the lo code (R88, R103, Table 4-2). R88's procedure overflows from 127.5
quanta on, where Table 4-2's rows turn at 128: the procedure, which chapter 3 alone defines (R12), sets OVF, and makes the element void in a strict
region (DEDUCED, notes/assumptions/49). -/
def compEnc (strict : Bool) (E : Int) : Num → Enc × Nat
  | .void => ({ Enc.ok 0x80 with vp := true }, 0)
  | .fin m e =>
    let c := compensate m e E
    if 127 < (nearest256 (onGrid m e (E - 8))).natAbs then (satOrVoid fK8 strict (decide (m < 0)), if strict then 0 else uns 8 c.2)
    else ({ Enc.ok (uns 8 c.1) with unf := decide (m ≠ 0 ∧ c.1 = 0 ∧ c.2 = 0) }, uns 8 c.2)

/-- Value of a compensated element (R87, R88). -/
def decodeComp (hi lo : Nat) (E : Int) : Num :=
  match decodeCode fK8 hi E with
  | .void => .void
  | .fin m _ => if lo % 256 = 0x80 then .void else .fin (256 * m + sext 8 lo) (E - 8)

/-- Smallest exponent at which |m| * 2^e fits in n magnitude bits. -/
def fitExp (n : Nat) (o : Option (Int × Int)) : Int :=
  match o with
  | none => -100000
  | some (m, e) => (bitLen m.natAbs : Int) + e - n

/-- Largest A32-style mantissa. -/
def max31 : Int := 2147483647

/-- An A32 mantissa held at its range (R74): value and whether it was held. -/
def hold31 (m : Int) : Int × Bool :=
  if max31 < m then (max31, true) else if m < -max31 then (-max31, true) else (m, false)

/-- 32-bit pattern of an A32-style element (R73). -/
def pat32 : Option Int → Nat
  | none => 0x80000000
  | some m => uns 32 m

/-- A32-style element of a pattern. -/
def el32 (p : Nat) : Option Int := if p % 2 ^ 32 = 0x80000000 then none else some (sext 32 p)

/-- A32 exponent that IMPORT takes (R95): the smallest X in range at which the largest magnitude is below 2^31 * 2^X; 0 without a value. -/
def a32Exp (vals : List Num) : Int :=
  match maxMag vals with
  | none => 0
  | some (m, e) => Max.max (-512) (Min.min 511 (fitExp 31 (some (m, e))))

/-- A32 block word (Table 3-4). -/
def blockWord (X : Int) (ovf vp : Bool) : Nat := uns 10 X + (if ovf then 1024 else 0) + (if vp then 2048 else 0)

/-- Checksum of a set of elements (R90). -/
def csum (l : List (Option Int)) : Nat := (l.foldl (fun a x => a + pat32 x) 0) % 2 ^ 32

/-- Exponent that the results of a group need before the bounds of R193: that of the exact result `e0`, or the smallest at which the largest fits
in 31 magnitude bits (R192, R243). -/
def regX (e0 : Int) (vals : List Num) : Int :=
  match maxMag vals with | none => e0 | some p => Max.max e0 (fitExp 31 (some p))

/-- Do the bounds of R193 hold a register's exponent? -/
def clampedX (X : Int) : Bool := decide (511 < X ∨ X < -512)

/-- Register form of the exact results of a group (R192, R193, R243): exponent, mantissas, register-saturated mark. `e0` is the
exponent of the exact result. -/
def toReg (e0 : Int) (vals : List Num) : Int × List (Option Int) × Bool :=
  let X := regX e0 vals
  if 511 < X then
    let ms := vals.map (fun v => (v.at_ 511).map hold31)
    (511, ms.map (fun o => o.map Prod.fst), ms.any (fun o => match o with | some (_, b) => b | none => false))
  else if X < -512 then
    (-512, vals.map (fun v => if v.isVoid then none else some 0), false)
  else (X, vals.map (Num.at_ X), false)

/-- A register element as a value. -/
def ofReg (X : Int) : Option Int → Num
  | none => .void
  | some m => .fin m X

/-! ### Wide numbers and pairs (R83-R85) -/

/-- The wide void. -/
def wideVoid : Nat := 0x800000000000 * 65536

/-- Value of a wide number (R83). -/
def ofWide (w : Nat) : Num :=
  let M := sext 48 (w / 65536)
  if M = -(2 ^ 47 : Int) then .void else if M = 0 then Num.zero else .fin M (sext 16 w)

/-- What a wide write reports: saturation flag (R84) and underflow count. -/
structure WideRes where
  w   : Nat
  sat : Bool
  unf : Bool
deriving DecidableEq, Repr

/-- Pattern of the mantissa M and exponent X. -/
def wideBits (M X : Int) : Nat := uns 48 M * 65536 + uns 16 X

/-- A wide result of an exact value, toward zero and in range (R83, R84, R99). -/
def toWide : Num → WideRes
  | .void => { w := wideVoid, sat := false, unf := false }
  | .fin m e =>
    if m = 0 then { w := 0, sat := false, unf := false }
    else
      let X := (bitLen m.natAbs : Int) + e - 47
      if 32767 < X then { w := wideBits (m.sign * (2 ^ 47 - 1)) 32767, sat := true, unf := false }
      else if X < -32768 then { w := 0, sat := false, unf := true }
      else { w := wideBits (onGrid m e X) X, sat := false, unf := false }

/-- Value of a pair (R85): hi + lo, void if either is. -/
def ofPair (hi lo : Nat) : Num := Num.add (ofWide hi) (ofWide lo)

/-- A normalised pair of an exact value (R85): hi toward zero, lo the remainder toward zero. -/
def toPair (v : Num) : Nat × Nat × Bool × Bool :=
  let h := toWide v
  match v, ofWide h.w with
  | .fin _ _, .fin hm he =>
    if h.sat ∨ h.unf then (h.w, 0, h.sat, h.unf)
    else
      let l := toWide (Num.sub v (.fin hm he))
      (h.w, l.w, l.sat, l.unf)
  | _, _ => (wideVoid, 0, false, false)

/-- Integer square root. -/
def isqrt (n : Nat) : Nat := Nat.sqrt n

/-- A choice within the 1 ulp of Table 4-9 between the grid value `q` below the exact magnitude and `q + 1`: the stepping's choice
when the exact result is not `q` itself. -/
def ulpChoice (fn : Nat) (m e X : Int) (q : Nat) (exact : Bool) : Nat :=
  if exact then q else if Config.upper fn m e X then q + 1 else q

/-- Magnitude of 1 / (|m| * 2^e) on the grid 2^X, as the stepping gives it within 1 ulp (R126). -/
def rcpMag (m e X : Int) : Nat :=
  -- 2^(-e - X) / |m|
  let k := -e - X
  let q := if 0 ≤ k then 2 ^ k.toNat / m.natAbs else 0
  let exact := decide (0 ≤ k) && decide ((2 ^ k.toNat) % m.natAbs = 0)
  ulpChoice 0 m e X q exact

/-- Magnitude of sqrt(m * 2^e) on the grid 2^X within 1 ulp, for m > 0. -/
def sqrtMag (m e X : Int) : Nat :=
  -- sqrt(m * 2^(e - 2X))
  let k := e - 2 * X
  let n := onGrid m k 0
  let q := isqrt n.toNat
  ulpChoice 1 m e X q (decide (q * q = n.toNat) && exactOn m k 0)

/-- Magnitude of (m * 2^e)^(-1/2) on the grid 2^X within 1 ulp, for m > 0. -/
def rsqMag (m e X : Int) : Nat :=
  -- sqrt(2^(-e - 2X) / m)
  let k := -e - 2 * X
  let n := if 0 ≤ k then 2 ^ k.toNat / m.natAbs else 0
  let q := isqrt n
  ulpChoice 2 m e X q (decide (q * q * m.natAbs = 2 ^ k.toNat) && decide (0 ≤ k))

/-- floor(log2) of 1 / (|m| 2^e) and of the square root and reciprocal square root, to place the result's exponent. -/
def rcpLg (m e : Int) : Int :=
  if m.natAbs = 2 ^ Nat.log2 m.natAbs then -(lg m e) else -(lg m e) - 1

/-- floor(log2 sqrt(m 2^e)) -/
def sqrtLg (m e : Int) : Int := Int.fdiv (lg m e) 2

/-- floor(log2 (m 2^e)^(-1/2)) -/
def rsqLg (m e : Int) : Int :=
  if m.natAbs = 2 ^ Nat.log2 m.natAbs then Int.fdiv (-(lg m e)) 2 else Int.fdiv (-(lg m e) - 1) 2

end Sys2Proof.Machine
end

