-- ==== Sys2Proof/Machine/Approx.lean ====
section
/-!
DEFINITION. The wide functions (R126, Tables 4-9 and 9-8): results in range (R84), integer enclosures of the exact exponentials and logarithms, and the
choice of a free value within the bound of Table 4-9.
-/

namespace Sys2Proof.Machine

/-! ### Wide results (R83, R84) -/

/-- The wide void. -/
def WideRes.void : WideRes := { w := Machine.wideVoid, sat := false, unf := false }
/-- A saturated wide result (R84). -/
def WideRes.top (neg : Bool) : WideRes := { w := Machine.wideBits (if neg then -(2 ^ 47 - 1) else 2 ^ 47 - 1) 32767, sat := true, unf := false }
/-- A result below the range: zero, counted (R84). -/
def WideRes.under : WideRes := { w := 0, sat := false, unf := true }
/-- A wide result of sign, 47-bit magnitude and exponent, in range (R84). -/
def WideRes.of (neg : Bool) (M : Nat) (X : Int) : WideRes :=
  if M = 0 then { w := 0, sat := false, unf := false }
  else if 32767 < X then WideRes.top neg
  else if X < -32768 then WideRes.under
  else toWide (.fin (if neg then -(M : Int) else M) X)

/-! ### Enclosures of exact results

Fixed-point integers count units of 2^-256. -/

/-- Units of one. -/
def fxOne : Nat := 2 ^ 256

/-- atanh of num / den, which is at most 1/3, from below within 2^9 units. -/
def atanhFx (num den : Nat) : Nat :=
  ((List.range 90).foldl (fun (a : Nat × Nat) k => (a.1 + a.2 / (2 * k + 1), a.2 * (num * num) / (den * den))) (0, fxOne * num / den)).1

/-- ln 2 = 2 atanh(1/3). -/
def ln2Fx : Nat := 2 * atanhFx 1 3

/-- ln(m * 2^e) of a positive m, within 2^26 units. -/
def lnFx (m : Nat) (e : Int) : Int :=
  let b := 2 ^ Nat.log2 m
  lg m e * ln2Fx + 2 * atanhFx (m - b) (m + b)

/-- log2(m * 2^e) of a positive m, within 2^26 units. -/
def log2Fx (m : Nat) (e : Int) : Int :=
  let b := 2 ^ Nat.log2 m
  lg m e * fxOne + (2 * atanhFx (m - b) (m + b) * fxOne / ln2Fx : Nat)

/-- e^r of 0 <= r < ln 2, from below within 2^9 units. -/
def expFx (r : Nat) : Nat :=
  ((List.range 80).foldl (fun (a : Nat × Nat) k => (a.1 + a.2, a.2 * r / fxOne / (k + 1))) (0, fxOne)).1

/-- An exact value to within `err`. -/
structure Encl where
  mid : Num
  err : Num
deriving DecidableEq, Repr

/-- Enclosure of 2^y for a y in fixed point that is within 2^100 units. -/
def exp2Encl (y : Int) : Encl :=
  let n := Int.fdiv y fxOne
  let v : Int := expFx ((y - n * fxOne).toNat * ln2Fx / fxOne)
  { mid := .fin v (n - 256), err := .fin 1 (n - 155) }

/-- Enclosure of a logarithm in fixed point that is within 2^30 units. -/
def logEncl (y : Int) : Encl := { mid := .fin y (-256), err := .fin 1 (-226) }

/-- Does a wide result surely lie within the bound of Table 4-9: below k units of its last place, or below 2^a where that is larger? The distance is
taken to the far end of the enclosure. A zero has no last place. -/
def WideRes.within (w : WideRes) (x : Encl) (k : Nat) (a : Option Int) : Bool :=
  let near := fun (b : Num) => Num.lt (Num.add (Num.abs (Num.sub (ofWide w.w) x.mid)) x.err) b
  !w.sat && !w.unf && !(ofWide w.w).isVoid
    && ((decide (w.w ≠ 0) && near (.fin k (sext 16 w.w))) || (match a with | some e => near (.fin 1 e) | none => false))

/-- The stepping's free value (R10, R126) where it meets the bound; the rest of the free values stand for the exact result rounded toward zero
(DESIGN CHOICE, notes/assumptions/1). -/
def WideRes.bounded (free : WideRes) (x : Encl) (k : Nat) (a : Option Int) : WideRes := if free.within x k a then free else toWide x.mid

/-- Magnitude of a transcendental result: a normalised 47-bit mantissa that the stepping fixes (R126). -/
def stepMant (fn : Nat) (m e m2 e2 : Int) : Nat := 2 ^ 46 + Config.mant fn m e m2 e2 % 2 ^ 46

/-- A positive result that the stepping fixes. -/
def stepRes (fn : Nat) (m e m2 e2 : Int) : WideRes := WideRes.of false (stepMant fn m e m2 e2) (Config.expo fn m e m2 e2)

/-- A signed result, or zero, that the stepping fixes. -/
def stepSigned (fn : Nat) (m e : Int) : WideRes :=
  let M := Config.mant fn m e 0 0 % 2 ^ 47
  WideRes.of (Config.sign fn m e 0 0) (if M < 2 ^ 46 then 0 else M) (Config.expo fn m e 0 0)

/-- A power of two with exponent y in fixed point, within k ulp; an exponent out of range follows R84. -/
def powRes (free : WideRes) (y : Int) (k : Nat) : WideRes :=
  let n := Int.fdiv y fxOne
  if 32767 + 46 < n then WideRes.top false
  else if n < -32768 + 46 then WideRes.under
  else free.bounded (exp2Encl y) k none

/-- m * 2^e in fixed point, from below. -/
def toFx (m e : Int) : Int := if -256 ≤ e then m * 2 ^ (e + 256).toNat else Int.fdiv m (2 ^ (-256 - e).toNat)

/-- EXP2 (below 2 ulp). -/
def exp2Res (m e : Int) : WideRes := powRes (stepRes 3 m e 0 0) (toFx m e) 2

/-- EXP (below 3 ulp): the exponent is x / ln 2. -/
def expRes (m e : Int) : WideRes :=
  if 60 ≤ lg m e then (if 0 < m then WideRes.top false else WideRes.under)
  else powRes (stepRes 5 m e 0 0) (Int.fdiv (toFx m e * fxOne) ln2Fx) 3

/-- LOG2 (below 2 ulp, or 2^-46) and LOG (below 3 ulp, or 2^-45) of a positive value. -/
def logRes (k : Nat) (m e : Int) : WideRes :=
  if k = 4 then (stepSigned 4 m e).bounded (logEncl (log2Fx m.natAbs e)) 2 (some (-46))
  else (stepSigned 6 m e).bounded (logEncl (lnFx m.natAbs e)) 3 (some (-45))

/-- |x|^y of a non-zero x: below 4 ulp where |y log2 x| < 2^15; from there to the end of the range Table 4-9 gives no bound, and beyond it R84
holds. -/
def powMag (m e m2 e2 : Int) : WideRes :=
  let l := log2Fx m.natAbs e
  let y : Int := if 62 < lg m2 e2 + lg l (-256) then m2.sign * l.sign * 2 ^ 62 * fxOne else onGrid (m2 * l) (e2 - 256) (-256)
  if y.natAbs < 2 ^ 15 * fxOne then powRes (stepRes 7 m e m2 e2) y 4
  else if 2 ^ 15 * fxOne ≤ y ∧ Int.fdiv y fxOne ≤ 32767 + 46 then stepRes 7 m e m2 e2
  else powRes (stepRes 7 m e m2 e2) y 4

end Sys2Proof.Machine
end

