-- ==== Sys2Proof/Machine/State.lean ====
section
/-!
DEFINITION. The state of the block as plain data, the reasons a step can stop, and the state after reset.
INVENTORY.md lists each piece with the rule of spec/ that names it.
-/

namespace Sys2Proof.Machine

/-- No command of this model faults: every access outside a range completes with a status the spec gives (R19, R151). -/
inductive Fault where
  /-- raised by nothing; safe -/
  | none
deriving DecidableEq, Repr

/-- Why a command has no meaning. -/
inductive Refusal where
  /-- The command has no meaning yet; raised by Dispatch.lean for a row not modelled. Safe: the model stops. -/
  | notModelled (mnemonic : String)
deriving DecidableEq, Repr

/-- Licensed configurations (R6, Table 0-1). -/
inductive Part where
  | rlu12 | rlu8
deriving DecidableEq, Repr

/-- Where the reset and bring-up of the block stand (R437, R438, R440). -/
inductive Phase where
  /-- RST_N asserted -/
  | coldReset
  /-- RST_N released, PWRSTAT.UP = 0 -/
  | bringUp
  /-- in service -/
  | up
  /-- warm reset, steps 1 to 4 -/
  | warmDrain
  /-- warm reset, step 5 done, WRST_N still asserted -/
  | warmIdle
deriving DecidableEq, Repr

/-- A trap record's contents (R172, Table 6-12). -/
structure TrapRec where
  ticket : Nat
  cause  : Nat
  flags  : Nat
  opc    : Nat
  var    : Nat
  region : Nat
  index  : Nat
  status : Nat
  pc     : Nat
  step   : Nat
  stream : Nat
deriving DecidableEq, Repr

/-- What a stalled core waits for (R164, R176, R161). -/
inductive Stall where
  | wait (rd : Nat) (ticket : Nat)
  | summ (rd : Nat) (ticket : Nat)
  | tsts (p : Nat) (bit : Nat) (ticket : Nat)
  | fence (tickets : List Nat)
  | word (w : BitVec 128)
  /-- the awaited operation has completed: the register and the value it receives -/
  | ready (rd : Nat) (v : W64)
  /-- the same for the predicate of TSTS -/
  | readyP (p : Nat) (b : Bool)
deriving DecidableEq, Repr

/-- A control core (R147, R153, R154, R171). -/
structure Core where
  s       : List (Nat × W64)
  p       : List (Nat × Bool)
  pc      : W64
  epc     : W64
  tvec    : W64
  tqbase  : W64
  tqhead  : BitVec 5
  tqtail  : BitVec 5
  stream  : StreamId
  inTrap  : Bool
  overrun : Bool
  tqlost  : W32
  bootpc  : BitVec 28
  running : Bool
  /-- a write of RUN = 0 waits for the instruction that stalls (Table 6-6) -/
  halting : Bool
  byHalt  : Bool
  dfault  : Bool
  stall   : Option Stall
  async   : List TrapRec
  jumps   : Nat
deriving DecidableEq, Repr

/-- A region descriptor as read (R303, Table 11-4). -/
structure Region where
  base   : Nat
  bbase  : Nat
  length : Nat
  velv   : Nat
  lbase  : Nat
  fmt    : Nat
  bsz    : Nat
  valid  : Bool
  sparse : Bool
  par    : Bool
  strict : Bool
  comp   : Bool
  perStep : Bool
  stg    : Bool
  mirror : Nat
  mv     : Bool
  coarse : Int
  gain   : Int
  tenant : Nat
  raww   : Nat
  hset   : Nat
  akey   : Nat
  ikey   : Nat
  ns     : Nat
  lobase : Nat
  sroww  : Nat
  rsvd   : Bool
deriving DecidableEq, Repr

/-- A Velvet entry as read (R110, Table 4-4). -/
structure Velvet where
  c      : Int
  g      : Int
  margin : Nat
  srb    : Nat
  carryPend  : Bool
  carryLimit : Bool
  head   : Nat
  hcount : Nat
  curMax : Int
  clean  : Nat
  hist   : List Int
  step   : Nat
  unf    : Nat
  ovf    : Nat
  edge   : Nat
  skip   : Nat
  carry  : Nat
  ok     : Bool
deriving DecidableEq, Repr

/-- Who issued an operation. -/
inductive Source where
  /-- a control core; the offset of the engine word -/
  | core (c : Nat) (pc : Nat)
  /-- a host requester -/
  | host (req : Nat)
  /-- a remote device: originator's device, ticket and stream -/
  | remote (dev : Nat) (ticket : Nat) (sstr : Nat)
  /-- a sub-operation of the operation in a slot (R281, R367) -/
  | sub (slot : Nat)
  /-- the armed bucket plan (R330) -/
  | plan
  /-- the block's own repeat of an operation, in a measure pass that repeats (R120) -/
  | again
deriving DecidableEq, Repr

/-- An address range of an operation (R162, R358). -/
structure Range where
  lo     : Nat
  len    : Nat
  wr     : Bool
  remote : Bool
deriving DecidableEq, Repr

/-- Where an operation stands. -/
inductive OpPhase where
  /-- holds a slot; the scheduler has not yet accepted it -/
  | issued
  /-- accepted: checked, tagged, ranges recorded; waits for dispatch -/
  | waiting
  /-- dispatched to its target -/
  | running
  /-- its results are written and its status settled -/
  | ended
  /-- complete, its record held for a full queue (R319) -/
  | recHeld
  /-- complete, kept by HOLD for WAIT (R164) -/
  | held
deriving DecidableEq, Repr

/-- A row-moment block of which an UPD has committed rows (R106, R107, R200): its byte before the first of them, its exact element values, and
whether a committed row was register-saturated. -/
structure RowBlk where
  blk  : Nat
  old  : Byte
  /-- mantissa and exponent; none for void -/
  vals : List (Option (Int × Int))
  sat  : Bool
deriving DecidableEq, Repr

/-- A row of a projecting gather that the shadow check holds (R237, R261): its gather index, the gathered codes and block bytes, the numbers of
its tiles that wait for their verdicts, and what a faulty array added to the totals of tiles that have theirs. -/
structure HeldRow where
  idx   : Nat
  codes : List Nat
  bbs   : List Byte
  tiles : List Nat
  errs  : List (Nat × Int)
deriving DecidableEq, Repr

/-- An operation in its slot (R155-R179). `done`, `aux` and `mem` are the operation's own progress: units of an UPD committed,
Antlers that reported, results still to merge. -/
structure Op where
  opc    : Nat
  var    : Nat
  region : Nat
  doff   : Nat
  imm    : Nat
  opA    : Nat
  opB    : Nat
  crec   : Bool
  hold   : Bool
  fb     : Bool
  src    : Source
  stream : Nat
  seq    : Nat
  phase  : OpPhase
  step   : Option Nat
  ranges : List Range
  imgs   : List (Nat × Region)
  desc   : List Byte
  status : Nat
  maxabs : Int
  count  : Nat
  ovfcnt : Nat
  flags  : Nat
  detail : Nat
  /-- lowest produced or lost void so far: logical index, cause, region (R174) -/
  voids  : Option (Nat × Nat × Nat)
  trapped  : Bool
  retried  : Bool
  degraded : Bool
  aborted  : Bool
  progress : Nat
  rel    : Bool
  trial  : Bool
  done   : List Nat
  reports : List Nat
  subs   : Nat
  subst  : List Nat
  prog   : List Nat
  /-- the byte ranges that it writes, exactly as its descriptor gives them (R176) -/
  writes : List Range
  /-- decay-table entries, loaded with the UPD (R184, R212) -/
  tabs   : List Nat
  /-- row-moment blocks of the UPD's present run -/
  rowBlks : List RowBlk
  /-- records that a gather has written whole (R278) -/
  recs   : Nat
  /-- projected rows held for the shadow check (R261) -/
  heldRows : List HeldRow
  /-- number of its dispatch in the order of dispatches (R187) -/
  dispAt : Nat
  /-- local time of its completion, of an operation that HOLD keeps (R160) -/
  doneAt : Nat
deriving DecidableEq, Repr

/-- A scoreboard slot (R158, R160). -/
inductive SlotState where
  | free
  | busy (o : Op)
  | quarantine (since : Nat)
deriving DecidableEq, Repr

/-- A slot with its generation. -/
structure Slot where
  gen : BitVec 4
  st  : SlotState
deriving DecidableEq, Repr

/-- A stream descriptor (R309, Table 11-6), and what a close or reconfigure of it waits for (R314). -/
structure Strm where
  pin     : Bool
  kind    : Nat
  trapc   : Nat
  tenant  : Nat
  owner   : Nat
  rstream : Nat
  cqbase  : Nat
  cqlog   : Nat
  push    : Bool
  rxbase  : Nat
  rxsize  : Nat
  win     : Nat
  last    : Nat
  infl    : Nat
  /-- its place in the spill area (R312); none while it is resident -/
  place   : Option Nat
  /-- 0 no command waits, 1 STRMCMD close, 2 STRMCMD reconfigure -/
  cmd     : Nat
  /-- tags and requesters of SCLOSE messages that wait -/
  closers : List (Nat × Nat)
  /-- image of the reconfigure -/
  img     : List Byte
  /-- records held for a full queue: slots in completion order (R319) -/
  heldRecs : List Nat
deriving DecidableEq, Repr

/-- A barrier contribution (R382, Table 13-6). -/
structure Contrib where
  dev     : Nat
  round   : Nat
  step    : Nat
  group   : Nat
  wish    : Nat
  fold    : Nat
  present : Nat
  count   : Nat
  list    : Nat
  ovf     : List Nat
deriving DecidableEq, Repr

/-- Rounds of an STCL on this device (R180). -/
inductive Round where
  | none | aSent | aDone | bSent | bDone
  /-- the close is done; the STCL has not completed -/
  | closed
deriving DecidableEq, Repr

/-- An open step (R178-R180, R116, R120, R37). -/
structure StepSt where
  num     : Nat
  /-- arrival number of its STOP among the operations (R33, R108) -/
  at_     : Nat
  /-- the opening has taken effect -/
  opened  : Bool
  /-- slot of the accepted STCL -/
  stcl    : Option Nat
  guarded : Bool
  /-- the step opened measure-first here -/
  mfirst  : Bool
  /-- the merged round-A flag -/
  mAny    : Bool
  round   : Round
  /-- Dritex key latched at the opening (R130) -/
  key     : W64
  /-- class of each valid region, sparse or not, captured at the opening (R37) -/
  classes : List (Nat × Bool)
  /-- measure passes that have ended before the present one (R120) -/
  passes  : Nat
  /-- Velvet entries captured at the opening: C, G, SRB (R200) -/
  vel     : List (Nat × (Int × Int × Nat))
  /-- Velvet entries that overflowed (R116, R117) -/
  ovf     : List Nat
  /-- the merged overflow map -/
  merged  : List Nat
  /-- Velvet entries that the step wrote (R111) -/
  wrote   : List Nat
  /-- regions an UPD of the step updated (R118) -/
  updated : List Nat
  seedmis : Bool
  /-- operations of the present measure pass that have completed here, in that order (R120) -/
  pass    : List Op
  /-- operations that a repeated pass still has to start -/
  todo    : List Op
  /-- a repeated pass runs its operations: its updates have not begun -/
  again   : Bool
deriving DecidableEq, Repr

/-- A micro-op register of one block: exponent and mantissas, `none` for void (R191). -/
structure MReg where
  x : Int
  m : List (Option Int)
deriving DecidableEq, Repr

/-- One block of a unit that a Tine works on: its number in the range, registers, RSUM and RMAX results waiting for the next pass, the register-saturated mark (R191-R197). -/
structure TBlock where
  idx  : Nat
  regs : List (Nat × MReg)
  next : List (Nat × MReg)
  sat  : Bool
  /-- the bounds of R193 have held the exponent of one of its results (R263) -/
  clamp : Bool
  /-- what RED adds to the norm record of the block's group: channel, sum, a void met (R214) -/
  norm : List (Nat × Nat × Bool)
deriving DecidableEq, Repr

/-- A unit (a block, or a row where the program works on rows) of an UPD in a Tine (R186, R197). -/
structure Unit where
  slot   : Nat
  unit   : Nat
  upc    : Nat
  gap    : Nat
  blocks : List TBlock
  /-- blocks sampled by the shadow check and held for its verdict (R261) -/
  held   : List Nat
deriving DecidableEq, Repr

/-- A vector register or tile of a context (Table 9-1): 32-bit mantissas by element, exponents by group or row, saturated groups (R243). -/
structure VReg where
  m   : List (Nat × W32)
  x   : List (Nat × Int)
  sat : List Nat
deriving DecidableEq, Repr

/-- A register context of the vector engine (R241). -/
structure VCtx where
  slot : Nat
  v    : List (Nat × VReg)
  t    : List (Nat × VReg)
  vl   : Nat
  iter : Nat
  sumc : Bool
  /-- next instruction of the VOP's program (R242) -/
  at_  : Nat
deriving DecidableEq, Repr

/-- A G32 block on its way round a Herd (R89, Table 3-9). -/
structure G32 where
  exp     : Int
  esc     : Nat
  sat     : Bool
  voidp   : Bool
  escm    : Bool
  csum    : Nat
  block   : Nat
  contrib : Nat
  el      : List (Option Int)
deriving DecidableEq, Repr

/-- State of a bucket of an armed step (R332). -/
inductive BktState where
  | waiting | filling | reducing | complete
deriving DecidableEq, Repr

/-- A bucket of an armed step and its laps (R331-R345). -/
structure Bucket where
  idx    : Nat
  st     : BktState
  slot   : Nat
  /-- 64-byte units written -/
  units  : List Nat
  /-- own agree codes, then (once agreed) the global ones -/
  codes  : List Int
  global : List (Nat × Int)
  /-- selected blocks with EXP -/
  sel    : List (Nat × Int)
  /-- saved c0 codes of the selected blocks -/
  c0     : List (Nat × List (Option Int))
  /-- 0 agree lap, 1 reduce lap, k + 1 extra lap k -/
  lap    : Nat
  /-- list of the lap: (block, ESC) -/
  items  : List (Nat × Nat)
  /-- complete blocks received in the distribute phase of the lap -/
  got    : List (Nat × G32)
  final  : List (Nat × G32)
  repeated : List Nat
  kept   : List Nat
  /-- ring packets sent, which a Bleat may ask for again -/
  sentPk : List Packet
  /-- ring headers asked for again by Bleat -/
  bleated : List (List Byte)
deriving DecidableEq, Repr

/-- An armed step of the dense reduction (R330). -/
structure Armed where
  step   : Nat
  slot   : Nat
  /-- the arming's operation while it waits for a scoreboard slot -/
  wait   : Option Op
  plan   : List Byte
  herd   : List Nat
  herdTag : Nat
  btab   : List Nat
  base   : Nat
  cg     : Int
  /-- the plan's ranges have passed the scoreboard -/
  ready  : Bool
  /-- FLUSH, STCL or ABORT triggers what is left -/
  flushed : Bool
  buckets : List Bucket
  /-- plan blocks that ended final, and buckets whose output is written -/
  final  : List Nat
  emitted : Nat
  maxabs : Int
  ovfcnt : Nat
  flags  : Nat
  retried : Bool
  absent : Option Nat
deriving DecidableEq, Repr

/-- A duplicate-filter entry of a Hoof (R284). -/
structure FiltEnt where
  src    : Nat
  ticket : Nat
  status : Nat
  at_    : Nat
deriving DecidableEq, Repr

/-- A patch of a channel (R414, R415, R417): 0 moving, 1 moved to the reserve, 2 under rebuild service, 3 waiting for its move. -/
structure Patch where
  ch    : Nat
  idx   : Nat
  state : Nat
deriving DecidableEq, Repr

/-- A Hoof: its registers, domains, filter and patches. -/
structure Hoof where
  ltime   : Nat
  refclk  : Bool
  haon    : Bool
  hctl    : Bool
  htine   : Bool
  rate    : W64
  ratelim : W64
  grcnt   : W64
  hmem    : W64
  hecc    : W64
  href    : W64
  parcnt  : W64
  hflt    : W64
  hresv   : W64
  hlstat  : W64
  /-- a rate window has ended since HAON came up (R58) -/
  rated   : Bool
  filter  : List FiltEnt
  patches : List Patch
  /-- location faults found by channel (Table 15-2, codes 0x02 and 0x03) -/
  locs    : List (Nat × Nat)
  /-- a Hoof-link message has been resent and not acknowledged (Table 15-1) -/
  resent  : Bool
  retrain : Bool
  /-- local time of the last resend on the Hoof link, or of the start of its retraining (R406) -/
  linkAt  : Nat
  /-- accesses that the running pass of the scrub has read: channel and number (R393) -/
  scrubs  : List (Nat × Nat)
  /-- local time at which the running scrub pass began, and whether its overrun is in the log (R393) -/
  scrubAt : Nat
  scrubLate : Bool
  refreshed : List Nat
  /-- blocks that each Antler computed under UPD (R260) -/
  blocks  : List (Nat × Nat)
deriving DecidableEq, Repr

/-- A parity delta of one data chunk, on the Hoof `src`, held in the store for its parity chunk (R400, R401). -/
structure Delta where
  slot  : Nat
  src   : Nat
  hoof  : Nat
  ch    : Nat
  off   : Nat
  bytes : List Byte
deriving DecidableEq, Repr

/-- A full-stripe combination in the transit pool (R400): the chunks that have arrived, by Hoof, with a bit for each byte; their XOR, and the XOR of
the contents that they replaced (R402). -/
structure Full where
  slot  : Nat
  hoof  : Nat
  ch    : Nat
  off   : Nat
  need  : Nat
  got   : List (Nat × Nat)
  bytes : List Byte
  olds  : List Byte
deriving DecidableEq, Repr

/-- A management-log entry (R425, Table 15-4). -/
structure LogEnt where
  time   : Nat
  dev    : Nat
  die    : Nat
  cls    : Nat
  code   : Nat
  unit   : Nat
  ticket : Nat
  stream : Nat
  detail : Nat
deriving DecidableEq, Repr

/-- Registers of MGMT (02, 15, 16, 17) and the management log. -/
structure Mgmt where
  ltime   : Nat
  refclk  : Bool
  rate    : W64
  ratelim : W64
  fltstat : W64
  fltcnt  : W64
  mlogptr : W64
  pwrctl  : W64
  pwrstat : W64
  therm   : W64
  /-- a rate window has ended since AON_C came up (R58) -/
  rated   : Bool
  /-- local time at which each power domain was last in use (R430) -/
  usedAt  : List (Domain × Nat)
  trip    : Bool
  /-- junction temperature of each die, by its DIE code, as its sensors last reported it (R436) -/
  temps   : List (Nat × Nat)
  /-- pairs of control cores under pair service whose last instruction was of the odd core's stream (R411) -/
  oddTurn : List Nat
  /-- store banks retired (R413) -/
  banks   : List Nat
  log     : List (Nat × LogEnt)
deriving DecidableEq, Repr

/-- Registers of SCHED (04, 05, 06, 11, 13, 14, 16). -/
structure Sched where
  scalepol : W64
  drxseed  : W64
  drxkey   : W64
  tkey     : W64
  tctr0    : W64
  tctr1    : W64
  tout0    : W64
  tout1    : W64
  tbusy    : Bool
  stale    : W32
  rtrapc   : BitVec 4
  strmcnt  : W64
  strmcmd  : W64
  fabcfg   : W64
  fabpset  : W64
  fabmir   : W64
  fabsel   : DevId
  fabcnt0  : W64
  fabcnt1  : W64
  dspca    : List (Nat × W64)
  dspcb    : List (Nat × W64)
  fnctl    : W64
  fnstat   : W64
deriving DecidableEq, Repr

/-- Registers of STORE, ARRAY and VEC (08, 09, 11, 12). -/
structure Units where
  slay0   : W64
  slay1   : W64
  slay2   : W64
  tppeak  : Nat
  shold   : W64
  /-- ticks of the microsecond of waiting that SHOLD.SPACEUS has not yet counted (R302): the model's own -/
  holdTicks : Nat
  arrcfg  : W64
  arrhs   : W64
  arrmac  : W64
  arrTiles : Nat
  vecstat : W64
  /-- saturation flag and underflow count of the wide path (R84) -/
  wsat    : Bool
  wunf    : Nat
  shdcfg  : W64
  shdcnt0 : W64
  shdcnt1 : W64
  drctl   : W64
  drstat  : W64
  drcnt   : W64
deriving DecidableEq, Repr

/-- A host port (R315, R457-R461). -/
structure HPort where
  up      : Bool
  mods    : Nat
  retrain : Nat
  refuse  : Nat
  queue   : List HostMsg
  resent  : Bool
  training : Bool
  /-- local time of the last resend, or of the start of the retraining (R406) -/
  linkAt  : Nat
  /-- requester whose word the port took last (R315) -/
  rr      : Nat
deriving DecidableEq, Repr

/-- Host side: ports, credits and what the ports have sent. -/
structure HostSt where
  hostcfg : W64
  ports   : List (Nat × HPort)
  /-- write credits a requester holds -/
  wcred   : List (Nat × Nat)
  /-- write credits beyond its first four that a requester has been granted from the shared request space (R460) -/
  wextra  : List (Nat × Nat)
  /-- receive credits a requester has granted -/
  rxcred  : List (Nat × Nat)
  /-- issue credits a requester holds on a stream -/
  icred   : List (Nat × Nat)
  /-- messages sent, oldest first -/
  out     : List HostMsg
  /-- responses that wait for receive credits (R301) -/
  rxwait  : List HostMsg
  /-- words and accesses that wait at their port: for its queue (R315), the DRAM (R442), a bucket (R323), the pool (R300), a refill (R313) -/
  hold    : List HostMsg
  /-- acknowledgements of host writes that wait for the parity writes of their data (R459): the number under which those are held -/
  wack    : List (Nat × HostMsg)
deriving DecidableEq, Repr

/-- A fabric port (R364, R383). -/
structure FPort where
  lstat   : W64
  mods    : Nat
  downAt  : Nat
  ecrcBad : List (Nat × Nat × Nat)
  /-- packets that the far end keeps for want of credit, oldest first (R300, R365) -/
  held    : List Packet
deriving DecidableEq, Repr

/-- A packet that waits at its egress port (R365, R366): the port, the port that it landed on when it is being forwarded, and the local time at
which it landed. -/
structure Leaving where
  port : Nat
  pk   : Packet
  from_ : Option Nat
  at_  : Nat
deriving DecidableEq, Repr

/-- A request that this device has sent (R367, R369). -/
structure Orig where
  slot    : Nat
  ticket  : Nat
  dst     : Nat
  packets : List Packet
  sentAt  : Nat
  pend    : Bool
  retried : Bool
  parts   : List (Nat × List Byte)
  lastPart : Option Nat
  status  : Nat
  /-- sent on behalf of the owner of a mirrored region (R380): the key it forwards -/
  fwdOf   : Option (Nat × Nat)
deriving DecidableEq, Repr

/-- Stages of a held key on a target (Table 13-4). -/
inductive KeySt where
  | running | replied | released
deriving DecidableEq, Repr

/-- A key that this device holds as a target (R367, R368). -/
structure HKey where
  src     : Nat
  ticket  : Nat
  slot    : Option Nat
  st      : KeySt
  req     : List Packet
  reply   : List Packet
  resends : Nat
  landed  : Nat
  relAt   : Nat
  pended  : Bool
  /-- fabric port on which it landed (R300) -/
  port    : Nat
  /-- device that its replies go to: the originator, or the owner that forwarded (R380) -/
  via     : Nat
deriving DecidableEq, Repr

/-- A key that this device has sent towards a device, and when it did last (R371, R372). -/
structure SentEnt where
  dst    : Nat
  src    : Nat
  ticket : Nat
  at_    : Nat
deriving DecidableEq, Repr

/-- Fabric side (13). -/
structure FabSt where
  ports   : List (Nat × FPort)
  /-- packets that wait at the ports, those of one port in the order in which they leave (R365) -/
  egress  : List Leaving
  /-- packets sent, with their ports, oldest first -/
  wire    : List (Nat × Packet)
  /-- local time of the last beacons sent (R374) -/
  beaconAt : Nat
  orig    : List Orig
  keys    : List HKey
  absent  : List Nat
  lastB   : List (Nat × Nat)
  /-- devices declared absent and the times of their declarations (R376) -/
  absAt   : List (Nat × Nat)
  /-- keys sent, in the order of their last sending (R371, R372) -/
  sent    : List SentEnt
  /-- barrier contributions held -/
  contribs : List Contrib
  /-- ring packets held, with the port they came on (R350) -/
  rings   : List (Nat × Packet)
deriving DecidableEq, Repr

/-- Management port and test access port (R464-R468). -/
structure Ports where
  dyn     : Option (BitVec 7)
  result  : Option (Nat × W64)
  /-- what the last CCC or private read returned on the bus: acknowledged, and the bytes -/
  i3cOut  : Bool × List Byte
  /-- model's own: GETSTATUS answers given, the argument of the free value -/
  i3cSeq  : Nat
  ir      : Byte
  instr   : Option (BitVec 3)
  /-- boundary register: the pins in the order of R466 from bit 0 -/
  bound   : BitVec 19
  /-- what the last test instruction or reset selected -/
  idout   : W32
deriving DecidableEq, Repr

/-- What the scheduler carries from step to step. -/
structure StepCar where
  /-- highest step number last opened, and whether one has opened since reset -/
  lastOpened : Nat
  anyOpened  : Bool
  /-- last step closed (Table 16-7) -/
  lastClosed : Option Nat
  /-- a barrier has closed since reset or context restore (R116) -/
  closedOnce : Bool
  wishG      : Bool
  wishS      : Bool
  wishM      : Bool
  lastCommit : Bool
  /-- Velvet entries of the merged map of a step that was skipped (R113, R118) -/
  skipMap    : List Nat
  /-- overflows of accumulates for a step that has not opened here: step, Velvet entry (R39, R117) -/
  early      : List (Nat × Nat)
  /-- Velvet entries written by accumulates for a step that has not opened here: step, entry (R39, R111) -/
  earlyW     : List (Nat × Nat)
  /-- P of R331 -/
  slotBase   : Nat
  seq        : Nat
deriving DecidableEq, Repr

/-- The state of the block. -/
structure State where
  part     : Part
  stepping : Byte
  phase    : Phase
  wrstHeld : Bool
  /-- local time at which the running warm reset began -/
  warmAt   : Nat
  pulses   : Nat
  mgmt     : Mgmt
  sched    : Sched
  units    : Units
  host     : HostSt
  fab      : FabSt
  ports    : Ports
  hoofs    : List (Nat × Hoof)
  cores    : List (Nat × Core)
  store    : List Host.Cell
  dram     : List Host.Cell
  slots    : List (Nat × Slot)
  freeq    : List Nat
  strms    : List (Nat × Strm)
  steps    : List StepSt
  car      : StepCar
  tines    : List Unit
  ctxs     : List (Nat × VCtx)
  armed    : List Armed
  deltas   : List Delta
  fulls    : List Full
  /-- ranges that a sweep under way writes whole (R400); none between commands -/
  sweeping : List Range
  quiesce  : Option Nat
  pending  : List Instr
deriving DecidableEq, Repr

/-- A core after reset (Tables 6-1, 6-5, 6-6): halted, everything zero, STREAM its own number. -/
def Core.reset (c : Nat) : Core :=
  { s := [], p := [], pc := 0, epc := 0, tvec := 0, tqbase := 0, tqhead := 0, tqtail := 0,
    stream := BitVec.ofNat 20 c, inTrap := false, overrun := false, tqlost := 0, bootpc := 0,
    running := false, halting := false, byHalt := false, dfault := false, stall := none, async := [], jumps := 0 }

/-- A slot after reset: free at generation 15 (R158). -/
def Slot.reset : Slot := { gen := 15, st := .free }

/-- A Hoof after reset (Tables 2-5 to 2-7, 10-11, 14-9 to 14-11, 15-8, 15-9, 17-9). -/
def Hoof.reset : Hoof :=
  { ltime := 0, refclk := true, haon := false, hctl := false, htine := false, rate := 0, ratelim := 0, grcnt := 0,
    hmem := 0, hecc := 0, href := 0x1801, parcnt := 0, hflt := 0, hresv := 0, hlstat := 0, rated := false, filter := [],
    patches := [], locs := [], resent := false, retrain := false, linkAt := 0, scrubs := [], scrubAt := 0, scrubLate := false,
    refreshed := [], blocks := [] }

/-- A host port after reset (Table 17-8). -/
def HPort.reset : HPort :=
  { up := false, mods := 0, retrain := 0, refuse := 0, queue := [], resent := false, training := false, linkAt := 0, rr := 0 }

/-- A fabric port after reset (Table 13-11); DESIGN CHOICE 14: both its modules work until MODULE_DOWN says otherwise. -/
def FPort.reset : FPort := { lstat := 0, mods := 2, downAt := 0, ecrcBad := [], held := [] }

/-- The stream of control core `c` (R308). -/
def Strm.core (c : Nat) : Strm :=
  { pin := true, kind := 0, trapc := c, tenant := 0, owner := c, rstream := 0, cqbase := 0, cqlog := 0, push := false,
    rxbase := 0, rxsize := 0, win := 0, last := 0, infl := 0, place := none, cmd := 0, closers := [], img := [],
    heldRecs := [] }

/-- MGMT after reset (Tables 2-5 to 2-7, 15-6, 15-7, 16-8 to 16-10). -/
def Mgmt.reset : Mgmt :=
  { ltime := 0, refclk := true, rate := 0, ratelim := 0, fltstat := 0, fltcnt := 0, mlogptr := 0,
    pwrctl := 0x4000000540, pwrstat := 1, therm := 0x2690000, rated := false, usedAt := [], trip := false, temps := [], oddTurn := [], banks := [], log := [] }

/-- SCHED after reset (Tables 4-5, 5-5, 5-6, 6-14, 11-13 to 11-15, 13-7 to 13-10, 14-6, 14-7, 16-11, 16-12). -/
def Sched.reset : Sched :=
  { scalepol := 0x0004400400C800C8, drxseed := 0, drxkey := 0, tkey := 0, tctr0 := 0, tctr1 := 0, tout0 := 0, tout1 := 0,
    tbusy := false, stale := 0, rtrapc := 0, strmcnt := 0, strmcmd := 0, fabcfg := 4, fabpset := 0, fabmir := 0,
    fabsel := 0, fabcnt0 := 0, fabcnt1 := 0, dspca := [], dspcb := [], fnctl := 0, fnstat := 0 }

/-- What DSPCA k reads after reset (Table 14-6): GRAN 9. -/
def dspcaReset : W64 := 0x24

/-- STORE, ARRAY and VEC after reset (Tables 8-5 to 8-7, 9-11 to 9-14, 11-8 to 11-12, 12-8 to 12-10). -/
def Units.reset : Units :=
  { slay0 := 0x004003C000040000, slay1 := 0x00000001010002C0, slay2 := 0x08080280, tppeak := 0, shold := 0, holdTicks := 0,
    arrcfg := 0, arrhs := 0, arrmac := 0, arrTiles := 0, vecstat := 0, wsat := false, wunf := 0, shdcfg := 0x6A, shdcnt0 := 0, shdcnt1 := 0,
    drctl := 0, drstat := 0, drcnt := 0 }

/-- The host side after reset (Tables 17-7, 17-8). -/
def HostSt.reset : HostSt :=
  { hostcfg := 0xF, ports := [], wcred := [], wextra := [], rxcred := [], icred := [], out := [], rxwait := [], hold := [], wack := [] }

/-- The fabric side after reset. -/
def FabSt.reset : FabSt :=
  { ports := [], egress := [], wire := [], beaconAt := 0, orig := [], keys := [], absent := [], lastB := [], absAt := [], sent := [], contribs := [],
    rings := [] }

/-- Management and test ports after reset: no dynamic address, IDCODE selected (R464, R466). -/
def Ports.reset : Ports :=
  { dyn := none, result := none, i3cOut := (false, []), i3cSeq := 0, ir := 1, instr := none, bound := 0, idout := 0x1520C5A3 }

/-- What the scheduler carries after reset. -/
def StepCar.reset : StepCar :=
  { lastOpened := 0, anyOpened := false, lastClosed := none, closedOnce := false, wishG := false, wishS := false,
    wishM := false, lastCommit := true, skipMap := [], early := [], earlyW := [], slotBase := 0, seq := 0 }

/-- The block right after cold reset: RST_N released, AON_C up (Table 16-4, step 2), every register at its reset value. The
configuration is RLU-12 at stepping 1.0 (DESIGN CHOICE 4). -/
def State.reset : State :=
  { part := .rlu12, stepping := 0x10, phase := .bringUp, wrstHeld := false, warmAt := 0, pulses := 0,
    mgmt := Mgmt.reset, sched := Sched.reset, units := Units.reset, host := HostSt.reset, fab := FabSt.reset,
    ports := Ports.reset, hoofs := [], cores := [], store := [], dram := [], slots := [], freeq := List.range 4096,
    strms := (List.range 16).map (fun c => (c, Strm.core c)), steps := [], car := StepCar.reset, tines := [], ctxs := [],
    armed := [], deltas := [], fulls := [], sweeping := [], quiesce := none, pending := [] }

end Sys2Proof.Machine
end

