-- ==== Sys2Proof/Machine/Place.lean ====
section
/-!
DEFINITION. The local address map (R14), the store's areas (R296), the spaces and the interleave of DRAM (R394-R399), and
reads and writes of local memory with cross-stack parity (R400-R402).
-/

namespace Sys2Proof.Machine

/-- First byte of the central store (Table 0-4). -/
def storeBase : Nat := 0x020000000000
/-- Size of the central store. -/
def storeSize : Nat := 2 ^ 30
/-- First byte of CSR space (Table 0-4). -/
def csrBase : Nat := 0x030000000000
/-- Size of CSR space. -/
def csrSize : Nat := 2 ^ 28
/-- Size of the DRAM window. -/
def dramSize : Nat := 2 ^ 41
/-- One MiB. -/
def mib : Nat := 2 ^ 20

/-- Is a local address in the DRAM window? -/
def inDram (a : Nat) : Bool := a < dramSize
/-- Is a local address in the store? -/
def inStore (a : Nat) : Bool := storeBase ≤ a && a < storeBase + storeSize
/-- Is a local address in CSR space? -/
def inCsr (a : Nat) : Bool := csrBase ≤ a && a < csrBase + csrSize

/-- Does [lo, lo + n) meet [b, b + m)? -/
def meets (lo n b m : Nat) : Bool := lo < b + m && b < lo + n && 0 < n && 0 < m

/-- Is [lo, lo + n) inside [b, b + m)? -/
def inside (lo n b m : Nat) : Bool := b ≤ lo && lo + n ≤ b + m

/-- Transit pool: start and size as store offsets (Table 11-9). -/
def transitPool (u : Units) : Nat × Nat := (fld u.slay1 9 0 * mib, fld u.slay1 25 16 * mib)
/-- Spill area (Table 11-8). -/
def spillArea (u : Units) : Nat × Nat := (fld u.slay0 41 32 * mib, fld u.slay0 54 48 * mib)
/-- Bucket area (Table 11-10). -/
def bucketArea (u : Units) : Nat × Nat := (fld u.slay2 9 0 * mib, fld u.slay2 30 24 * (fld u.slay2 22 16 * mib))
/-- Region descriptor table. -/
def rdTable (u : Units) : Nat := fld u.slay0 13 0 * 65536
/-- Velvet table. -/
def velTable (u : Units) : Nat := fld u.slay0 29 16 * 65536

/-- May software or an operation address store bytes [o, o + n) (R298)? -/
def storeOk (u : Units) (o n : Nat) : Bool :=
  o + n ≤ storeSize && !(meets o n (transitPool u).1 (transitPool u).2) && !(meets o n (spillArea u).1 (spillArea u).2)

/-- Quadrant, bank and position within the bank of a store offset (R293). -/
def storeBank (o : Nat) : Nat × Nat × Nat :=
  (bits o 9 8 ^^^ bits o 21 20, bits o 15 10 ^^^ bits o 27 22, bits o 29 16 * 256 + bits o 7 0)

/-- Hoofs present in the configuration (R6, R7). -/
def Part.hoofs : Part → Nat
  | .rlu12 => 12
  | .rlu8 => 8

/-- A space (R394). -/
structure Space where
  par   : Bool
  gran  : Nat
  hset  : Nat
  ikey  : Nat
  base  : Nat
  asize : Nat
  pbase : Nat
deriving DecidableEq, Repr

/-- Hoofs of a set, ascending. -/
def hoofList (hset : Nat) : List Nat := (List.range 12).filter (fun h => bitAt hset h)

namespace Space

/-- Number of Hoofs of the space. -/
def n (p : Space) : Nat := (hoofList p.hset).length
/-- Unit in bytes. -/
def unit (p : Space) : Nat := 8 * 2 ^ p.gran
/-- Data positions: all Hoofs less the parity one. -/
def dataN (p : Space) : Nat := p.n - (if p.par then 1 else 0)
/-- Window extent in bytes. -/
def extent (p : Space) : Nat := p.asize * 8 * p.dataN * mib
/-- First local address. -/
def start (p : Space) : Nat := p.base * mib

/-- Is the local address in the space's window? -/
def has (p : Space) (a : Nat) : Bool := p.start ≤ a && a < p.start + p.extent

end Space

/-- A space of its two registers. -/
def spaceOfRegs (a b : W64) : Space :=
  { par := flag a 1, gran := fld a 5 2, hset := fld a 19 8, ikey := fld a 35 20,
    base := fld b 20 0, asize := fld b 47 32, pbase := fld b 63 48 }

/-- DSPCA k. -/
def dspca (r : Sched) (k : Nat) : W64 := mget (fun _ => dspcaReset) r.dspca k
/-- DSPCB k. -/
def dspcb (r : Sched) (k : Nat) : W64 := mget (fun _ => 0) r.dspcb k

/-- Indices of the spaces whose VALID is 1. -/
def validSpaceIdx (r : Sched) : List Nat := (r.dspca.filter (fun e => flag e.2 0)).map Prod.fst

/-- MiB of an Antler of Hoof h: what training declared, or the largest stack of Table 14-2 before it (DEDUCED, notes/assumptions/17). -/
def antlerMib (s : State) (h : Nat) : Nat :=
  let m := (mget (fun _ => Hoof.reset) s.hoofs h).hmem
  if fld m 4 0 = 0 then 16384 else fld m 4 0 * fld m 15 8 * 16

/-- Does the space fit the Antlers of its Hoofs (R394)? -/
def Space.fits (s : State) (p : Space) : Bool := (hoofList p.hset).all (fun h => decide (p.pbase + p.asize ≤ antlerMib s h))

/-- The valid spaces: those whose VALID is 1, which the write of their registers has checked, and that fit the stacks as trained (R394). -/
def validSpaces (s : State) : List Space :=
  ((validSpaceIdx s.sched).map (fun k => spaceOfRegs (dspca s.sched k) (dspcb s.sched k))).filter (fun p => p.fits s)

/-- The space that holds a local address. -/
def spaceAt (s : State) (a : Nat) : Option Space := (validSpaces s).find? (fun p => p.has a)

/-- Rotation of group g (R395). -/
def Space.rot (p : Space) (g : Nat) : Nat := (((g ^^^ p.ikey) * 0x9E3779B9) % 2 ^ 32) / 2 ^ 16

/-- Step over the parity lines of position j (R395). -/
def skipLines (n d j : Nat) : Nat :=
  let l := d / 256
  let q := l / (n - 1)
  let t := l % (n - 1)
  (n * q + t + (if j ≤ t then 1 else 0)) * 256 + d % 256

/-- A place in the stacks: Hoof, position in the set, Antler, offset d in the Antler's share after skip, channel, channel-local byte. -/
structure Place where
  hoof : Nat
  pos  : Nat
  antler : Nat
  d    : Nat
  ch   : Nat
  off  : Nat
deriving DecidableEq, Repr

/-- Channel and channel-local byte of share offset d of an Antler (R395). -/
def chanOf (p : Space) (antler d : Nat) : Nat × Nat :=
  (4 * antler + (d / 1024) % 4, p.pbase * 2 ^ 18 + (d / 4096) * 1024 + d % 1024)

/-- Place of a local address of a space (R395). -/
def place (p : Space) (a : Nat) : Place :=
  let x := a - p.start
  let u := x / p.unit
  let g := u / (8 * p.n)
  let s := (u % (8 * p.n) + p.rot g) % (8 * p.n)
  let j := s % p.n
  let d0 := g * p.unit + x % p.unit
  let d := if p.par then skipLines p.n d0 j else d0
  let c := chanOf p (s / p.n) d
  { hoof := (hoofList p.hset).getD j 0, pos := j, antler := s / p.n, d := d, ch := c.1, off := c.2 }

/-- Key of a channel-local byte in the DRAM memory: Hoofs, channels, 2^33 bytes a channel. -/
def physKey (hoof ch off : Nat) : Nat := (hoof * 32 + ch) * 2 ^ 33 + off

/-- Is the stack of Hoof h lost (FLTSTAT.LOSTSTK)? -/
def lostStack (s : State) (h : Nat) : Bool := bitAt (fld s.mgmt.fltstat 11 0) h

/-- Byte of DRAM at a physical place; RAM that nothing has written reads zero (DESIGN CHOICE 5). -/
def rawByte (s : State) (h ch off : Nat) : Byte := mget (fun _ => 0) s.dram (physKey h ch off)

/-- Parity position of the line of a share (R399). -/
def parityPos (p : Space) (d : Nat) : Nat := (d / 256) % p.n

/-- What the held deltas of a parity line still add to a byte of it (R401, R402). -/
def heldXor (s : State) (h ch off : Nat) : Byte :=
  let line := off / 256 * 256
  s.deltas.foldl (fun a e => if e.hoof = h ∧ e.ch = ch ∧ e.off = line then a ^^^ e.bytes.getD (off - line) 0 else a) 0

/-- A byte of a line, the combinations that the pool holds for it counted: the chunks that have arrived, whole or not, in the place of the contents
that they replaced (R402). -/
def combinedByte (s : State) (h ch off : Nat) : Byte :=
  let line := off / 256 * 256
  s.fulls.foldl (fun a e => if e.hoof = h ∧ e.ch = ch ∧ e.off = line then a ^^^ e.bytes.getD (off - line) 0 ^^^ e.olds.getD (off - line) 0 else a)
    (rawByte s h ch off)

/-- A chunk's byte rebuilt from the other chunks of its stripe, held deltas and combinations applied first (R402). -/
def rebuiltByte (s : State) (p : Space) (l : Place) : Byte :=
  (hoofList p.hset).foldl (fun a h =>
    if h = l.hoof then a else a ^^^ combinedByte s h l.ch l.off ^^^ heldXor s h l.ch l.off) 0

/-- Is a channel-local byte in a patch under rebuild service (R417)? -/
def underRebuild (s : State) (l : Place) : Bool :=
  (mget (fun _ => Hoof.reset) s.hoofs l.hoof).patches.any (fun q => q.ch = l.ch && q.idx = l.off / mib && q.state = 2)

/-- Is the byte served by rebuild: its stack lost, or its patch under rebuild service? -/
def rebuilt (s : State) (l : Place) : Bool := lostStack s l.hoof || underRebuild s l

/-- Byte of the DRAM window; an address in no valid space reads zero here, its access having been refused before (R394). -/
def dramByte (s : State) (a : Nat) : Byte :=
  match spaceAt s a with
  | none => 0
  | some p =>
    let l := place p a
    if rebuilt s l then (if p.par then rebuiltByte s p l else 0) else rawByte s l.hoof l.ch l.off

/-- Byte at a local address of the store or the DRAM window. -/
def localByte (s : State) (a : Nat) : Byte :=
  if inStore a then mget (fun _ => 0) s.store (a - storeBase) else dramByte s a

/-- Bytes at a local address. -/
def rdLocal (s : State) (a : Nat) : Nat → List Byte
  | 0 => []
  | n + 1 => localByte s a :: rdLocal s (a + 1) n

/-- Local address intervals of a stripe's data chunks: the line of the share on every Hoof of the set but the parity position (R399). -/
def stripeAddrs (p : Space) (antler line : Nat) : List (Nat × Nat) :=
  let step := Nat.min p.unit 256
  ((List.range p.n).filter (fun j => j ≠ line % p.n)).flatMap (fun j =>
    let q := line / p.n
    let t := line % p.n
    -- the chunk of position j at this line: data line l with n*q + t' + (t' >= j) = line
    let t' := if j < t then t - 1 else t
    let l := q * (p.n - 1) + t'
    (List.range (256 / step)).map (fun i =>
      let d := l * 256 + i * step
      let g := d / p.unit
      let sAnt := j + p.n * antler
      let r := (sAnt + 8 * p.n - p.rot g % (8 * p.n)) % (8 * p.n)
      (p.start + (8 * p.n * g + r) * p.unit + d % p.unit, step)))

/-- The ranges that an operation writes from end to end, as far as its descriptor shows it: a copy, an import, a transfer, a product, or a dense
update without selection bitmap (R403). Other operations write what their data pick. -/
def Op.wholeRanges (o : Op) : List Range :=
  if o.opc ∈ [0x10, 0x11, 0x13, 0x14, 0x30] ∨ (o.opc = 0x20 ∧ (o.var = 0 ∨ o.var = 3) ∧ fieldAt o.desc 108 4 % 2 ^ 24 = 0xFFFFFF) then o.ranges
  else []

/-- The ranges that whoever writes under a slot number writes from end to end: the operation in the slot, or the sweep under way. -/
def writerRanges (s : State) (slot : Nat) : List Range :=
  match (mget (fun _ => Slot.reset) s.slots slot).st with
  | .busy o => o.wholeRanges
  | _ => s.sweeping

/-- Does a write cover every data chunk of the stripe (R400)? -/
def coversStripe (s : State) (slot : Nat) (p : Space) (l : Place) : Bool :=
  let rs := writerRanges s slot
  !rs.isEmpty && (stripeAddrs p l.antler (l.d / 256)).all (fun iv => rs.any (fun r => r.wr && !r.remote && inside iv.1 iv.2 r.lo r.len))

/-- XOR a byte into position i of a chunk. -/
def xorAt (bs : List Byte) (i : Nat) (x : Byte) : List Byte := bs.set i (bs.getD i 0 ^^^ x)

/-- Record a parity delta byte of a chunk, joined with the delta of that chunk that the same slot holds. -/
def addDelta (ds : List Delta) (slot src h ch off : Nat) (x : Byte) : List Delta :=
  let line := off / 256 * 256
  let here := fun (e : Delta) => e.slot = slot && e.src = src && e.hoof = h && e.ch = ch && e.off = line
  if ds.any here then ds.map (fun e => if here e then { e with bytes := xorAt e.bytes (off - line) x } else e)
  else ds ++ [{ slot := slot, src := src, hoof := h, ch := ch, off := line, bytes := xorAt (List.replicate 256 0) (off - line) x }]

/-- A byte of a chunk joins its stripe's combination: the first time for what it replaces, again for what the chunk held since (R400). -/
def Full.add (e : Full) (src i : Nat) (old new : Byte) : Full :=
  let m := mget (fun _ => 0) e.got src
  if bitAt m i then { e with bytes := xorAt e.bytes i (old ^^^ new) }
  else { e with bytes := xorAt e.bytes i new, olds := xorAt e.olds i old, got := mput (fun _ => 0) e.got src (m + 2 ^ i) }

/-- Have all chunks of the combination arrived whole? -/
def Full.complete (e : Full) : Bool := decide (e.got.length = e.need) && e.got.all (fun g => decide (g.2 = 2 ^ 256 - 1))

/-- Does the combination hold the byte of a chunk already? -/
def Full.holds (e : Full) (src h ch off : Nat) : Bool :=
  e.hoof = h && e.ch = ch && e.off = off / 256 * 256 && bitAt (mget (fun _ => 0) e.got src) (off % 256)

/-- Add a byte of a chunk to a full-stripe combination (R400). -/
def addFull (fs : List Full) (slot src h ch off need : Nat) (old new : Byte) : List Full :=
  let line := off / 256 * 256
  let here := fun (e : Full) => e.slot = slot && e.hoof = h && e.ch = ch && e.off = line
  if fs.any here then fs.map (fun e => if here e then e.add src (off - line) old new else e)
  else
    let e : Full := { slot := slot, hoof := h, ch := ch, off := line, need := need, got := [], bytes := List.replicate 256 0, olds := List.replicate 256 0 }
    fs ++ [e.add src (off - line) old new]

/-- Write one byte of the DRAM window for the operation in `slot`, with the parity traffic it causes (R399-R402). A byte that a held combination has
taken already changes there, so that no delta of it is lost when the combination is written. -/
def putDram (s : State) (slot a : Nat) (b : Byte) : State :=
  match spaceAt s a with
  | none => s
  | some p =>
    let l := place p a
    let old := dramByte s a
    let s1 := if rebuilt s l then s else { s with dram := mput (fun _ => 0) s.dram (physKey l.hoof l.ch l.off) b }
    if p.par then
      let ph := (hoofList p.hset).getD (parityPos p l.d) 0
      if lostStack s ph then s1
      else if s.fulls.any (fun e => e.holds l.hoof ph l.ch l.off) then
        { s1 with fulls := s.fulls.map (fun e => if e.holds l.hoof ph l.ch l.off then e.add l.hoof (l.off % 256) old b else e) }
      else if coversStripe s slot p l ∧ (hoofList p.hset).all (fun h => !(rebuilt s { l with hoof := h })) then
        { s1 with fulls := addFull s.fulls slot l.hoof ph l.ch l.off (p.n - 1) old b }
      else { s1 with deltas := addDelta s.deltas slot l.hoof ph l.ch l.off (old ^^^ b) }
    else s1

/-- Write bytes at a local address of the store or the DRAM window for the operation in `slot`, byte by byte. -/
def wrBytes (s : State) (slot a : Nat) : List Byte → State
  | [] => s
  | b :: bs =>
    let s1 := if inStore a then { s with store := mput (fun _ => 0) s.store (a - storeBase) b } else putDram s slot a b
    wrBytes s1 slot (a + 1) bs

/-- The armed steps after a write of n store bytes at an offset: each unit of a filling bucket's slot that the write touches has its bit set
(R332). -/
def markedArmed (s : State) (o n : Nat) : List Armed :=
  let a := bucketArea s.units
  if s.armed.isEmpty || !(meets o n a.1 a.2) then s.armed
  else
    let us := ((List.range (n / 64 + 2)).map (fun i => o / 64 + i)).filter (fun u => meets (64 * u) 64 o n && meets (64 * u) 64 a.1 a.2)
    let per := fld s.units.slay2 22 16 * mib / 64
    s.armed.map (fun x => { x with buckets := x.buckets.map (fun b =>
      if b.st = .filling then { b with units := us.foldl (fun l u =>
        if (u - a.1 / 64) / per = b.slot then addNew l ((u - a.1 / 64) % per) else l) b.units } else b) })

/-- Write bytes at a local address of the store or the DRAM window for the operation in `slot`; a bucket notes what of it is written. -/
def wrLocal (s : State) (slot a : Nat) (bs : List Byte) : State :=
  let s1 := wrBytes s slot a bs
  if inStore a then { s1 with armed := markedArmed s1 (a - storeBase) bs.length } else s1

/-- First local address of [a, e) that no valid space holds, walking at most `fuel` spaces. -/
def dramBad (s : State) (e : Nat) : Nat → Nat → Option Nat
  | 0, a => if a < e then some a else none
  | fuel + 1, a =>
    if e ≤ a then none
    else match spaceAt s a with
      | none => some a
      | some p => dramBad s e fuel (p.start + p.extent)

/-- First local address of [a, a + n) that an operation may not touch: outside the map, in CSR space, in the transit pool or spill
area, or in no valid space (R19, R298, R322, R394). -/
def badAddr (s : State) (a n : Nat) : Option Nat :=
  if inDram a then
    match dramBad s (Nat.min (a + n) dramSize) 65 a with
    | some x => some x
    | none => if dramSize < a + n then some dramSize else none
  else if inStore a then
    let o := a - storeBase
    let cuts := [(transitPool s.units), (spillArea s.units)]
    let hit := cuts.filterMap (fun c => if meets o n c.1 c.2 then some (storeBase + Nat.max o c.1) else none)
    match hit with
    | x :: xs => some (xs.foldl Nat.min x)
    | [] => if storeSize < o + n then some (storeBase + storeSize) else none
  else some a

end Sys2Proof.Machine
end

