-- ==== Sys2Proof/Machine/Ops.lean ====
section
/-!
DEFINITION. The named operations over registers, cores, slots, records and memory that every meaning shares: accessors, region
descriptors and Velvet entries, the management log, alerts, taking a trap (R171), masking a fault (R420) and fail-stop (R423).
-/

namespace Sys2Proof.Machine

/-! ### Accessors -/

namespace State

/-- Core c. -/
def core (s : State) (c : Nat) : Core := mget Core.reset s.cores c
/-- Replace core c. -/
def setCore (s : State) (c : Nat) (k : Core) : State := { s with cores := mput Core.reset s.cores c k }
/-- Slot t. -/
def slot (s : State) (t : Nat) : Slot := mget (fun _ => Slot.reset) s.slots t
/-- Replace slot t. -/
def setSlot (s : State) (t : Nat) (k : Slot) : State := { s with slots := mput (fun _ => Slot.reset) s.slots t k }
/-- Hoof h. -/
def hoof (s : State) (h : Nat) : Hoof := mget (fun _ => Hoof.reset) s.hoofs h
/-- Replace Hoof h. -/
def setHoof (s : State) (h : Nat) (k : Hoof) : State := { s with hoofs := mput (fun _ => Hoof.reset) s.hoofs h k }
/-- Host port p. -/
def hport (s : State) (p : Nat) : HPort := mget (fun _ => HPort.reset) s.host.ports p
/-- Replace host port p. -/
def setHport (s : State) (p : Nat) (k : HPort) : State :=
  { s with host := { s.host with ports := mput (fun _ => HPort.reset) s.host.ports p k } }
/-- Fabric port p. -/
def fport (s : State) (p : Nat) : FPort := mget (fun _ => FPort.reset) s.fab.ports p
/-- Replace fabric port p. -/
def setFport (s : State) (p : Nat) (k : FPort) : State :=
  { s with fab := { s.fab with ports := mput (fun _ => FPort.reset) s.fab.ports p k } }
/-- The operation in slot t. -/
def op (s : State) (t : Nat) : Option Op := match (s.slot t).st with | .busy o => some o | _ => none
/-- Replace the operation in slot t, the slot keeping its generation. -/
def setOp (s : State) (t : Nat) (o : Op) : State := s.setSlot t { s.slot t with st := .busy o }
/-- Stream n, if open. -/
def strm (s : State) (n : Nat) : Option Strm := aget s.strms n
/-- Replace or open stream n. -/
def setStrm (s : State) (n : Nat) (k : Strm) : State := { s with strms := aput s.strms n k }
/-- Stored bytes of the store at an offset. -/
def stBytes (s : State) (o n : Nat) : List Byte := readBytes s.store o n
/-- Write store bytes at an offset where software space may be written; elsewhere nothing is written (R298). A bucket notes what of it is written
(R332). -/
def stWrite (s : State) (o : Nat) (bs : List Byte) : State :=
  if storeOk s.units o bs.length then { s with store := writeBytes s.store o bs, armed := markedArmed s o bs.length } else s
/-- Device number (FABCFG.DEV, R25). -/
def dev (s : State) : Nat := fld s.sched.fabcfg 27 16
/-- Central-die local time (R52). -/
def now (s : State) : Nat := s.mgmt.ltime
/-- In fail-stop (R423). -/
def failstop (s : State) : Bool := flag s.mgmt.fltstat 61
/-- The device works: brought up, not in fail-stop, not idle in a warm reset. -/
def live (s : State) : Bool := (s.phase = .up || s.phase = .warmDrain) && !s.failstop
/-- PWRSTAT.DRAM (R442). -/
def dramUp (s : State) : Bool := flag s.mgmt.pwrstat 51
/-- Local time passes to at least `t` (DESIGN CHOICE 6). -/
def atLeast (s : State) (t : Nat) : State := { s with mgmt := { s.mgmt with ltime := Nat.max s.mgmt.ltime t } }

end State

/-- Local time of a die. -/
def dieTime (s : State) : Die → Nat
  | .central => s.mgmt.ltime
  | .hoof h => (s.hoof h).ltime

/-- DIE code of a log entry (Table 15-4). -/
def dieCode : Die → Nat
  | .central => 0
  | .hoof h => h.val + 1

/-- Die of a Hoof number. -/
def hoofDie (h : Nat) : Die := if hh : h < 12 then .hoof ⟨h, hh⟩ else .central

/-! ### The management log (R425, R426) -/

/-- Write an entry at TAIL and advance it, overwriting the oldest unread entry when the ring is full (R426). -/
def addLogAt (s : State) (die : Die) (cls code unit ticket stream detail : Nat) : State :=
  let m := s.mgmt
  let tail := fld m.mlogptr 10 0
  let head := fld m.mlogptr 26 16
  let e : LogEnt := { time := dieTime s die, dev := s.dev, die := dieCode die, cls := cls, code := code, unit := unit,
                      ticket := ticket, stream := stream, detail := detail }
  let tail' := (tail + 1) % 2048
  let p := setFld m.mlogptr 10 0 tail'
  let p := if tail' = head then setFlag (setFld p 26 16 ((head + 1) % 2048)) 32 true else p
  { s with mgmt := { m with mlogptr := p, log := aput m.log tail e } }

/-- Log entry of the central die without ticket or stream. -/
def addLog (s : State) (cls code unit detail : Nat) : State := addLogAt s .central cls code unit 0 0 detail

/-- Bytes of a log entry (Table 15-4). -/
def logBytes (e : LogEnt) : List Byte :=
  leBytes 8 e.time ++ leBytes 2 e.dev ++ leBytes 1 e.die ++ leBytes 1 e.cls ++ leBytes 2 e.code ++ leBytes 2 e.unit
    ++ leBytes 2 e.ticket ++ leBytes 2 0 ++ leBytes 4 e.stream ++ leBytes 8 e.detail

/-! ### Alerts (R455) -/

/-- ALSRC (Table 17-3), a function of its sources. -/
def alsrc (s : State) : Nat :=
  (if flag s.mgmt.fltstat 60 then 1 else 0)
  + (if flag s.mgmt.rate 48 ∧ flag s.mgmt.ratelim 16 then 2 else 0)
  + (if (List.range s.part.hoofs).any (fun h => flag (s.hoof h).rate 48 && flag (s.hoof h).ratelim 16) then 4 else 0)
  + (if flag s.mgmt.therm 24 ∧ flag s.mgmt.therm 25 then 8 else 0)
  + (if s.failstop then 16 else 0)
  + (if s.mgmt.trip then 32 else 0)

/-- ALERT_N is asserted (driven low) while any bit of ALSRC is 1, outside a cold reset (R455, Table 17-2). -/
def alertAsserted (s : State) : Bool := decide (s.phase ≠ .coldReset) && decide (alsrc s ≠ 0)

/-! ### Fail-stop (R422, R423) -/

/-- LSTAT of a fabric port whose link is down from now on: a transition counts in DOWNS (R383). -/
def lstatDown (w : W64) : W64 := if flag w 0 then bump (setFlag w 0 false) 47 32 1 else w

/-- Fail-stop: log, FAILSTOP, links down, stacks in self-refresh. Nothing further is accepted, released or written. `unit` is the failed unit's
index within its die, 0xFFFF for none (Table 15-4). -/
def failStop (s : State) (die : Die) (code unit detail : Nat) : State :=
  let s := addLogAt s die 3 code unit 0 0 detail
  let s := { s with mgmt := { s.mgmt with fltstat := setFlag s.mgmt.fltstat 61 true } }
  let s := (List.range s.part.hoofs).foldl (fun s h => s.setHoof h { s.hoof h with href := setFlag (s.hoof h).href 1 true }) s
  let s := (List.range 4).foldl (fun s p => s.setHport p { s.hport p with up := false }) s
  (List.range 16).foldl (fun s p => s.setFport p { s.fport p with lstat := lstatDown (s.fport p).lstat }) s

/-- What the block does on every lasting fault that it masks (R420, R119): log, FLTCNT.LASTING, the unit's bit, NEW, GLEFT. -/
def maskFault (s : State) (die : Die) (code unit detail : Nat) (mark : State → State) : State :=
  let s := addLogAt (mark s) die 2 code unit 0 0 detail
  { s with
    mgmt := { s.mgmt with fltcnt := bump s.mgmt.fltcnt 47 32 1, fltstat := setFlag s.mgmt.fltstat 60 true }
    sched := { s.sched with scalepol := setFld s.sched.scalepol 31 16 (fld s.sched.scalepol 15 0) } }

/-- A transient: class 1 log entry and FLTCNT.TRANSIENT (R407). -/
def transient (s : State) (die : Die) (code unit detail : Nat) : State :=
  let s := addLogAt s die 1 code unit 0 0 detail
  { s with mgmt := { s.mgmt with fltcnt := bump s.mgmt.fltcnt 31 0 1 } }

/-- Die of the hottest junction (Table 16-10, HOTDIE). -/
def hotDie (s : State) : Die := let d := fld s.mgmt.therm 15 8; if d = 0 then .central else hoofDie (d - 1)

/-- AL of THERM is set while HOT is at or above ALIM; where it was clear and ALERT_EN is 1, that asserts ALERT_N and records an entry with the die and
the temperature (R436, Table 16-10). -/
def thermAlarm (s : State) : State :=
  let v := s.mgmt.therm
  if fld v 7 0 < fld v 23 16 then s
  else
    let s1 := { s with mgmt := { s.mgmt with therm := setFlag v 24 true } }
    if flag v 25 ∧ ¬ flag v 24 then addLogAt s1 (hotDie s) 4 0 0xFFFF 0 0 (fld v 7 0) else s1

/-! ### Region descriptors (R303) and Velvet entries (R110) -/

/-- Decode the 64 bytes of a region descriptor (Table 11-4). -/
def parseRegion (b : List Byte) : Region :=
  let f := fieldAt b 31 1
  { base := bits (fieldAt b 0 8) 51 0, bbase := bits (fieldAt b 8 8) 51 0, length := fieldAt b 16 6,
    velv := bits (fieldAt b 22 2) 11 0, lbase := fieldAt b 24 6, fmt := bits (fieldAt b 30 1) 3 0,
    bsz := bits (fieldAt b 30 1) 5 4, valid := bitAt f 0, sparse := bitAt f 1, par := bitAt f 2, strict := bitAt f 3,
    comp := bitAt f 4, perStep := bitAt f 5, stg := bitAt f 6,
    mirror := bits (fieldAt b 32 2) 11 0, mv := bitAt (fieldAt b 32 2) 12,
    coarse := sbyteAt b 34, gain := sbyteAt b 35, tenant := bits (fieldAt b 36 1) 3 0, raww := fieldAt b 37 1,
    hset := bits (fieldAt b 38 2) 11 0, akey := fieldAt b 40 4, ikey := fieldAt b 44 2, ns := fieldAt b 46 2,
    lobase := bits (fieldAt b 48 8) 51 0, sroww := fieldAt b 56 2,
    rsvd := decide (bits (fieldAt b 0 8) 63 52 ≠ 0 ∨ bits (fieldAt b 8 8) 63 52 ≠ 0 ∨ bits (fieldAt b 48 8) 63 52 ≠ 0) }

/-- Store offset of descriptor i. -/
def rdAddr (s : State) (i : Nat) : Nat := rdTable s.units + 64 * i

/-- Region descriptor i as the table holds it. -/
def State.rawRegion (s : State) (i : Nat) : Region := parseRegion (s.stBytes (rdAddr s i) 64)

/-- Class of region i that the open step captured at its opening (R37). -/
def heldClass (s : State) (i : Nat) : Option Bool := (s.steps.find? (fun x => x.opened)).bind (fun x => aget x.classes i)

/-- Region descriptor i as the block takes it: a change of its class waits for the next step opening (R37). -/
def State.region (s : State) (i : Nat) : Region :=
  match heldClass s i with
  | some c => { s.rawRegion i with sparse := c }
  | none => s.rawRegion i

/-- Write the descriptor field COARSE (R305). -/
def setCoarse (s : State) (i : Nat) (c : Int) : State :=
  { s with store := writeBytes s.store (rdAddr s i + 34) (leBytes 1 (uns 8 c)) }

/-- Block size of a region in elements. -/
def Region.B (r : Region) : Nat := 16 * 2 ^ r.bsz

/-- Does the region have a Velvet entry (R120)? -/
def Region.hasVelvet (r : Region) : Bool := !(r.fmt = fRAW || r.fmt = fWIDE || r.fmt = fPAIR)

/-- Store offset of Velvet entry j (R307). -/
def velAddr (s : State) (j : Nat) : Nat := velTable s.units + 64 * j

/-- Decode a Velvet entry (Table 4-4). -/
def parseVelvet (b : List Byte) : Velvet :=
  { c := sbyteAt b 0, g := sbyteAt b 1, margin := bits (fieldAt b 2 1) 2 0, srb := bits (fieldAt b 2 1) 5 3,
    carryPend := bitAt (fieldAt b 3 1) 0, carryLimit := bitAt (fieldAt b 3 1) 1, head := bits (fieldAt b 4 1) 3 0,
    hcount := Nat.min 16 (fieldAt b 5 1), curMax := sbyteAt b 6, clean := fieldAt b 7 1,
    hist := (List.range 16).map (fun i => sbyteAt b (8 + i)), step := fieldAt b 24 4, unf := fieldAt b 28 4,
    ovf := fieldAt b 32 4, edge := fieldAt b 36 4, skip := fieldAt b 40 2, carry := fieldAt b 42 2,
    ok := decide (fieldAt b 62 2 = crc16 (b.take 62)) }

/-- The 62 checked bytes of a Velvet entry. -/
def velvetBody (v : Velvet) : List Byte :=
  leBytes 1 (uns 8 v.c) ++ leBytes 1 (uns 8 v.g) ++ leBytes 1 (v.margin + 8 * v.srb)
    ++ leBytes 1 ((if v.carryPend then 1 else 0) + (if v.carryLimit then 2 else 0)) ++ leBytes 1 v.head
    ++ leBytes 1 v.hcount ++ leBytes 1 (uns 8 v.curMax) ++ leBytes 1 v.clean ++ v.hist.flatMap (fun h => leBytes 1 (uns 8 h))
    ++ leBytes 4 v.step ++ leBytes 4 v.unf ++ leBytes 4 v.ovf ++ leBytes 4 v.edge ++ leBytes 2 v.skip ++ leBytes 2 v.carry
    ++ leBytes 18 0

/-- Velvet entry j as the store holds it. -/
def State.velvet (s : State) (j : Nat) : Velvet := parseVelvet (s.stBytes (velAddr s j) 64)

/-- Write a Velvet entry with its CHECK (R114); a reserved SRB is written as 0b000 (R100). -/
def State.setVelvet (s : State) (j : Nat) (v : Velvet) : State :=
  let body := velvetBody { v with srb := if v.srb = 7 then 0 else v.srb }
  { s with store := writeBytes s.store (velAddr s j) (body ++ leBytes 2 (crc16 body)) }

/-- Change a Velvet entry. -/
def State.onVelvet (s : State) (j : Nat) (f : Velvet → Velvet) : State := s.setVelvet j (f (s.velvet j))

/-! ### Steps -/

/-- Newest step whose STOP was accepted. -/
def newestStep (s : State) : Option StepSt := s.steps.getLast?

/-- Oldest open step. -/
def oldestStep (s : State) : Option StepSt := s.steps.head?

/-- Open step number n. -/
def stepOf (s : State) (n : Nat) : Option StepSt := s.steps.find? (fun x => x.num = n)

/-- Change open step n. -/
def State.onStep (s : State) (n : Nat) (f : StepSt → StepSt) : State :=
  { s with steps := s.steps.map (fun x => if x.num = n then f x else x) }

/-- The regime of an open step (R116): guarded or measure-first steps commit through trials. -/
def stepGuarded (s : State) (o : Option Nat) : Bool :=
  match o.bind (stepOf s) with
  | some x => x.guarded
  | none => flag s.sched.scalepol 34

/-- STEPN of Table 6-5: a step is open from the acceptance of its STOP (R178). -/
def stepn (s : State) : W64 :=
  match newestStep s with
  | some x => BitVec.ofNat 64 (x.num + 2 ^ 32)
  | none => BitVec.ofNat 64 s.car.lastOpened

/-! ### Slots and streams -/

/-- Ticket of the operation in slot t: slot [11:0], generation [15:12] (R158). -/
def ticketOf (s : State) (t : Nat) : Nat := t + 4096 * (s.slot t).gen.toNat

/-- Slot named by a ticket, when the slot is busy under exactly that ticket (R159). -/
def slotOfTicket (s : State) (ticket : Nat) : Option Nat :=
  let t := ticket % 4096
  match (s.slot t).st with
  | .busy _ => if ticketOf s t = ticket % 65536 then some t else none
  | _ => none

/-- Slots that hold an operation. -/
def busySlots (s : State) : List (Nat × Op) :=
  s.slots.filterMap (fun e => match e.2.st with | .busy o => some (e.1, o) | _ => none)

/-- In flight: accepted and not complete. -/
def Op.inFlight (o : Op) : Bool :=
  match o.phase with | .issued | .waiting | .running | .ended => true | .recHeld | .held => false

/-- Slots held by core c (Table 6-5, HELD): HOLD = 1 operations of the core that occupy a slot. -/
def heldBy (s : State) (c : Nat) : Nat :=
  ((busySlots s).filter (fun e => e.2.hold && (match e.2.src with | .core k _ => decide (k = c) | _ => false))).length

/-- Return a slot to the end of the free list, or to quarantine when its operation was retried or ended by a timeout (R158, R160). -/
def freeSlot (s : State) (t : Nat) (quar : Bool) : State :=
  if quar then s.setSlot t { s.slot t with st := .quarantine s.now }
  else { s.setSlot t { s.slot t with st := .free } with freeq := s.freeq ++ [t] }

/-- One operation fewer in flight on a stream, at the present local time (R309 LAST, INFL). -/
def strmDone (s : State) (n : Nat) : State :=
  match s.strm n with
  | some k => s.setStrm n { k with infl := k.infl - 1, last := s.now }
  | none => s

/-! ### Taking a trap (R171-R173) -/

/-- Is the trap queue of a core full (R173)? -/
def tqFull (k : Core) : Bool := decide (k.tqtail - k.tqhead = (16 : BitVec 5))

/-- The 32 bytes of a trap record (Table 6-12). -/
def trapBytes (r : TrapRec) : List Byte :=
  leBytes 2 r.ticket ++ leBytes 1 r.cause ++ leBytes 1 r.flags ++ leBytes 1 r.opc ++ leBytes 1 r.var ++ leBytes 2 r.region
    ++ leBytes 6 r.index ++ leBytes 1 r.status ++ leBytes 1 0 ++ leBytes 8 r.pc ++ leBytes 4 r.step ++ leBytes 4 r.stream

/-- Write a record to the core's trap queue and advance TQTAIL (R171, step 1). -/
def pushTrap (s : State) (c : Nat) (r : TrapRec) : State :=
  let k := s.core c
  let o := k.tqbase.toNat / 512 * 512 + 32 * (k.tqtail.toNat % 16)
  (s.stWrite o (trapBytes r)).setCore c { k with tqtail := k.tqtail + 1 }

/-- The jump to the handler (R171, steps 2 and 3): EPC, IN_TRAP, TVEC. -/
def jumpTrap (s : State) (c : Nat) (epc : W64) : State :=
  let k := s.core c
  s.setCore c { k with epc := epc &&& ~~~3#64, inTrap := true, pc := k.tvec &&& ~~~3#64 }

/-- Double fault (R171, R173): the core halts, DFAULT is set, the log records it. -/
def doubleFault (s : State) (c : Nat) : State :=
  let k := s.core c
  addLog (s.setCore c { k with running := false, byHalt := false, stall := none, dfault := true }) 4 5 c k.pc.toNat

/-- Take a precise trap at the instruction at pc: the core performs nothing of it (R171). -/
def preciseTrap (s : State) (c : Nat) (r : TrapRec) : State :=
  let k := s.core c
  let s := s.setCore c { k with stall := none }
  if k.inTrap ∨ tqFull k then doubleFault s c
  else jumpTrap (pushTrap s c r) c k.pc

/-- A precise trap's record: cause, flags, opcode or MAJ, variant or FUNC, region, status. -/
def preciseRec (s : State) (c cause flags opc var region status : Nat) : TrapRec :=
  { ticket := 0, cause := cause, flags := flags, opc := opc, var := var, region := region, index := 0xFFFFFFFFFFFF,
    status := status, pc := (s.core c).pc.toNat, step := 0xFFFFFFFF, stream := (s.core c).stream.toNat }

/-- An asynchronous record enters the queue of a core that does not jump now, and counts as pending; a full queue loses it (R171, R173). -/
def queueAsync (s : State) (c : Nat) (r : TrapRec) : State :=
  let k := s.core c
  if tqFull k then s.setCore c { k with tqlost := BitVec.ofNat 32 (satAdd 32 k.tqlost.toNat 1), overrun := true }
  else
    let s := pushTrap s c r
    s.setCore c { s.core c with jumps := k.jumps + 1 }

/-- The records that wait for a boundary enter the queue: the core halts or has entered a trap. -/
def flushAsync (s : State) (c : Nat) : State :=
  let k := s.core c
  k.async.foldl (fun s r => queueAsync s c r) (s.setCore c { k with async := [] })

/-- An asynchronous record reaches a core (R171, R175): a halted core or one in a trap queues it at once and counts it pending,
another takes it at its next instruction boundary. -/
def raiseAsync (s : State) (c : Nat) (r : TrapRec) : State :=
  let k := s.core c
  if k.inTrap ∨ ¬ k.running then queueAsync s c r
  else s.setCore c { k with async := k.async ++ [r] }

/-- The source at the root of an operation: a sub-operation's parent's. -/
def rootSource (s : State) (o : Op) : Source :=
  match o.src with
  | .sub t => match s.op t with | some q => q.src | none => o.src
  | x => x

/-- An operation raises a trap on its issuing core, or on the trap core of its stream (R171, R175); FLAGS.TRAPPED is set. -/
def opTrap (s : State) (t : Nat) (cause : Nat) (desc : Bool) (region index : Nat) : State :=
  match s.op t with
  | none => s
  | some o =>
    let s := s.setOp t { o with trapped := true }
    let mk (hostF : Nat) (pc : Nat) : TrapRec :=
      { ticket := ticketOf s t, cause := cause, flags := 1 + (if desc then 2 else 0) + hostF, opc := o.opc, var := o.var,
        region := region, index := index, status := if cause = 1 then 0x18 else 0, pc := pc,
        step := o.step.getD 0xFFFFFFFF, stream := o.stream }
    match rootSource s o with
    | .core c pc => raiseAsync s c (mk 0 pc)
    | .plan => s
    | _ =>
      let c := match s.strm o.stream with | some k => k.trapc | none => 0
      raiseAsync s c (mk 4 0)

/-! ### Ending an operation -/

/-- Rank of a status in the order of R168. -/
def statusRank (st : Nat) : Nat :=
  if st = 0x18 then 1 else if st = 0x16 then 2 else if st = 0x17 then 3 else if st = 0x10 then 4 else if st = 0x19 then 5
  else if st = 0x14 then 6 else if st = 0x13 then 7 else if st = 0x15 then 8 else if st = 0x1A then 9 else if st = 0x12 then 10
  else if st = 0x11 then 11 else if st = 2 then 12 else if st = 1 then 13 else 14

/-- The first of two statuses in the order of R168. -/
def statusMin (a b : Nat) : Nat := if statusRank a ≤ statusRank b then a else b

/-- Settle an operation's status (by R168 with what it has gathered) and detail: its work has ended. The trap for the void with
the lowest logical index is raised here, once (R174). -/
def endOp (s : State) (t : Nat) (st detail : Nat) : State :=
  match s.op t with
  | none => s
  | some o =>
    let s := s.setOp t { o with phase := .ended, status := statusMin o.status st,
                                detail := if statusRank st ≤ statusRank o.status ∧ st ≠ 0 then detail else o.detail }
    match o.voids with
    | some (i, cause, ri) => opTrap s t cause false ri i
    | none => s

/-- Change the operation in slot t. -/
def State.onOp (s : State) (t : Nat) (f : Op → Op) : State :=
  match s.op t with
  | some o => s.setOp t (f o)
  | none => s

/-- End an operation with ILLEGAL before it writes anything, trapping on its issuing core (R15, R174). -/
def endIllegal (s : State) (t : Nat) : State :=
  match s.op t with
  | none => s
  | some o => endOp (opTrap s t 1 true o.region 0xFFFFFFFFFFFF) t 0x18 0

/-- Summary word of an operation (Table 6-11). -/
def summaryOf (o : Op) : Nat :=
  uns 8 o.maxabs + 256 * Nat.min o.count (2 ^ 32 - 1) + 2 ^ 40 * Nat.min o.ovfcnt 65535 + 2 ^ 56 * (o.flags % 256)

/-- Final status: OK becomes OK_DEGRADED or OK_RETRIED as R408 says. -/
def finalStatus (o : Op) : Nat :=
  statusMin o.status (if o.degraded then 2 else if o.retried then 1 else 0)

/-- Host message with a payload, from the block. -/
def hostMsg (kind : Nat) (req stream ticket status tag addr count : Nat) (last : Bool) (payload : List Byte) : HostMsg :=
  { kind := BitVec.ofNat 8 kind, last := last, req := BitVec.ofNat 11 req, stream := BitVec.ofNat 20 stream,
    ticket := BitVec.ofNat 16 ticket, status := BitVec.ofNat 8 status, len := BitVec.ofNat 8 (payload.length / 64),
    tag := BitVec.ofNat 32 tag, addr := BitVec.ofNat 52 addr, count := BitVec.ofNat 32 count, payload := payload }

/-- Send a message that takes no credit (ACK, WACK, SACK, CRED; R460). -/
def sendHost (s : State) (m : HostMsg) : State := { s with host := { s.host with out := s.host.out ++ [m] } }

/-- Receive credits that a response takes (R460). -/
def rxCost (m : HostMsg) : Nat := Nat.max 1 (cdiv m.len.toNat 4)

/-- Send a response under receive credits, or let it wait in the response share (R301, R460). -/
def sendCredited (s : State) (m : HostMsg) : State :=
  let have_ := mget (fun _ => 0) s.host.rxcred m.req.toNat
  if rxCost m ≤ have_ ∧ s.host.rxwait.all (fun w => w.req ≠ m.req) then
    sendHost { s with host := { s.host with rxcred := mput (fun _ => 0) s.host.rxcred m.req.toNat (have_ - rxCost m) } } m
  else { s with host := { s.host with rxwait := s.host.rxwait ++ [m] } }

/-- Pad bytes to a whole number of 64-byte units. -/
def pad64 (bs : List Byte) : List Byte := bs ++ List.replicate ((64 - bs.length % 64) % 64) 0

/-! ### Transit pool (R27, R299-R301, R365, Table 11-11) -/

/-- Traffic classes of a packet's kind (Table 13-3). -/
inductive PkClass where
  | request | response | control
deriving DecidableEq, Repr

/-- Class of a kind. -/
def kindClass (kind : Nat) : PkClass := if kind ≤ 0x05 then .request else if kind < 0x10 then .response else .control

/-- Bytes that n bytes of payload take in the pool: whole credits of 256 bytes, one at least. -/
def poolBytes (n : Nat) : Nat := 256 * Nat.max 1 (cdiv n 256)

/-- Bytes of a packet in the pool. -/
def pkBytes (k : Packet) : Nat := poolBytes k.payload.length

/-- Bytes of packets in the pool. -/
def pksBytes (ks : List Packet) : Nat := sumNat (ks.map pkBytes)

/-- Bytes of host messages in the pool. -/
def msgsBytes (ms : List HostMsg) : Nat := sumNat (ms.map (fun m => poolBytes m.payload.length))

/-- Forwarded packets of a class that landed on fabric port p and rest in the pool (R365). -/
def resting (s : State) (p : Nat) (c : PkClass) : List Packet :=
  (s.fab.egress.filter (fun e => decide (e.from_ = some p) && decide (kindClass e.pk.kind.toNat = c))).map (fun e => e.pk)

/-- Link agents of R300: host ports 0 to 3, then fabric ports from 4, then Hoof-link endpoints from 20. -/
def agents : Nat := 32

/-- Request-class bytes that an agent has in the pool (Table 11-2): host writes to the DRAM window that wait or whose parity writes are still to be
made; requests held for a fabric neighbour, and those being forwarded. A write of the store lands at its own address. -/
def requestUse (s : State) (a : Nat) : Nat :=
  if a < 4 then
    msgsBytes (s.host.hold.filter (fun m => decide (m.kind = 2) && inDram m.addr.toNat && decide (m.req.toNat / 512 = a)))
      + msgsBytes ((s.host.wack.map Prod.snd).filter (fun m => decide (m.req.toNat / 512 = a)))
  else if a < 20 then
    sumNat ((s.fab.keys.filter (fun k => decide (k.st = .running) && decide (k.port + 4 = a))).map (fun k => pksBytes k.req))
      + pksBytes (resting s (a - 4) .request)
  else 0

/-- Shared request space that a host port keeps for the write credits it has granted beyond its guarantee (R301, R460). -/
def reserved (s : State) (a : Nat) : Nat := 256 * sumNat ((s.host.wextra.filter (fun e => decide (e.1 / 512 = a))).map Prod.snd)

/-- This device's own packets that wait at an egress port: read data, replies and requests on their way out of the store (R27). -/
def leaving (s : State) : List Packet :=
  (s.fab.egress.filter (fun e => decide (e.from_ = none) && decide (kindClass e.pk.kind.toNat ≠ .control))).map (fun e => e.pk)

/-- Bytes that a bucket keeps in the pool: its agree codes, a byte each (R335), and of each selected block 64 codes with their checksum (R336). -/
def Bucket.poolUse (b : Bucket) : Nat :=
  (if b.codes = [] then 0 else poolBytes b.codes.length) + (if b.c0 = [] then 0 else poolBytes (260 * b.c0.length))

/-- Response-class bytes in the pool: responses that wait for receive credits, parts of replies, ring packets, forwarded responses, this device's own
packets that wait to leave, what a bucket keeps, and the parity traffic that the store holds (R401). Table 11-2 names no class for the last, nor for
the data of this device's requests; they take the class that waits for no request space (DESIGN CHOICE, notes/assumptions/52). -/
def responseUse (s : State) : Nat :=
  msgsBytes s.host.rxwait + sumNat (s.fab.orig.map (fun o => sumNat (o.parts.map (fun e => poolBytes e.2.length))))
    + pksBytes (s.fab.rings.map Prod.snd) + sumNat ((List.range 16).map (fun p => pksBytes (resting s p .response)))
    + pksBytes (leaving s) + 256 * (s.deltas.length + s.fulls.length) + sumNat (s.armed.map (fun a => sumNat (a.buckets.map Bucket.poolUse)))

/-- Control bytes in the pool that landed on fabric port p. -/
def controlUse (s : State) (p : Nat) : Nat := pksBytes (resting s p .control)

/-- Bytes of the pool (SLAY1.TPSIZE). -/
def poolSize (s : State) : Nat := fld s.units.slay1 25 16 * 2 ^ 20

/-- Bytes of the response share (SLAY1.RESP: eighths of the pool, from one). -/
def responseShare (s : State) : Nat :=
  let r := fld s.units.slay1 33 32
  poolSize s * (if r = 0 then 1 else if r = 1 then 2 else if r = 2 then 3 else 4) / 8

/-- Each agent's guarantee in the request share. -/
def guarantee : Nat := 512 * 1024

/-- Bytes by which an agent's requests, and the credits it has granted, go beyond its guarantee. -/
def beyondGuarantee (s : State) (a : Nat) : Nat := Nat.max (requestUse s a - guarantee) (reserved s a)

/-- What the request share leaves for all agents in arrival order (R300). -/
def sharedRequest (s : State) : Nat := poolSize s - responseShare s - agents * guarantee

/-- Bytes in the transit pool. -/
def transitBytes (s : State) : Nat :=
  sumNat ((List.range agents).map (requestUse s)) + responseUse s + sumNat ((List.range 16).map (controlUse s))

/-- Has the request share room for n bytes more of an agent: in its guarantee, or in what is shared (R300)? Ingress beyond the free space of the
whole pool is never granted (R30). -/
def requestRoom (s : State) (a n : Nat) : Bool :=
  let ext_ := requestUse s a + n - guarantee
  decide (transitBytes s + n ≤ poolSize s) && (decide (ext_ = 0)
    || decide (Nat.max ext_ (reserved s a) + sumNat (((List.range agents).filter (fun b => b ≠ a)).map (beyondGuarantee s)) ≤ sharedRequest s))

/-- Is so much of the shared request space free to be granted as credits (R301)? -/
def grantRoom (s : State) (n : Nat) : Bool :=
  decide (transitBytes s + n ≤ poolSize s) && decide (sumNat ((List.range agents).map (beyondGuarantee s)) + n ≤ sharedRequest s)

/-- Credits of 256 bytes that R365 reserves for the control kinds of all fabric ports: 16 flits a port, out of the response share. -/
def controlReserve : Nat := 16 * 16 * 256

/-- Has the response share room for n bytes more (R300)? -/
def responseRoom (s : State) (n : Nat) : Bool := decide (responseUse s + n ≤ responseShare s - controlReserve)

/-- Has the class of a packet that lands on fabric port p room for it (R300, R365)? Only forwarded control packets rest in the pool. -/
def classRoom (s : State) (p : Nat) (k : Packet) : Bool :=
  match kindClass k.kind.toNat with
  | .request => requestRoom s (4 + p) (pkBytes k)
  | .response => responseRoom s (pkBytes k)
  | .control => decide (controlUse s p + pkBytes k ≤ 16 * 256)

/-- May a response of so many 64-byte units to a requester be formed: it leaves at once under receive credits, or finds room in the response share
(R300, R301)? -/
def sendRoom (s : State) (req units : Nat) : Bool :=
  (decide (Nat.max 1 (cdiv units 4) ≤ mget (fun _ => 0) s.host.rxcred req) && s.host.rxwait.all (fun w => decide (w.req.toNat ≠ req)))
    || responseRoom s (poolBytes (64 * units))

/-- TPUSE in 4 KiB units. -/
def tpuse (s : State) : Nat := cdiv (transitBytes s) 4096

/-- TPPEAK follows TPUSE (Table 11-11). -/
def notePeak (s : State) : State := { s with units := { s.units with tppeak := Nat.max s.units.tppeak (tpuse s) } }

/-! ### The end of a command -/

/-- What holds after every command whatever it did: the queue is as the command found it, and TPPEAK has seen TPUSE. -/
def settle (s r : State) : State := notePeak { r with pending := s.pending }

/-- The outcome of a command that found the state s and whose effect left r. -/
def commit (s r : State) : Host.Outcome State Fault Refusal := .next (settle s r)

end Sys2Proof.Machine
end

