-- ==== Sys2Proof/Machine/Operands.lean ====
section
/-!
DEFINITION. Operands of the engine operations: areas, elements and blocks of a region (R64-R68, R73, R83, R89, R303), the checks of a
region descriptor (R304, R396, R397, R474), staging shares (R285, R398), and whole-block writes with what they report
(R79-R82, R104-R107, R117, R169).
-/

namespace Sys2Proof.Machine

namespace Region

/-- Bytes of the element area. -/
def elemBytes (r : Region) : Nat :=
  if r.fmt = fRAW then r.length * r.raww
  else if r.stg then r.length
  else if r.fmt = fG32 then r.length / 64 * 272
  else if r.fmt = fWIDE then r.length * 8
  else if r.fmt = fPAIR then r.length * 16
  else r.length * codeBits r.fmt / 8

/-- Does the region keep block bytes or block words in an area of their own? -/
def hasBB (r : Region) : Bool := (narrow r.fmt || r.fmt = fA32) && !r.stg

/-- Bytes of the block-byte area. -/
def bbBytes (r : Region) : Nat :=
  if r.hasBB then (if r.fmt = fA32 then 2 else 1) * (r.length / r.B) else 0

/-- Bytes of the lo area. -/
def loBytes (r : Region) : Nat := if r.comp then r.length else 0

/-- The areas of the region: start and length. -/
def areas (r : Region) : List (Nat × Nat) :=
  [(r.base, r.elemBytes)] ++ (if r.hasBB then [(r.bbase, r.bbBytes)] else []) ++ (if r.comp then [(r.lobase, r.loBytes)] else [])

/-- Does the region lie in the DRAM window? -/
def dram (r : Region) : Bool := inDram r.base

/-- Element bytes of a staging row's code. -/
def stgElem (r : Region) : Nat := if r.fmt = fA32 then 4 else 2

/-- Blocks of a staging row. -/
def stgBlocks (r : Region) : Nat := r.sroww / r.B

/-- Slot stride SB of a staging region (R285). -/
def stgSB (r : Region) : Nat :=
  cdiv (r.sroww * r.stgElem + r.stgBlocks * (if r.fmt = fA32 then 2 else 1) + 8) 8 * 8

/-- Slots per share. -/
def slots (r : Region) : Nat := r.ns + 1

/-- Bytes of one half of a share. -/
def halfBytes (r : Region) : Nat := 64 + 16 * r.slots + r.slots * r.stgSB

end Region

/-- The space that holds the whole area. -/
def areaSpace (s : State) (a n : Nat) : Option Space :=
  match spaceAt s a with
  | some p => if a + n ≤ p.start + p.extent then some p else none
  | none => none

/-- Place in group g of the unit that Antler number `sAnt` (antler * n + position) holds (R395). -/
def Space.unitOf (p : Space) (sAnt g : Nat) : Nat := (sAnt + 8 * p.n - p.rot g % (8 * p.n)) % (8 * p.n)

/-- Bytes of the interval [lo, hi), from the space's start, in the unit that an Antler holds of group g. -/
def Space.unitBytes (p : Space) (lo hi sAnt g : Nat) : Nat :=
  let u := 8 * p.n * g + p.unitOf sAnt g
  Nat.min hi ((u + 1) * p.unit) - Nat.max lo (u * p.unit)

/-- Length of the share that an Antler has of an area (R398): its units of the first and the last group as far as they lie in it, and one of every
group between. -/
def shareLen (p : Space) (base len sAnt : Nat) : Nat :=
  let lo := base - p.start
  let hi := lo + len
  let g0 := lo / (8 * p.n * p.unit)
  let g1 := (hi - 1) / (8 * p.n * p.unit)
  if g0 = g1 then p.unitBytes lo hi sAnt g0
  else p.unitBytes lo hi sAnt g0 + (g1 - g0 - 1) * p.unit + p.unitBytes lo hi sAnt g1

/-- Smallest share of a staging region. -/
def minShare (p : Space) (base len : Nat) : Nat :=
  ((List.range (8 * p.n)).map (shareLen p base len)).foldl Nat.min (shareLen p base len 0)

/-- Address of byte x of the share that Antler number `sAnt` has of a staging region at `base` (R398): its units in ascending g, the first of them
from the region's first byte on where the region begins within it. -/
def shareAddr (p : Space) (base sAnt x : Nat) : Nat :=
  let m := 8 * p.n
  let u0 := (base - p.start) / p.unit
  let g0 := if u0 % m ≤ p.unitOf sAnt (u0 / m) then u0 / m else u0 / m + 1
  let y := if u0 % m = p.unitOf sAnt (u0 / m) then x + (base - p.start) % p.unit else x
  let g := g0 + y / p.unit
  p.start + (m * g + p.unitOf sAnt g) * p.unit + y % p.unit

/-- Does the region's placement satisfy R304 (store) or R396 (DRAM)? -/
def placedOk (s : State) (r : Region) : Bool :=
  if r.dram then
    decide (r.hset ≠ 0) && (hoofList r.hset).all (fun h => h < s.part.hoofs)
    && r.areas.all (fun a => inDram a.1 && (match areaSpace s a.1 a.2 with
        | some p => p.hset = r.hset && p.ikey = r.ikey && p.par = r.par && !(r.stg && p.par)
        | none => false))
  else inStore r.base && decide (r.hset = 0)
    && r.areas.all (fun a => inStore a.1 && storeOk s.units (a.1 - storeBase) a.2)

/-- Do NS and SROWW fit LENGTH (R285)? -/
def stagingFits (s : State) (r : Region) : Bool :=
  decide (16 ≤ r.sroww) && decide (r.sroww ≤ 1024) && decide (r.sroww % r.B = 0)
  && (match areaSpace s r.base r.length with
      | some p => decide (2 * r.halfBytes ≤ minShare p r.base r.length)
      | none => false)

/-- Mirror device of d in the directory (R379), when its entry is valid. -/
def mirrorOf (s : State) (d : Nat) : Option Nat :=
  let e := leNat (s.stBytes (fld s.sched.fabmir 23 0 * 64 + 2 * d) 2)
  if bitAt e 15 then some (e % 4096) else none

/-- Does the region keep R379's rule: with MV = 1 its MIRROR is the directory's entry for this device? -/
def mirrorOk (s : State) (r : Region) : Bool :=
  !r.mv || decide (mirrorOf s s.dev = some r.mirror)

/-- A region descriptor without a reserved encoding (R304, R379, R396). -/
def regionOk (s : State) (r : Region) : Bool :=
  r.valid && decide (r.fmt ≤ 11)
  && decide (if r.fmt = fG32 then r.bsz = 2 else if r.fmt = fRAW ∨ r.fmt = fWIDE ∨ r.fmt = fPAIR then r.bsz = 0 else True)
  && (r.hasBB || decide (r.bbase = 0)) && (decide (r.lobase = 0) || (if r.dram then inDram r.lobase else inStore r.lobase))
  && (!(r.fmt = fRAW) || (decide (1 ≤ r.raww) && decide (r.raww ≤ 64)))
  && (!(r.fmt = fWIDE || r.fmt = fPAIR) || !r.dram)
  && decide (r.length ≠ 0)
  && (r.stg || r.fmt = fRAW || r.fmt = fWIDE || r.fmt = fPAIR || decide (r.length % r.B = 0))
  && (!r.comp || r.fmt = fK8) && (!r.strict || !unsignedFmt r.fmt)
  && (!r.stg || (r.sparse && (r.fmt = fK16 || r.fmt = fA32) && stagingFits s r))
  && placedOk s r && mirrorOk s r

/-- Granule of an area in bytes (Table 14-5): elements, block bytes, lo codes. -/
def granules (r : Region) : List Nat :=
  [4096 * codeBits r.fmt / 8] ++ (if r.hasBB then [(if r.fmt = fA32 then 8192 else 4096) / r.B] else []) ++ (if r.comp then [4096] else [])

/-- Origin unit of an area when it is whole and the granule is as required (R397). -/
def originUnit (s : State) (a n g : Nat) : Option Nat :=
  match areaSpace s a n with
  | some p => if p.unit = g ∧ (a - p.start) % g = 0 then some ((a - p.start) / g) else none
  | none => none

/-- Origin units of the areas of a region. -/
def origins (s : State) (r : Region) : List (Option Nat) :=
  (r.areas.zip (granules r)).map (fun e => originUnit s e.1.1 e.1.2 e.2)

/-- The areas of a region all have the same origin unit (R397). -/
def originOf (s : State) (r : Region) : Option Nat :=
  match origins s r with
  | some u :: rest => if rest.all (fun x => x = some u) then some u else none
  | _ => none

/-- Do the region's areas have whole and equal origin units (R397)? Store regions have none, and Table 14-5 gives G32 and RAW no area that a UPD,
MMA or plan could break. -/
def unitsOk (s : State) (r : Region) : Bool := !r.dram || r.fmt = fG32 || r.fmt = fRAW || (originOf s r).isSome

/-- Do two regions have the same Hoof set, interleave key and origin unit (R185, R397)? -/
def sameOrigin (s : State) (r q : Region) : Bool :=
  q.hset = r.hset && q.ikey = r.ikey && (match originOf s r, originOf s q with | some a, some b => a = b | _, _ => false)

/-- Is `q` a companion of `r` element by element, with its block size (R185, R285, R397)? A staging region is one, with the granule of its format
(notes/assumptions/15). -/
def companion (s : State) (r q : Region) : Bool := q.B = r.B && sameOrigin s r q

/-- Is `q` a per-row companion of `r` for rows of `roww` elements (R474)? -/
def rowCompanion (s : State) (r q : Region) (roww : Nat) : Bool :=
  q.hset = r.hset && q.ikey = r.ikey && decide (roww ≠ 0) && decide (4096 % roww = 0)
  && (match originOf s r, originUnit s q.base q.elemBytes (4096 / roww * (codeBits q.fmt / 8)) with
      | some a, some b => a = b
      | _, _ => false)

/-! ### Reading elements -/

/-- Code of element i. -/
def codeAt (s : State) (r : Region) (i : Nat) : Nat :=
  if codeBits r.fmt = 4 then bits (localByte s (r.base + i / 2)).toNat (4 * (i % 2) + 3) (4 * (i % 2))
  else leNat (rdLocal s (r.base + i * (codeBits r.fmt / 8)) (codeBits r.fmt / 8))

/-- Block byte of block b. -/
def bbyteAt (s : State) (r : Region) (b : Nat) : Byte := localByte s (r.bbase + b)

/-- Block word of block b of an A32 region. -/
def bwordAt (s : State) (r : Region) (b : Nat) : Nat := leNat (rdLocal s (r.bbase + 2 * b) 2)

/-- Coarse scale of a region: C of its Velvet entry, captured at the opening of the operation's step where it has one. -/
def coarseOf (s : State) (step : Option Nat) (r : Region) : Int :=
  match (step.bind (stepOf s)).bind (fun x => aget x.vel r.velv) with
  | some (c, _, _) => c
  | none => (s.velvet r.velv).c

/-- Parse a G32 block (Table 3-9). -/
def parseG32 (b : List Byte) : G32 :=
  let h := fieldAt b 0 16
  { exp := sext 10 h, esc := bits h 21 16, sat := bitAt h 24, voidp := bitAt h 25, escm := bitAt h 26, csum := bits h 63 32,
    block := bits h 95 64, contrib := bits h 108 96, el := (List.range 64).map (fun i => el32 (fieldAt b (16 + 4 * i) 4)) }

/-- Bytes of a G32 block. -/
def g32Bytes (g : G32) : List Byte :=
  leBytes 16 (uns 10 g.exp + g.esc * 2 ^ 16 + (if g.sat then 2 ^ 24 else 0) + (if g.voidp then 2 ^ 25 else 0)
      + (if g.escm then 2 ^ 26 else 0) + g.csum * 2 ^ 32 + g.block * 2 ^ 64 + g.contrib * 2 ^ 96)
    ++ g.el.flatMap (fun x => leBytes 4 (pat32 x))

/-- Value of element i of a region read at coarse scale C; hi codes alone of a compensated region (R87). -/
def elemVal (s : State) (r : Region) (C : Int) (i : Nat) : Num :=
  if narrow r.fmt then
    let b := bbyteAt s r (i / r.B)
    decodeCode r.fmt (codeAt s r i) (C + bbL b + bbF b)
  else if r.fmt = fA32 then ofReg (sext 10 (bwordAt s r (i / r.B))) (el32 (codeAt s r i))
  else if r.fmt = fG32 then
    let h := leNat (rdLocal s (r.base + i / 64 * 272) 4)
    ofReg (sext 10 h + bits h 21 16) (el32 (leNat (rdLocal s (r.base + i / 64 * 272 + 16 + 4 * (i % 64)) 4)))
  else if r.fmt = fWIDE then ofWide (leNat (rdLocal s (r.base + 8 * i) 8))
  else if r.fmt = fPAIR then ofPair (leNat (rdLocal s (r.base + 16 * i) 8)) (leNat (rdLocal s (r.base + 16 * i + 8) 8))
  else .fin (leNat (rdLocal s (r.base + r.raww * i) r.raww)) 0

/-- Values of n elements from element i. -/
def elemVals (s : State) (r : Region) (C : Int) (i n : Nat) : List Num := (List.range n).map (fun k => elemVal s r C (i + k))

/-! ### Writing blocks -/

/-- Bytes of a run of codes (R68). -/
def packCodes (fmt : Nat) (codes : List Nat) : List Byte :=
  if codeBits fmt = 4 then (List.range (codes.length / 2)).map (fun k => BitVec.ofNat 8 (codes.getD (2 * k) 0 % 16 + 16 * (codes.getD (2 * k + 1) 0 % 16)))
  else codes.flatMap (fun c => leBytes (codeBits fmt / 8) c)

/-- Write the codes of block b. -/
def putCodes (s : State) (t : Nat) (r : Region) (b : Nat) (codes : List Nat) : State :=
  wrLocal s t (r.base + b * r.B * codeBits r.fmt / 8) (packCodes r.fmt codes)

/-- Write the block byte of block b. -/
def putBB (s : State) (t : Nat) (r : Region) (b : Nat) (x : Byte) : State := wrLocal s t (r.bbase + b) [x]

/-- What a block written holds and reports. -/
structure BlockW where
  codes : List Nat
  bb    : Byte
  /-- exponent of the written codes -/
  E     : Int
  encs  : List Enc
  ovf   : Bool
  pend  : Bool
  /-- log2 code of the exact maximum (R105) -/
  mag   : Int
deriving DecidableEq, Repr

/-- Encode a whole narrow block: lift by R107, F by R104, elements by `enc` at the block exponent. -/
def encBlock (fmt : Nat) (strict guarded : Bool) (C : Int) (old : Byte) (vals : List Num) (enc : Int → Nat → Num → Enc) : BlockW :=
  let lp := liftRule guarded strict old
  let F := chooseF fmt C lp.1 vals
  let E := C + lp.1 + F
  let encs := vals.zipIdx.map (fun e => enc E e.2 e.1)
  let ovf := encs.any (fun e => e.ovf)
  { codes := encs.map (fun e => e.code), bb := blockByte F lp.1 ovf (encs.any (fun e => e.vp)), E := E, encs := encs, ovf := ovf,
    pend := lp.2, mag := logCode (blockMag fmt vals) }

/-- Did the block overflow in the sense of R117: OVF set, or a strict overflow to void? -/
def BlockW.overflowed (w : BlockW) : Bool := w.ovf || w.encs.any (fun e => e.made)

/-- Log2 code of the largest magnitude that the codes of a block stand for. -/
def codesMag (fmt : Nat) (E : Int) (codes : List Nat) : Int :=
  logCode (maxMag (codes.map (fun c => decodeCode fmt c E)))

/-- Counts that a write leaves in a Velvet entry (R105, R107, R110). -/
def countVelvet (s : State) (j : Nat) (mag : Int) (unf ovf edge : Nat) (pend : Bool) : State :=
  s.onVelvet j (fun v => { v with curMax := logMax v.curMax mag, unf := satAdd 32 v.unf unf, ovf := satAdd 32 v.ovf ovf,
                                  edge := satAdd 32 v.edge edge, carryPend := v.carryPend || pend })

/-- Mark a Velvet entry written, and overflowed, in a step (R111, R117). Marks for a step that has not opened here wait for its
opening. -/
def markStep (s : State) (step : Option Nat) (j : Nat) (ovf : Bool) : State :=
  match step with
  | some n =>
    if (stepOf s n).isSome then
      s.onStep n (fun x => { x with wrote := addNew x.wrote j, ovf := if ovf then addNew x.ovf j else x.ovf })
    else { s with car := { s.car with early := if ovf then addNew s.car.early (n, j) else s.car.early, earlyW := addNew s.car.earlyW (n, j) } }
  | none => s

/-- The void with the lower logical index. -/
def lowerVoid (a b : Option (Nat × Nat × Nat)) : Option (Nat × Nat × Nat) :=
  match a, b with
  | none, y => y
  | x, none => x
  | some x, some y => if y.1 < x.1 then some y else some x

/-- First void made or lost among written elements: index, cause, region. -/
def firstVoid (ri base : Nat) (encs : List Enc) : Option (Nat × Nat × Nat) :=
  match encs.zipIdx.find? (fun e => e.1.made || e.1.lost) with
  | some (e, i) => some (base + i, if e.made then 2 else 3, ri)
  | none => none

/-- Fold what a block write reports into the operation's summary and its first void. -/
def noteOp (s : State) (t : Nat) (count : Nat) (mag : Int) (ovf vp : Bool) (ovfBlock : Bool) (v : Option (Nat × Nat × Nat)) : State :=
  s.onOp t (fun o => { o with
    maxabs := logMax o.maxabs mag, count := o.count + count, ovfcnt := o.ovfcnt + (if ovfBlock then 1 else 0),
    flags := o.flags ||| ((if vp then 1 else 0) + (if ovf then 4 else 0)), voids := lowerVoid o.voids v })

/-- Step of the operation in a slot. -/
def opStep (s : State) (t : Nat) : Option Nat := (s.op t).bind (fun o => o.step)

/-- Write a block that has been encoded, and everything the write reports: memory, Velvet, step, operation. `trap` is false for IMPORT. -/
def putBlockW (s : State) (t ri : Nat) (r : Region) (b : Nat) (w : BlockW) (trap : Bool) : State :=
  let s1 := putBB (putCodes s t r b w.codes) t r b w.bb
  let s2 := countVelvet s1 r.velv w.mag (w.encs.countP (fun e => e.unf)) (if w.overflowed then 1 else 0)
      (w.encs.countP (fun e => e.edge)) w.pend
  let s3 := markStep s2 (opStep s t) r.velv w.overflowed
  noteOp s3 t w.codes.length (codesMag r.fmt w.E w.codes) w.overflowed (w.encs.any (fun e => e.vp)) w.ovf
    (if trap then firstVoid ri (r.lbase + b * r.B) w.encs else none)

/-- Write a whole A32 block, exponent as IMPORT takes it (R95, R249); `force` marks it overflowed (R243). -/
def putA32 (s : State) (t : Nat) (r : Region) (b : Nat) (vals : List Num) (force : Bool) : State :=
  let X := a32Exp vals
  let ms := vals.map (fun v => (v.at_ X).map hold31)
  let ovf := force || ms.any (fun o => match o with | some (_, h) => h | none => false)
  let vp := vals.any Num.isVoid
  let unf := (vals.zip ms).countP (fun e => e.1.active && decide (e.2.map Prod.fst = some 0))
  let s1 := putCodes s t r b (ms.map (fun o => pat32 (o.map Prod.fst)))
  let s2 := wrLocal s1 t (r.bbase + 2 * b) (leBytes 2 (blockWord X ovf vp))
  let mag := logCode (maxMag vals)
  let s3 := markStep (countVelvet s2 r.velv mag unf (if ovf then 1 else 0) 0 false) (opStep s t) r.velv ovf
  noteOp s3 t vals.length (logCode (maxMag (ms.map (fun o => ofReg X (o.map Prod.fst))))) ovf vp ovf none

/-- Store a whole block of a narrow or A32 region, toward zero (R99). -/
def storeBlock (s : State) (t ri : Nat) (r : Region) (b : Nat) (vals : List Num) (trap : Bool) : State :=
  if narrow r.fmt then
    let step := opStep s t
    let w := encBlock r.fmt r.strict (stepGuarded s step) (coarseOf s step r) (bbyteAt s r b) vals
      (fun E _ v => encode r.fmt r.strict E v)
    putBlockW s t ri r b w trap
  else putA32 s t r b vals false

/-- Codes re-expressed k places up (negative: shifted right toward zero) in a format: value kept, saturating (R276, R108). -/
def reexpress (fmt : Nat) (strict : Bool) (E E' : Int) (codes : List Nat) : List Enc :=
  codes.map (fun c => encode fmt strict E' (decodeCode fmt c E))

end Sys2Proof.Machine
end

