-- ==== Sys2Proof/Machine/Dritex.lean ====
section
/-!
DEFINITION. The Dritex generator (R127-R133), its test call (R142), and draws from a score row (R138, R139).
-/

namespace Sys2Proof.Machine

/-- Left rotation of a 32-bit word. -/
def rotl32 (x k : Nat) : Nat := (x * 2 ^ k) % 2 ^ 32 + x / 2 ^ (32 - k)

/-- Rotation amounts (Table 5-2). -/
def drxRA : List Nat := [16, 20, 12, 24, 16, 20, 12, 24, 16, 20]
/-- Rotation amounts (Table 5-2). -/
def drxRB : List Nat := [12, 28, 8, 4, 12, 28, 8, 4, 12, 28]

/-- Four words of the generator. -/
structure Quad where
  x0 : Nat
  x1 : Nat
  x2 : Nat
  x3 : Nat
deriving DecidableEq, Repr

/-- Round r of R131, `k` the key word that it adds. -/
def drxRound (ra rb r k : Nat) (q : Quad) : Quad :=
  let x0 := (q.x0 + q.x1) % 2 ^ 32
  let x3 := rotl32 (q.x3 ^^^ x0) ra
  let x2 := (q.x2 + x3) % 2 ^ 32
  let x1 := rotl32 (q.x1 ^^^ x2) rb
  { x0 := (x0 + k + r) % 2 ^ 32, x1 := x1, x2 := x2, x3 := x3 }

/-- The first n of the ten rounds. -/
def drxRounds (k0 k1 : Nat) : Nat → Quad → Quad
  | 0, q => q
  | n + 1, q => drxRound (drxRA.getD n 0) (drxRB.getD n 0) n (if n % 2 = 0 then k0 else k1) (drxRounds k0 k1 n q)

/-- Words of the counter after the first additions. -/
def drxStart (key ctr : Nat) : Quad :=
  { x0 := (ctr % 2 ^ 32 + key % 2 ^ 32) % 2 ^ 32, x1 := (ctr / 2 ^ 32 % 2 ^ 32 + key / 2 ^ 32 % 2 ^ 32) % 2 ^ 32,
    x2 := (ctr / 2 ^ 64 % 2 ^ 32 + 0x5A17C3E9) % 2 ^ 32, x3 := (ctr / 2 ^ 96 % 2 ^ 32 + 0xB4D20F6B) % 2 ^ 32 }

/-- Dritex (R131): 128 bits of a 64-bit key and a 128-bit counter. -/
def dritex (key ctr : Nat) : Nat :=
  let i := drxStart key ctr
  let q := drxRounds (key % 2 ^ 32) (key / 2 ^ 32 % 2 ^ 32) 10 i
  (q.x0 + i.x0) % 2 ^ 32 + (q.x1 + i.x1) % 2 ^ 32 * 2 ^ 32 + (q.x2 + i.x2) % 2 ^ 32 * 2 ^ 64 + (q.x3 + i.x3) % 2 ^ 32 * 2 ^ 96

/-- The counter of Table 5-1. -/
def drxCtr (index step purpose field : Nat) : Nat :=
  index % 2 ^ 48 + step % 2 ^ 32 * 2 ^ 48 + purpose % 2 ^ 8 * 2 ^ 80 + field % 2 ^ 40 * 2 ^ 88

/-- y0 of an output. -/
def drxY0 (y : Nat) : Nat := y % 2 ^ 32
/-- u = y1:y0 of an output. -/
def drxU (y : Nat) : Nat := y % 2 ^ 64

/-- Is a purpose code reserved, or the self-test's, which DRXTEST alone draws (R133, Table 5-3)? -/
def purposeBad (p : Nat) : Bool := decide (p = 0 ∨ 8 ≤ p)

/-- y0 + y1 + y2 + y3 as an unsigned 34-bit sum, less 2^33 (Table 5-3, purpose 0x06). -/
def drxNormal (y : Nat) : Int :=
  ((y % 2 ^ 32 + y / 2 ^ 32 % 2 ^ 32 + y / 2 ^ 64 % 2 ^ 32 + y / 2 ^ 96 % 2 ^ 32 : Nat) : Int) - 2 ^ 33

/-- b random bits of stochastic rounding (Table 5-3, purpose 0x01). -/
def roundBits (key index step vel quantity b : Nat) : Nat :=
  drxY0 (dritex key (drxCtr index step 1 (vel + quantity * 4096))) / 2 ^ (32 - b)

/-- b of an SRB code (Table 4-1). -/
def srbBits (srb : Nat) : Nat := [12, 4, 6, 8, 10, 14, 16, 12].getD srb 12

/-- Key latched for the step of an operation (R130). The spec does not say what a part of another device draws under whose step is not open here:
it takes the key that this device latched last (DESIGN CHOICE, notes/assumptions/58). -/
def stepKey (s : State) (step : Option Nat) : Nat :=
  match step.bind (stepOf s) with
  | some x => x.key.toNat
  | none => s.sched.drxkey.toNat

/-- Fold of a key (R137). -/
def keyFold (k : Nat) : Nat := (k ^^^ k / 2 ^ 16 ^^^ k / 2 ^ 32 ^^^ k / 2 ^ 48) % 2 ^ 16

/-- Run the test call on the registers of DRXTEST (R142). -/
def drxTest (s : State) : State :=
  let y := dritex s.sched.tkey.toNat (s.sched.tctr0.toNat + s.sched.tctr1.toNat * 2 ^ 64)
  { s with sched := { s.sched with tout0 := BitVec.ofNat 64 y, tout1 := BitVec.ofNat 64 (y / 2 ^ 64), tbusy := false } }

/-! ### Draws (R138, R139) -/

/-- A candidate of a draw: its index, its key for ordering, its weight. -/
structure Cand where
  idx : Nat
  z   : Num
  w   : Nat
deriving DecidableEq, Repr

/-- Insert into a list kept in descending order, ties lower index first; `gt` says strictly greater. -/
def insDesc (gt : Cand → Cand → Bool) (x : Cand) : List Cand → List Cand
  | [] => [x]
  | y :: ys => if gt x y || (!(gt y x) && decide (x.idx < y.idx)) then x :: y :: ys else y :: insDesc gt x ys

/-- Sort in descending order, ties lower index first. -/
def sortDesc (gt : Cand → Cand → Bool) (l : List Cand) : List Cand := l.foldr (insDesc gt) []

/-- z of one is greater. -/
def zGt (a b : Cand) : Bool := Num.lt b.z a.z
/-- W of one is greater. -/
def wGt (a b : Cand) : Bool := decide (b.w < a.w)
/-- Index order. -/
def byIdx (l : List Cand) : List Cand := sortDesc (fun a b => decide (a.idx < b.idx)) l

/-- Value of a wide result. -/
def wideOf (v : Num) : Num := ofWide (toWide v).w

/-- Reciprocal of the temperature mantissa as a wide number: exact for a power of two (R138). -/
def recipTM (tm : Nat) : Num :=
  let X := rcpLg tm 0 - 46
  .fin (rcpMag tm 0 X) X

/-- exp2 of a fraction in [0, 1) as the wide path has it: exactly 1 at 0, elsewhere within its bound (R126). -/
def exp2Frac (f : Num) : Num :=
  match wideOf f with
  | .fin m e => if m = 0 then .fin 1 0 else ofWide (exp2Res m e).w
  | .void => .fin 1 0

/-- W of R138 for an entry `d` at most zero. -/
def drawW (d : Num) : Nat :=
  match d with
  | .void => 0
  | .fin m e =>
    let fl : Int := if 0 ≤ e then m * 2 ^ e.toNat else Int.fdiv m (2 ^ (-e).toNat)
    let fr := Num.sub d (.fin fl 0)
    match (Num.scl (24 + fl) (exp2Frac fr)).at_ 0 with
    | some w => w.toNat
    | none => 0

/-- Parameters of a draw (Table 5-4). -/
structure DrawArgs where
  tm    : Nat
  te    : Int
  topk  : Nat
  topp  : Nat
  draws : Nat
  repl  : Bool
deriving DecidableEq, Repr

/-- Are the parameters free of reserved values? -/
def DrawArgs.ok (a : DrawArgs) : Bool :=
  decide (a.tm < 32768) && decide (a.topk ≤ 1024) && decide (a.topp < 32768) && decide (1 ≤ a.draws) && decide (a.draws ≤ 1024)

/-- Results of a draw, with EMPTY and SHORT. -/
structure DrawRes where
  out   : List Nat
  empty : Bool
  short : Bool
deriving DecidableEq, Repr

/-- The absent result. -/
def noIdx : Nat := 0xFFFFFFFF

/-- First entry, in ascending index order, whose running weight exceeds t. -/
def pick (t : Nat) : Nat → List Cand → Option Nat
  | _, [] => none
  | acc, c :: cs => if t < acc + c.w then some c.idx else pick t (acc + c.w) cs

/-- The draws over weights (the loop of R138); `u j` is y1:y0 of draw number j. -/
def drawLoop (u : Nat → Nat) (repl : Bool) : Nat → Nat → List Cand → List Nat × Bool
  | 0, _, _ => ([], false)
  | n + 1, j, l =>
    let S := sumNat (l.map (fun c => c.w))
    match (if S = 0 then none else pick (u j * S / 2 ^ 64) 0 l) with
    | none => let r := drawLoop u repl n (j + 1) l; (noIdx :: r.1, true)
    | some i =>
      let l' := if repl then l else l.map (fun c => if c.idx = i then { c with w := 0 } else c)
      let r := drawLoop u repl n (j + 1) l'
      (i :: r.1, r.2)

/-- Shortest prefix whose weight sum meets P (R138). -/
def topP (p total : Nat) : Nat → List Cand → List Cand
  | _, [] => []
  | acc, c :: cs => if p * total ≤ (acc + c.w) * 32768 then [c] else c :: topP p total (acc + c.w) cs

/-- A draw (R138) over scores with their indices. -/
def draw (scores : List (Nat × Num)) (a : DrawArgs) (u : Nat → Nat) : DrawRes :=
  let live := (scores.filter (fun e => !e.2.isVoid)).map (fun e => ({ idx := e.1, z := e.2, w := 0 } : Cand))
  if live.isEmpty then { out := List.replicate a.draws noIdx, empty := true, short := false }
  else if a.tm = 0 then
    let order := sortDesc zGt live
    let out := (List.range a.draws).map (fun j =>
      if a.repl then (order.map (fun c => c.idx)).getD 0 noIdx else (order.map (fun c => c.idx)).getD j noIdx)
    { out := out, empty := false, short := !a.repl && decide (order.length < a.draws) }
  else
    let zs := live.map (fun c => { c with z := wideOf (Num.scl (-a.te) (Num.mul c.z (recipTM a.tm))) })
    let order := sortDesc zGt zs
    let kept := if a.topk = 0 then order else order.take a.topk
    let top := (kept.map (fun c => c.z)).headD Num.zero
    let ws := kept.map (fun c => { c with w := drawW (Num.sub c.z top) })
    let ws := if a.topp = 0 then ws
      else topP a.topp (sumNat (ws.map (fun c => c.w))) 0 (sortDesc wGt ws)
    let r := drawLoop u a.repl a.draws 0 (byIdx ws)
    { out := r.1, empty := false, short := r.2 }

/-- A uniform draw over n edges (R139): every weight 1; with replacement any n, without at most the first entries. -/
def drawUniform (n : Nat) (draws : Nat) (repl : Bool) (u : Nat → Nat) : DrawRes :=
  if n = 0 then { out := List.replicate draws noIdx, empty := true, short := false }
  else if repl then { out := (List.range draws).map (fun j => u j * n / 2 ^ 64), empty := false, short := false }
  else
    let r := drawLoop u false draws 0 ((List.range n).map (fun i => ({ idx := i, z := Num.zero, w := 1 } : Cand)))
    { out := r.1, empty := false, short := r.2 }

end Sys2Proof.Machine
end

