-- ==== Sys2Proof/Machine/Scale.lean ====
section
/-!
DEFINITION. The scale policy: reading a Velvet entry with its check (R114), history push (R111), target scale (R112), carry and history
moves with their sweeps (R108, R109, R113), and gain (R115, R118).
-/

namespace Sys2Proof.Machine

/-- GLEFT := GSTEPS (R119). -/
def resetGleft (s : State) : State :=
  { s with sched := { s.sched with scalepol := setFld s.sched.scalepol 31 16 (fld s.sched.scalepol 15 0) } }

/-- Valid regions with a Velvet entry, in ascending index (R120). -/
def velRegions (s : State) : List (Nat × Region) :=
  ((List.range 4096).map (fun i => (i, s.region i))).filter (fun e => e.2.valid && e.2.hasVelvet)

/-- The region that stands for Velvet entry j: the lowest-indexed valid one that names it (R307). -/
def velOwner (regs : List (Nat × Region)) (j : Nat) : Option (Nat × Region) := regs.find? (fun e => e.2.velv = j)

/-- Velvet entries that valid regions name, once each. -/
def velEntries (regs : List (Nat × Region)) : List Nat := regs.foldl (fun a e => addNew a e.2.velv) []

/-- An entry that failed its check, reset from its region (R114). R114 does not name HEAD, STEP and CUR_MAX: they take 0, 0 and 0x80 with
the history (DESIGN CHOICE, notes/assumptions/27). -/
def freshVelvet (c g : Int) : Velvet :=
  { c := c, g := g, margin := 2, srb := 0, carryPend := false, carryLimit := false, head := 0, hcount := 0, curMax := -128, clean := 0,
    hist := List.replicate 16 (-128), step := 0, unf := 0, ovf := 0, edge := 0, skip := 0, carry := 0, ok := true }

/-- Read an entry at a step opening or context restore: its check (R114), a reserved SRB (R100). -/
def checkVelvet (s : State) (j : Nat) (own : Nat × Region) : State :=
  let v := s.velvet j
  if v.ok then
    if v.srb = 7 then addLog s 4 1 own.1 (velAddr s j) else s
  else resetGleft (addLog (s.setVelvet j (freshVelvet own.2.coarse own.2.gain)) 5 0x0101 own.1 j)

/-- Largest valid code of the HCOUNT newest slots of HIST. -/
def histMax (v : Velvet) : Option Int :=
  let codes := (List.range v.hcount).map (fun k => v.hist.getD ((v.head + 32 - 1 - k) % 16) (-128))
  match codes.filter (fun c => c ≠ -128) with
  | [] => none
  | x :: xs => some (xs.foldl Max.max x)

/-- C* of R112. -/
def targetC (fmt : Nat) (v : Velvet) : Int :=
  match histMax v with
  | none => v.c
  | some h => Max.max (-128) (Min.min 127 (h - widthW fmt - 6 + v.margin))

/-- History push of one entry (R111). -/
def pushHist (v : Velvet) (step : Nat) : Velvet :=
  { v with hist := v.hist.set v.head v.curMax, head := (v.head + 1) % 16, hcount := Nat.min 16 (v.hcount + 1), step := step, curMax := -128 }

/-- Slot number under which a sweep's parity traffic is held: no operation's. -/
def sweepSlot : Nat := 4096

/-- Codes that a sweep leaves of a block, with what each reports, and the lo codes of a compensated region (R88, R108, R113). -/
def sweepCodes (s : State) (r : Region) (b : Nat) (E E' : Int) : List (Enc × Nat) :=
  (List.range r.B).map (fun k =>
    let i := b * r.B + k
    if r.comp then compEnc r.strict E' (decodeComp (codeAt s r i) (localByte s (r.lobase + i)).toNat E)
    else (encode r.fmt r.strict E' (decodeCode r.fmt (codeAt s r i) E), 0))

/-- Write a block's codes and byte at the exponent of a sweep, with the lo codes of a compensated region (R108, R113): the elements that
reach zero, and whether the write overflowed (R117). A block whose exponent stays keeps its codes, and OVF is clear in every byte that
saturated nothing (R67, R108 step 3). -/
def sweepBlock (s : State) (r : Region) (b : Nat) (C C' F' : Int) (L' : Nat) : State × Nat × Bool :=
  let old := bbyteAt s r b
  let E := C + bbL old + bbF old
  let E' := C' + L' + F'
  if E' = E then (putBB s sweepSlot r b (blockByte F' L' false (bbVp old)), 0, false)
  else
    let outs := sweepCodes s r b E E'
    let encs := outs.map Prod.fst
    let s1 := putCodes s sweepSlot r b (encs.map (fun e => e.code))
    let s2 := if r.comp then wrLocal s1 sweepSlot (r.lobase + b * r.B) (outs.map (fun o => BitVec.ofNat 8 o.2)) else s1
    (putBB s2 sweepSlot r b (blockByte F' L' (encs.any (fun e => e.ovf)) (encs.any (fun e => e.vp))),
     encs.countP (fun e => e.unf), encs.any (fun e => e.ovf || e.made))

/-- A sweep that writes some areas of a region from end to end (R400). -/
def sweepOver (areas : List (Nat × Nat)) (f : State → State) (s : State) : State :=
  let r := f { s with sweeping := areas.map (fun a => { lo := a.1, len := a.2, wr := true, remote := false }) }
  { r with sweeping := [] }

/-- Sweep every block of a region at the opening of step n: new F and L by `f` of the old byte; counts into its Velvet entry, and a block
that overflows enters the step's overflow map (R113, R117). -/
def sweepRegion (s : State) (n : Nat) (r : Region) (C C' : Int) (f : Byte → Int × Nat) : State :=
  if narrow r.fmt ∧ !r.stg then
    sweepOver r.areas (fun s => (List.range (r.length / r.B)).foldl (fun s b =>
      let fl := f (bbyteAt s r b)
      let res := sweepBlock s r b C C' fl.1 fl.2
      let s1 := countVelvet res.1 r.velv (-128) res.2.1 (if res.2.2 then 1 else 0) 0 false
      if res.2.2 then s1.onStep n (fun x => { x with ovf := addNew x.ovf r.velv }) else s1) s) s
  else s

/-- The carry sweep of a per-step region rewrites block bytes alone (R108, step 6). -/
def carryBytes (s : State) (r : Region) : State :=
  if narrow r.fmt ∧ !r.stg then
    sweepOver [(r.bbase, r.bbBytes)] (fun s => (List.range (r.length / r.B)).foldl (fun s b =>
      let old := bbyteAt s r b
      putBB s sweepSlot r b (blockByte (Max.max (-8) (bbF old + bbL old - 4)) 0 false (bbVp old))) s) s
  else s

/-- Regions that name entry j. -/
def regionsOf (regs : List (Nat × Region)) (j : Nat) : List (Nat × Region) := regs.filter (fun e => e.2.velv = j)

/-- Is a carry of the entry refused (R109)? -/
def carryRefused (v : Velvet) : Bool := decide (127 < v.c + 4)

/-- A carry that would take C above +127 (R109). -/
def refuseCarry (s : State) (j : Nat) (own : Nat × Region) : State :=
  let s1 := if (s.velvet j).carryLimit then s else addLog s 5 0x0102 own.1 j
  s1.onVelvet j (fun v => { v with carryPend := false, carryLimit := true })

/-- The carry of entry j at the opening of step n (R108). -/
def carryEntry (s : State) (n : Nat) (regs : List (Nat × Region)) (j : Nat) (own : Nat × Region) : State :=
  let v := s.velvet j
  let C' := v.c + 4
  let s1 := (regionsOf regs j).foldl (fun s e =>
    if own.2.perStep then carryBytes s e.2
    else setCoarse (sweepRegion s n e.2 v.c C' (fun old => (Max.max (-8) (bbF old + bbL old - 4), 0))) e.1 C') s
  s1.onVelvet j (fun v => { v with c := C', carryPend := false, carry := satAdd 16 v.carry 1 })

/-- The history move of entry j at the opening of step n (R113); `skipped` when the step before was skipped with j in the merged map. -/
def moveEntry (s : State) (n : Nat) (regs : List (Nat × Region)) (j : Nat) (own : Nat × Region) (skipped : Bool) : State :=
  let v := s.velvet j
  let t := targetC own.2.fmt v
  if own.2.perStep then s.onVelvet j (fun v => { v with c := if skipped then Min.min 127 (t + 1) else t })
  else if (t - v.c).natAbs < 4 then s
  else
    let s1 := (regionsOf regs j).foldl (fun s e =>
      setCoarse (sweepRegion s n e.2 v.c t (fun old => (Max.max (-8) (Min.min 7 (bbF old - (t - v.c))), bbL old))) e.1 t) s
    s1.onVelvet j (fun v => { v with c := t })

/-- What one entry does at the opening of step n: a carry, or the history move, which also follows a carry that is refused (R108, R109,
R113). -/
def openEntry (s : State) (n : Nat) (regs : List (Nat × Region)) (skip : List Nat) (j : Nat) : State :=
  match velOwner regs j with
  | none => s
  | some own =>
    let s := checkVelvet s j own
    let v := s.velvet j
    if v.carryPend && !carryRefused v then carryEntry s n regs j own
    else moveEntry (if v.carryPend then refuseCarry s j own else s) n regs j own (decide (j ∈ skip))

/-- G falls by 1 after a skipped step (R115, R118). -/
def halveGain (s : State) (j : Nat) (ri : Nat) : State :=
  let v := s.velvet j
  if v.g ≤ -128 then addLog s 5 0x0103 ri j else s.setVelvet j { v with g := v.g - 1 }

/-- CLEAN and regrowth after a committed guarded step (R118, step 5). -/
def regrow (s : State) (j : Nat) (gain : Int) : State :=
  let v := s.velvet j
  let n := fld s.sched.scalepol 47 40
  let c := v.clean + 1
  if n = 0 then s.setVelvet j { v with clean := Nat.min 255 c }
  else if n ≤ c then s.setVelvet j { v with clean := 0, g := if v.g < gain then v.g + 1 else v.g }
  else s.setVelvet j { v with clean := c }

end Sys2Proof.Machine
end

