-- ==== Sys2Proof/Machine/SchedOps.lean ====
section
/-!
DEFINITION. Scheduler operations that every engine operation shares: the engine word (R155-R157), slots and tickets (R158-R161, R372),
ranges and conflicts (R32, R162), acceptance (R168, R179), functions (R444, R445), completion records (R165, R166, R318-R320).
-/

namespace Sys2Proof.Machine

/-- Fields of an engine word (Table 6-7). -/
structure EWord where
  opc    : Nat
  var    : Nat
  sD     : Nat
  sA     : Nat
  sB     : Nat
  crec   : Bool
  hold   : Bool
  fb     : Bool
  region : Nat
  doff   : Nat
  imm    : Nat
  major  : Nat
  rsvd   : Bool
deriving DecidableEq, Repr

/-- Read an engine word. -/
def parseEWord (w : Nat) : EWord :=
  { opc := bits w 13 6, var := bits w 21 14, sD := bits w 26 22, sA := bits w 31 27, sB := bits w 36 32, crec := bitAt w 37,
    hold := bitAt w 38, fb := bitAt w 39, region := bits w 55 44, doff := bits w 87 64, imm := bits w 127 96, major := bits w 5 0,
    rsvd := decide (bits w 43 40 ≠ 0 ∨ bits w 63 56 ≠ 0 ∨ bits w 95 88 ≠ 0) }

/-- Is the variant defined for the operation code (Table 6-8 and the governing chapters)? -/
def opcOk (opc var : Nat) : Bool :=
  if opc = 0x15 ∨ opc = 0x21 then decide (var ≤ 1)
  else if opc = 0x20 then decide (var ≤ 3)
  else if opc = 0x23 ∨ opc = 0x30 then decide (var ≤ 7)
  else decide (opc ∈ [0x01, 0x02, 0x03, 0x10, 0x11, 0x12, 0x13, 0x14, 0x22, 0x24, 0x25, 0x40, 0x41, 0x42, 0x50, 0x60, 0x61]) && decide (var = 0)

/-- Operations whose REGION must be zero. -/
def regionZero (opc : Nat) : Bool := decide (opc ∈ [0x10, 0x13, 0x14, 0x40, 0x60, 0x61])

/-- Is the word free of reserved encodings (R15, R150, R157)? A reserved field that is not zero is one (DEDUCED, notes/assumptions/16). -/
def EWord.ok (w : EWord) : Bool :=
  decide (w.major = 0x3F) && !w.rsvd && opcOk w.opc w.var && (!(regionZero w.opc) || decide (w.region = 0))

/-- Does the operation need a step (Table 6-8)? VOP does for dropout alone, found in its program. -/
def needsStep (opc : Nat) : Bool := decide (opc ∈ [0x15, 0x20, 0x21, 0x22, 0x24, 0x25, 0x41, 0x42, 0x50])

/-- Functions that an operation belongs to (Table 16-5); `proj` for a projecting GTH. -/
def functionsOf (opc : Nat) (proj : Bool) : List Nat :=
  if opc = 0x20 then [0]
  else if opc = 0x21 ∨ opc = 0x25 ∨ opc = 0x15 then [1]
  else if opc = 0x22 ∨ opc = 0x24 then [2]
  else if opc = 0x23 then (if proj then [2, 3] else [2])
  else if opc = 0x42 then [2, 4]
  else if opc = 0x30 then [3]
  else if opc = 0x40 ∨ opc = 0x41 ∨ opc = 0x11 ∨ opc = 0x12 then [4]
  else if opc = 0x50 then [5]
  else if opc = 0x13 ∨ opc = 0x14 then [6]
  else if opc = 0x10 then [7]
  else []

/-- FNSTAT state of function f: 0 enabled, 1 draining, 2 aborting, 3 disabled. -/
def fnState (s : State) (f : Nat) : Nat := fld s.sched.fnstat (2 * f + 1) (2 * f)

/-- Is any function of the list draining, aborting or disabled? -/
def fnRefuses (s : State) (fs : List Nat) : Bool := fs.any (fun f => fnState s f ≠ 0)

/-- Bytes of the descriptor at DOFF. -/
def descAt (s : State) (doff n : Nat) : List Byte := s.stBytes (doff * 64) n

/-- Is the descriptor of a GTH a projecting one? -/
def gthProj (desc : List Byte) : Bool := decide (2 ≤ fieldAt desc 14 1 % 4)

/-- Functions of an operation that a word issues. -/
def wordFunctions (s : State) (opc doff : Nat) : List Nat :=
  functionsOf opc (opc = 0x23 && gthProj (descAt s doff 64))

/-- Functions of an operation in flight. -/
def Op.functions (o : Op) : List Nat := functionsOf o.opc (o.opc = 0x23 && gthProj o.desc)

/-- Is the operation a sub-operation? -/
def Op.isSub (o : Op) : Bool := match o.src with | .sub _ => true | _ => false

/-! ### Slots (R158, R161, R372) -/

/-- Was the ticket sent towards device d, or towards the mirror that the directory names for it, in the last 1.152 ms (R372)? -/
def sentRecently (s : State) (d ticket : Nat) : Bool :=
  s.fab.sent.any (fun e => (e.dst = d || mirrorOf s d = some e.dst) && e.src = s.dev && e.ticket = ticket && decide (s.now < e.at_ + 115200))

/-- Next ticket of slot t. -/
def nextTicket (s : State) (t : Nat) : Nat := t + 4096 * (((s.slot t).gen.toNat + 1) % 16)

/-- The slot that an operation sending to `dests` takes: free longest, its next ticket not barred. -/
def pickSlot (s : State) (dests : List Nat) : Option Nat :=
  s.freeq.find? (fun t => dests.all (fun d => !(sentRecently s d (nextTicket s t))))

/-- An operation as it is issued. -/
def Op.fresh (src : Source) (w : EWord) (opA opB stream seq : Nat) : Op :=
  { opc := w.opc, var := w.var, region := w.region, doff := w.doff, imm := w.imm, opA := opA, opB := opB, crec := w.crec, hold := w.hold,
    fb := w.fb, src := src, stream := stream, seq := seq, phase := .issued, step := none, ranges := [], imgs := [], desc := [], status := 0,
    maxabs := -128, count := 0, ovfcnt := 0, flags := 0, detail := 0, voids := none, trapped := false, retried := false, degraded := false,
    aborted := false, progress := 0, rel := false, trial := false, done := [], reports := [], subs := 0, subst := [], prog := [],
    writes := [], tabs := [], rowBlks := [], recs := 0, heldRows := [], dispAt := 0, doneAt := 0 }

/-- Put an operation into slot t: generation up, slot off the free list, arrival numbered, its stream's INFL and LAST. -/
def occupy (s : State) (t : Nat) (o : Op) : State :=
  let k := s.slot t
  let s1 := s.setSlot t { gen := k.gen + 1, st := .busy { o with seq := s.car.seq } }
  let s2 := { s1 with freeq := s1.freeq.filter (fun x => x ≠ t), car := { s1.car with seq := s1.car.seq + 1 } }
  match s2.strm o.stream with
  | some q => s2.setStrm o.stream { q with infl := q.infl + 1, last := s2.now }
  | none => s2

/-- Allocate a slot for an operation, if one is free. -/
def allocOp (s : State) (o : Op) (dests : List Nat) : Option (State × Nat) :=
  match pickSlot s dests with
  | some t => some (occupy s t o, t)
  | none => none

/-! ### Ranges (R162) -/

/-- A local range. -/
def rngL (lo len : Nat) (wr : Bool) : Range := { lo := lo, len := len, wr := wr, remote := false }

/-- Ranges of every area of a region. -/
def regionRanges (r : Region) (wr : Bool) : List Range := r.areas.map (fun a => rngL a.1 a.2 wr)

/-- Ranges of n elements from element lo of a region that is no staging region: elements, block bytes or block words, and lo codes. -/
def spanRanges (r : Region) (lo n : Nat) (wr : Bool) : List Range :=
  let at_ := fun k => if r.fmt = fG32 then k / 64 * 272 else if r.fmt = fRAW then k * r.raww else if r.fmt = fWIDE then k * 8
    else if r.fmt = fPAIR then k * 16 else k * codeBits r.fmt / 8
  let till := if r.fmt = fG32 then at_ (lo + n + 63) else if codeBits r.fmt % 8 = 0 then at_ (lo + n) else cdiv ((lo + n) * codeBits r.fmt) 8
  let w := if r.fmt = fA32 then 2 else 1
  [rngL (r.base + at_ lo) (till - at_ lo) wr]
    ++ (if r.hasBB then [rngL (r.bbase + lo / r.B * w) ((cdiv (lo + n) r.B - lo / r.B) * w) wr] else [])
    ++ (if r.comp then [rngL (r.lobase + lo) n wr] else [])

/-- Store range of n bytes at a store offset. -/
def storeRange (o n : Nat) (wr : Bool) : Range := rngL (storeBase + o) n wr

/-- Widen to 64-byte boundaries. -/
def Range.widen (r : Range) : Range :=
  let lo := r.lo / 64 * 64
  { r with lo := lo, len := cdiv (r.lo + r.len) 64 * 64 - lo }

/-- Do two ranges overlap? -/
def Range.overlaps (a b : Range) : Bool := a.remote = b.remote && meets a.lo a.len b.lo b.len

/-- Do two ranges conflict (R32)? -/
def Range.conflicts (a b : Range) : Bool := (a.wr || b.wr) && a.overlaps b

/-- Gap between two ranges. -/
def Range.gap (a b : Range) : Nat :=
  if a.remote ≠ b.remote then 2 ^ 70
  else if a.lo + a.len ≤ b.lo then b.lo - (a.lo + a.len) else if b.lo + b.len ≤ a.lo then a.lo - (b.lo + b.len) else 0

/-- One range that covers two. -/
def Range.join (a b : Range) : Range :=
  let lo := Nat.min a.lo b.lo
  { lo := lo, len := Nat.max (a.lo + a.len) (b.lo + b.len) - lo, wr := a.wr || b.wr, remote := a.remote }

/-- Indices of the two ranges with the smallest gap. -/
def closest (l : List Range) : Option (Nat × Nat × Nat) :=
  let ps := l.zipIdx.flatMap (fun a => (l.zipIdx.filter (fun b => a.2 < b.2)).map (fun b => (a.2, b.2, Range.gap a.1 b.1)))
  ps.foldl (fun acc p => match acc with
    | none => some p
    | some q => if p.2.2 < q.2.2 then some p else some q) none

/-- Merge the two closest ranges. -/
def mergeOnce (l : List Range) : List Range :=
  match closest l with
  | none => l
  | some (i, j, _) =>
    match l[i]?, l[j]? with
    | some a, some b => ((l.zipIdx.filter (fun e => e.2 ≠ i ∧ e.2 ≠ j)).map Prod.fst) ++ [Range.join a b]
    | _, _ => l

/-- Ranges as the scoreboard records them: widened, a range both read and written once as a write, at most 32. -/
def recordRanges (l : List Range) : List Range :=
  let w := (l.filter (fun r => r.len ≠ 0)).map Range.widen
  let u := w.foldl (fun acc r =>
    if acc.any (fun x => x.lo = r.lo && x.len = r.len && x.remote = r.remote)
    then acc.map (fun x => if x.lo = r.lo ∧ x.len = r.len ∧ x.remote = r.remote then { x with wr := x.wr || r.wr } else x)
    else acc ++ [r]) []
  times mergeOnce (u.length - 32) u

/-- Does another operation in flight hold back this one by its ranges (R32): one that has been dispatched, whenever it was accepted, or one that
was accepted before it and still waits, an arming without a slot among them (R330)? -/
def rangeBlocked (s : State) (o : Op) : Bool :=
  (busySlots s).any (fun e => decide (e.2.seq ≠ o.seq)
    && (match e.2.phase with | .running | .ended => true | .waiting => decide (e.2.seq < o.seq) | _ => false)
    && e.2.ranges.any (fun a => o.ranges.any (fun b => Range.conflicts a b)))
  || s.armed.any (fun x => match x.wait with
    | some p => decide (p.seq < o.seq) && p.ranges.any (fun a => o.ranges.any (fun b => Range.conflicts a b))
    | none => false)

/-- Has the opening of its step taken effect (R178)? A step that has closed holds nothing back. -/
def stepReady (s : State) (o : Op) : Bool :=
  match o.step.bind (stepOf s) with
  | some x => x.opened
  | none => true

/-! ### Acceptance -/

/-- What the acceptance check of an operation finds. -/
inductive Chk where
  /-- a reserved encoding in the descriptor or a table (R15) -/
  | illegal
  /-- another status with its DETAIL -/
  | bad (status detail : Nat)
  /-- ranges, region images and the program or other words the operation keeps -/
  | ok (ranges : List Range) (imgs : List (Nat × Region)) (desc : List Byte) (prog : List Nat)
deriving DecidableEq, Repr

/-- The step that accepts work now: the newest one, its STCL not yet accepted (R179). -/
def stepFor (s : State) : Option Nat :=
  match newestStep s with
  | some x => if x.stcl = none then some x.num else none
  | none => none

/-- Has every earlier operation of the stream completed (R177)? -/
def streamClear (s : State) (o : Op) : Bool :=
  (busySlots s).all (fun e => decide (e.2.stream ≠ o.stream) || decide (o.seq ≤ e.2.seq) || !e.2.inFlight || e.2.isSub)

/-- Must a STOP or STCL, which runs at its acceptance, still wait: for every earlier operation of its stream when it has FB, for an earlier
FENC of its stream otherwise (R177)? -/
def fenced (s : State) (o : Op) : Bool :=
  decide (o.opc = 0x01 ∨ o.opc = 0x02)
    && ((o.fb && !(streamClear s o))
        || (busySlots s).any (fun e => decide (e.2.opc = 0x03) && decide (e.2.stream = o.stream) && decide (e.2.seq < o.seq) && e.2.inFlight))

/-- Is the operation a request of another device of which parts are still to land (Table 13-4, step 2)? It holds its slot, and waits for nothing of
this device's own order. -/
def Op.landing (o : Op) : Bool := decide (o.phase = .issued) && (match o.src with | .remote _ _ _ => true | _ => false)

/-- May slot t be accepted now: it is issued, nothing issued before it is still to be accepted but what a fence holds in other streams, and no context operation quiesces
the device (R33, R446)? -/
def acceptTurn (s : State) (t : Nat) : Bool :=
  match s.op t with
  | some o => decide (o.phase = .issued) && s.live && decide (s.quiesce = none) && !(fenced s o)
      && (busySlots s).all (fun e => e.2.landing || !(decide (e.2.phase = .issued) && decide (e.2.seq < o.seq)) || (fenced s e.2 && decide (e.2.stream ≠ o.stream)))
  | none => false

/-- What the scheduler itself finds at acceptance beside the operation's own check (R168): a function that refuses the operation, then a
step that is not open for new work. -/
def acceptFinds (s : State) (o : Op) (proj needs : Bool) : Nat :=
  if fnRefuses s (functionsOf o.opc proj) then 0x10
  else if needs ∧ stepFor s = none then 0x14
  else 0

/-- Accept the operation in slot t (R162, R168, R174, R179): tag it, run its check, record its ranges and images, or end it with the
first status in the order of R168. -/
def acceptOp (s : State) (t : Nat) (need : State → Op → Bool) (chk : State → Op → Chk) : State :=
  if ¬ acceptTurn s t then s
  else match s.op t with
  | none => s
  | some o =>
    let o := { o with step := (newestStep s).map (fun x => x.num) }
    let s := s.setOp t o
    match chk s o with
    | .illegal => endIllegal s t
    | .bad st d =>
      let f := acceptFinds s o (o.opc = 0x23 && gthProj (descAt s o.doff 64)) (need s o)
      if f ≠ 0 ∧ statusMin f st = f then endOp s t f 0 else endOp s t st d
    | .ok rs imgs desc prog =>
      let f := acceptFinds s o (o.opc = 0x23 && gthProj desc) (need s o)
      if f ≠ 0 then endOp s t f 0
      else s.setOp t { o with phase := .waiting, ranges := recordRanges rs, imgs := imgs, desc := desc, prog := prog, writes := rs.filter (fun r => r.wr && !r.remote) }

/-- Check the descriptor's own place in the store (R298), then what it says. -/
def withDesc (s : State) (o : Op) (n : Nat) (f : List Byte → Chk) : Chk :=
  match badAddr s (storeBase + o.doff * 64) n with
  | some x => .bad 0x16 x
  | none => f (descAt s o.doff n)

/-- The first bad address of a list of store ranges. -/
def badRanges (s : State) (rs : List Range) : Option Nat := rs.findSome? (fun r => if r.len = 0 then none else badAddr s r.lo r.len)

/-- Image of region i that the operation took at acceptance. -/
def Op.img (o : Op) (i : Nat) : Option Region := aget o.imgs i

/-- Region i as the operation has it: its image, so that a descriptor written meanwhile does not reach it (R305). -/
def Op.reg (s : State) (o : Op) (i : Nat) : Region := (o.img i).getD (s.region i)

/-- Is the operation in slot t running its work? -/
def running (s : State) (t : Nat) (opc : Nat) : Option Op :=
  match s.op t with
  | some o => if o.phase = .running ∧ o.opc = opc ∧ s.live then some o else none
  | none => none

/-- Is the operation in slot t an issued one of this code? -/
def isIssued (s : State) (t : Nat) (opc : Nat) : Bool :=
  match s.op t with
  | some o => decide (o.phase = .issued) && decide (o.opc = opc)
  | none => false

/-- Free the vector-engine context of slot t. -/
def freeCtx (s : State) (t : Nat) : State := { s with ctxs := s.ctxs.filter (fun e => e.2.slot ≠ t) }

/-- End an operation's work, its context going free. -/
def endWork (s : State) (t : Nat) (st detail : Nat) : State := endOp (freeCtx s t) t st detail

/-- End an operation that ABORT stopped, after whole units: CANCELLED with DETAIL. -/
def endAborted (s : State) (t : Nat) (detail : Nat) : State := endWork s t 0x11 detail

/-- Tiles of an operation of the array held for a verdict of the shadow check: output blocks of an MMA, tiles of projected rows. -/
def Op.heldArr (o : Op) : Nat := (if o.opc = 0x30 then o.reports.length else 0) + sumNat (o.heldRows.map (fun h => h.tiles.length))

/-- Tiles held for a verdict of the shadow check (R265): blocks of update units too. -/
def heldTiles (s : State) : Nat :=
  sumNat (s.tines.map (fun x => x.held.length))
    + sumNat ((busySlots s).map (fun e => e.2.heldArr))

/-! ### Completion records (R165, R318) -/

/-- The 32 bytes of a completion record (Table 6-9). -/
def recordBytes (s : State) (t : Nat) (o : Op) : List Byte :=
  let st := finalStatus o
  let sumv := st = 0 ∨ st = 1 ∨ st = 2
  leBytes 2 (ticketOf s t) ++ leBytes 1 st ++ leBytes 1 ((if sumv then 1 else 0) + (if o.trapped then 2 else 0)) ++ leBytes 1 o.opc
    ++ leBytes 1 o.var ++ leBytes 2 o.region ++ leBytes 4 o.stream ++ leBytes 4 (o.step.getD 0xFFFFFFFF)
    ++ leBytes 8 (summaryOf o) ++ leBytes 8 o.detail

/-- Is the completion queue of a stream full (R318)? -/
def cqFull (s : State) (q : Strm) : Bool :=
  let head := leNat (s.stBytes (q.cqbase * 64) 4)
  let tail := leNat (s.stBytes (q.cqbase * 64 + 4) 4)
  decide ((tail + 2 ^ 32 - head) % 2 ^ 32 = 2 ^ q.cqlog)

/-- Write a record, then TAIL, and push a copy where the stream asks for one (R318, R320). -/
def writeRecord (s : State) (n : Nat) (q : Strm) (rec : List Byte) : State :=
  let a := q.cqbase * 64
  let tail := leNat (s.stBytes (a + 4) 4)
  let s1 := s.stWrite (a + 64 + 32 * (tail % 2 ^ q.cqlog)) rec
  let s2 := s1.stWrite (a + 4) (leBytes 4 ((tail + 1) % 2 ^ 32))
  if q.push ∧ q.kind = 1 then
    sendCredited s2 (hostMsg 0x87 q.owner n (fieldAt rec 0 2) (fieldAt rec 2 1) 0 0 0 true (pad64 rec))
  else s2

/-- Does the operation report through its own record or log entry (R166)? -/
def Op.reportsHere (o : Op) : Bool := match o.src with | .core _ _ | .host _ => true | _ => false

/-- A core that waits for slot t's operation learns its result (R164). -/
def wakeWaiters (s : State) (t : Nat) (o : Op) : State :=
  let tk := ticketOf s t
  (List.range 16).foldl (fun s c =>
    let k := s.core c
    match k.stall with
    | some (.wait rd w) => if w = tk then s.setCore c { k with stall := some (.ready rd (BitVec.ofNat 64 (finalStatus o))) } else s
    | some (.summ rd w) => if w = tk then s.setCore c { k with stall := some (.ready rd (BitVec.ofNat 64 (summaryOf o))) } else s
    | some (.tsts p b w) => if w = tk then s.setCore c { k with stall := some (.readyP p (bitAt (summaryOf o) b)) } else s
    | _ => s) s

/-- Does the issuing core already stall in WAIT on slot t's operation (R164)? -/
def waitedFor (s : State) (t : Nat) (o : Op) : Bool :=
  (List.range 16).any (fun c => match (s.core c).stall, o.src with
    | some (.wait _ w), .core k _ => decide (w = ticketOf s t ∧ k = c)
    | _, _ => false)

/-- A complete operation leaves its slot: free, or in quarantine from its completion on (R160). -/
def leaveSlot (s : State) (t : Nat) (o : Op) : State :=
  if o.retried then s.setSlot t { s.slot t with st := .quarantine o.doneAt } else freeSlot s t false

/-- Leave the slot as the operation's HOLD says: kept for WAIT, unless a core already waits for it, or free (R160, R164). -/
def releaseSlot (s : State) (t : Nat) (o : Op) : State :=
  let waited := waitedFor s t o
  let s := wakeWaiters s t o
  if o.hold ∧ ¬ waited then s.setOp t { o with phase := .held } else leaveSlot s t o

/-- Log a failing operation that writes no record (R166). -/
def logFailure (s : State) (t : Nat) (o : Op) : State :=
  let st := finalStatus o
  if 0x10 ≤ st then addLogAt s .central 0 st 0xFFFF (ticketOf s t) o.stream o.detail else s

/-- Complete an operation of this device's own streams: record, held record or log, then the slot (R165, R166, R319). -/
def completeHere (s : State) (t : Nat) (o : Op) : State :=
  let s := strmDone s o.stream
  match s.strm o.stream with
  | none => releaseSlot (if o.crec ∨ ¬ o.hold then logFailure s t o else s) t o
  | some q =>
    if o.crec ∧ q.cqlog ≠ 0 then
      if cqFull s q ∨ q.heldRecs ≠ [] then
        let s := { s with sched := { s.sched with strmcnt := bump s.sched.strmcnt 63 48 1 } }
        let s := s.setStrm o.stream { q with heldRecs := q.heldRecs ++ [t] }
        (wakeWaiters s t o).setOp t { o with phase := .recHeld, hold := o.hold && !(waitedFor s t o) }
      else releaseSlot (writeRecord s o.stream q (recordBytes s t o)) t o
    else releaseSlot (if o.hold then s else logFailure s t o) t o

end Sys2Proof.Machine
end

