-- ==== Sys2Proof/Machine/FabOps.lean ====
section
/-!
DEFINITION. Fabric operations that several families share: packet bytes and ECRC (R362), presence and mirrors (R374, R379), routes
(R359-R361, R419), sending a packet, and the bookkeeping of an originator's requests (R367, R372).
-/

namespace Sys2Proof.Machine

/-! ### Packets -/

/-- The 32 header bytes (Table 13-2). -/
def packetHeader (k : Packet) : List Byte :=
  [k.kind, BitVec.ofNat 8 (k.hb.toNat + (if k.last then 16 else 0) + (if k.retry then 32 else 0) + 64 * k.dir.toNat)]
    ++ leBytes 2 k.src.toNat ++ leBytes 2 k.dst.toNat ++ leBytes 2 k.ticket.toNat
    ++ leBytes 4 (k.sstr.toNat + k.tenant.toNat * 2 ^ 20) ++ leBytes 4 k.step.toNat ++ leBytes 8 k.addr.toNat
    ++ leBytes 4 k.akey.toNat ++ leBytes 2 k.part.toNat ++ leBytes 1 (k.payload.length / 64) ++ [k.status]

/-- CRC-32 over the header and the payload (R362). -/
def ecrcOf (k : Packet) : Nat := crc32 (packetHeader k ++ k.payload)

/-- A packet of this device, as R366 sends it: HB 8, its ECRC. -/
def finish (k : Packet) : Packet :=
  let k := { k with hb := 8, dir := 0 }
  { k with ecrc := BitVec.ofNat 32 (ecrcOf k) }

/-- A packet without address, key or payload. -/
def bare (kind src dst ticket : Nat) : Packet :=
  { kind := BitVec.ofNat 8 kind, hb := 8, last := true, retry := false, dir := 0, src := BitVec.ofNat 12 src, dst := BitVec.ofNat 12 dst,
    ticket := BitVec.ofNat 16 ticket, sstr := 0, tenant := 0, step := 0xFFFFFFFF, addr := 0, akey := 0, part := 0, status := 0,
    payload := [], ecrc := 0 }

/-- Cut data into payloads of at most 4,096 bytes, padded to units (R362); never empty. -/
def cutParts (bs : List Byte) : List (List Byte) :=
  let n := Nat.max 1 (cdiv bs.length 4096)
  (List.range n).map (fun i => pad64 ((bs.drop (4096 * i)).take 4096))

/-- Packets of one message in parts: PART rises, LAST on the last (R362). -/
def partsOf (k : Packet) (bs : List Byte) : List Packet :=
  let ps := cutParts bs
  ps.zipIdx.map (fun e => { k with part := BitVec.ofNat 16 e.2, last := decide (e.2 + 1 = ps.length), payload := e.1 })

/-! ### Partners, absence, mirrors -/

/-- Is device d a partner (R374)? -/
def isPartner (s : State) (d : Nat) : Bool :=
  decide (d ≠ s.dev) && bitAt (fieldAt (s.stBytes (fld s.sched.fabpset 23 0 * 64 + d / 8) 1) 0 1) (d % 8)

/-- The partners, ascending. -/
def partners (s : State) : List Nat :=
  (bitmapList (s.stBytes (fld s.sched.fabpset 23 0 * 64) 512)).filter (fun d => d ≠ s.dev)

/-- Is device d declared absent here? -/
def isAbsent (s : State) (d : Nat) : Bool := decide (d ∈ s.fab.absent)

/-- Add to a counter of FABCNT0. -/
def bumpFab0 (s : State) (hi lo : Nat) : State := { s with sched := { s.sched with fabcnt0 := bump s.sched.fabcnt0 hi lo 1 } }
/-- Add to a counter of FABCNT1. -/
def bumpFab1 (s : State) (hi lo n : Nat) : State := { s with sched := { s.sched with fabcnt1 := bump s.sched.fabcnt1 hi lo n } }
/-- SBSTAT.STALE (R159, R371). -/
def bumpStale (s : State) : State :=
  { s with sched := { s.sched with stale := BitVec.ofNat 32 (satAdd 32 s.sched.stale.toNat 1) } }

/-! ### Routes (R359-R361, R419) -/

/-- Coordinate of a device in a dimension: 0 x, 1 y, 2 z (R25). -/
def coord (d dim : Nat) : Nat := d / 4 ^ dim % 4

/-- Rack domain of a device. -/
def domainOf (d : Nat) : Nat := d / 64

/-- Is fabric port p usable: link up, not retired? -/
def portUp (s : State) (p : Nat) : Bool := flag (s.fport p).lstat 0 && !(flag s.mgmt.fltstat (40 + p))

/-- Neighbour in direction 2 * dim + (0 for +, 1 for -). -/
def neighbour (d dir : Nat) : Nat :=
  let dim := dir / 2
  let c := coord d dim
  d - c * 4 ^ dim + ((if dir % 2 = 0 then c + 1 else c + 3) % 4) * 4 ^ dim

/-- Is the hop in a direction blocked: both its links down or its neighbour absent? -/
def blocked (s : State) (dir : Nat) : Bool :=
  (!(portUp s (2 * dir)) && !(portUp s (2 * dir + 1))) || isAbsent s (neighbour s.dev dir)

/-- The port of a direction that a packet takes: even or odd by R359, the other when that one is down (R419). -/
def pickPort (s : State) (dir : Nat) (k : Packet) : Nat :=
  let x := (k.src.toNat ^^^ k.ticket.toNat ^^^ k.part.toNat) % 2
  if portUp s (2 * dir + x) then 2 * dir + x else 2 * dir + (1 - x)

/-- Productive direction in a dimension, when the coordinates differ (R359). -/
def productive (me dst dim : Nat) : Option Nat :=
  let d := (coord dst dim + 4 - coord me dim) % 4
  if d = 0 then none else if d ≤ 2 then some (2 * dim) else some (2 * dim + 1)

/-- The egress port of a packet and the DIR it leaves with; none when no port is usable. -/
def route (s : State) (k : Packet) : Option (Nat × Nat) :=
  let me := s.dev
  let dst := k.dst.toNat
  if isAbsent s dst then none
  else if domainOf dst ≠ domainOf me then
    match ((List.range 4).map (fun i => 12 + (dst % 4 + i) % 4)).find? (portUp s) with
    | some u => some (u, 0)
    | none => ((List.range 12).find? (portUp s)).map (fun p => (p, 0))
  else
    let dirs := (List.range 3).filterMap (productive me dst)
    match dirs with
    | [] => none
    | d0 :: _ =>
      if k.dir.toNat ≠ 0 then
        let d := d0 / 2 * 2 + (if k.dir.toNat = 2 then 1 else 0)
        if blocked s d then none else some (pickPort s d k, k.dir.toNat)
      else
        match dirs.find? (fun d => !(blocked s d)) with
        | some d => some (pickPort s d k, 0)
        | none =>
          let d := if d0 % 2 = 0 then d0 + 1 else d0 - 1
          if blocked s d then none else some (pickPort s d k, if d % 2 = 0 then 1 else 2)

/-- The packet as it leaves with DIR d: its ECRC covers the header as sent. -/
def dressed (k : Packet) (d : Nat) : Packet :=
  let k := { k with dir := BitVec.ofNat 2 d }
  { k with ecrc := BitVec.ofNat 32 (ecrcOf k) }

/-- A packet joins those that wait at its port: a control packet ahead of every other (R365). -/
def enqueue (l : List Leaving) (e : Leaving) : List Leaving :=
  if kindClass e.pk.kind.toNat = .control then
    let ahead := fun (x : Leaving) => decide (x.port ≠ e.port) || decide (kindClass x.pk.kind.toNat = .control)
    l.takeWhile ahead ++ e :: l.dropWhile ahead
  else l ++ [e]

/-- Hand a packet to its egress port, or discard it (R361); `from_` is the port on which a forwarded one landed. A fail-stopped device sends
nothing. -/
def depart (s : State) (k : Packet) (from_ : Option Nat) (at_ : Nat) : State :=
  if s.failstop then s
  else match route s k with
  | some (p, d) => { s with fab := { s.fab with egress := enqueue s.fab.egress { port := p, pk := dressed k d, from_ := from_, at_ := at_ } } }
  | none => bumpFab0 s 47 32

/-- Send a packet of this device. -/
def sendPacket (s : State) (k : Packet) : State := depart s (finish k) none s.now

/-- One packet that waits at its port leaves; one whose port is down takes another way (R361, R419), and a forwarded one that has rested here for
more than 64 us is discarded (R366). -/
def leave (s : State) (e : Leaving) : State :=
  if e.from_.isSome ∧ e.at_ + 6400 < s.now then bumpFab0 s 15 0
  else if portUp s e.port then { s with fab := { s.fab with wire := s.fab.wire ++ [(e.port, e.pk)] } } else depart s e.pk e.from_ e.at_

/-- What waits at the ports leaves (R365). -/
def sendWaiting (s : State) : State := s.fab.egress.foldl leave { s with fab := { s.fab with egress := [] } }

/-- Send packets in order. -/
def sendAll (s : State) (ks : List Packet) : State := ks.foldl sendPacket s

/-- Note that the key (src, ticket) goes towards device d now (R371, R372). -/
def noteSent (s : State) (d src ticket : Nat) : State :=
  let e : SentEnt := { dst := d, src := src, ticket := ticket, at_ := s.now }
  { s with fab := { s.fab with sent := s.fab.sent.filter (fun x => !(x.dst = d && x.src = src && x.ticket = ticket)) ++ [e] } }

/-- Send a request of the operation in slot t, and keep what its replies need (R367, step 1). -/
def sendRequest (s : State) (t dst : Nat) (ks : List Packet) (fwd : Option (Nat × Nat)) : State :=
  let tk := match ks with | k :: _ => k.ticket.toNat | [] => ticketOf s t
  let o : Orig := { slot := t, ticket := tk, dst := dst, packets := ks, sentAt := s.now, pend := false, retried := false,
                    parts := [], lastPart := none, status := 0, fwdOf := fwd }
  noteSent (sendAll { s with fab := { s.fab with orig := s.fab.orig ++ [o] } } ks) dst ((fwd.map Prod.fst).getD s.dev) tk

/-- Change the requests that satisfy a test. -/
def mapOrig (s : State) (p : Orig → Bool) (f : Orig → Orig) : State :=
  { s with fab := { s.fab with orig := s.fab.orig.map (fun o => if p o then f o else o) } }

/-- Forget the requests that satisfy a test. -/
def dropOrig (s : State) (p : Orig → Bool) : State :=
  { s with fab := { s.fab with orig := s.fab.orig.filter (fun o => !(p o)) } }

/-- The device that serves a request for d now: d, or the mirror of an absent d (R377, R381). -/
def liveTarget (s : State) (d : Nat) (mirrored : Bool) : Option Nat :=
  if ¬ isAbsent s d then some d
  else if mirrored then (match mirrorOf s d with | some m => if isAbsent s m then none else some m | none => none)
  else none

/-- Change the held keys that satisfy a test. -/
def mapKey (s : State) (p : HKey → Bool) (f : HKey → HKey) : State :=
  { s with fab := { s.fab with keys := s.fab.keys.map (fun k => if p k then f k else k) } }

/-- The held key (SRC, TICKET). -/
def keyOf (s : State) (src ticket : Nat) : Option HKey := s.fab.keys.find? (fun k => k.src = src && k.ticket = ticket)

/-- Status that a held key's reply carries. -/
def HKey.status (hk : HKey) : Nat := match hk.reply.getLast? with | some k => k.status.toNat | none => 0

/-- RPLY packets of a held key: data parts to the device that its replies go to, the status in the last (Table 13-4, step 4). -/
def replyPackets (hk : HKey) (status : Nat) (data : List Byte) : List Packet :=
  let q := hk.req.headD (bare 0 0 0 0)
  let k : Packet := { bare 0x09 hk.src hk.via hk.ticket with sstr := q.sstr, tenant := q.tenant, step := q.step }
  let ps := if data = [] then [k] else partsOf k data
  ps.map (fun q => if q.last then { q with status := BitVec.ofNat 8 status } else q)

/-- The operation of a held key has completed: keep its reply and send it (Table 13-4, step 4). -/
def replyKey (s : State) (src ticket : Nat) (status : Nat) (data : List Byte) : State :=
  match keyOf s src ticket with
  | none => s
  | some hk =>
    let ks := replyPackets hk status data
    let s1 := mapKey s (fun k => k.src = src && k.ticket = ticket) (fun k => { k with st := .replied, reply := ks, relAt := s.now })
    sendAll s1 ks

end Sys2Proof.Machine
end

