-- ==== Sys2Proof/Machine/FnOps.lean ====
section
/-!
DEFINITION. Functions and their commands (R444, R445), streams (R308-R314) and the stream table: the operations that registers, ports
and resets share.
-/

namespace Sys2Proof.Machine

/-! ### Functions (R444, R445) -/

/-- Set the state of function f in FNSTAT. -/
def setFn (s : State) (f st : Nat) : State :=
  { s with sched := { s.sched with fnstat := setFld s.sched.fnstat (2 * f + 1) (2 * f) st } }

/-- Does any accepted operation of function f remain? -/
def fnBusy (s : State) (f : Nat) : Bool :=
  (busySlots s).any (fun e => decide (f ∈ e.2.functions)
    && (match e.2.phase with | .waiting | .running | .ended => true | _ => false))
  || (decide (f = 5) && s.armed.any (fun a => a.buckets.any (fun b => b.st ≠ .complete)))

/-- DRAIN (R445): a drain of an aborting or disabled function changes nothing (Table 16-13). -/
def drainFn (s : State) (f : Nat) : State := if fnState s f = 0 then setFn s f 1 else s

/-- An accepted operation under ABORT: one not dispatched is cancelled with DETAIL 0, one dispatched ends after its current unit. A FLUSH
lets its buckets complete first (R352). -/
def abortOp (s : State) (t : Nat) : State :=
  match s.op t with
  | none => s
  | some o =>
    match o.phase with
    | .waiting => if o.opc = 0x50 then s.setOp t { o with aborted := true } else endOp s t 0x11 0
    | .running => s.setOp t { o with aborted := true }
    | _ => s

/-- ABORT (R445). For REDUCE it also triggers every untriggered bucket of the armed steps and clears DRCTL.EN (R352). -/
def abortFn (s : State) (f : Nat) : State :=
  if fnState s f = 3 then s
  else
    let s1 := ((busySlots s).filter (fun e => decide (f ∈ e.2.functions))).foldl (fun s e => abortOp s e.1) (setFn s f 2)
    if f = 5 then
      { s1 with
        units := { s1.units with drctl := setFlag s1.units.drctl 24 false }
        armed := s1.armed.map (fun a => { a with flushed := true }) }
    else s1

/-- ENABLE (R445). -/
def enableFn (s : State) (f : Nat) : State := setFn s f 0

/-- Apply command `c` of FNCTL to function f. -/
def fnCommand (s : State) (f c : Nat) : State :=
  if c = 0 then enableFn s f else if c = 1 then drainFn s f else if c = 2 then abortFn s f else s

/-! ### Stream images (Table 11-6) -/

/-- Fields of a stream image. -/
structure StrmImg where
  num     : Nat
  kind    : Nat
  trapc   : Nat
  tenant  : Nat
  owner   : Nat
  rstream : Nat
  cqbase  : Nat
  cqlog   : Nat
  push    : Bool
  rxbase  : Nat
  rxsize  : Nat
  win     : Nat
  /-- a reserved encoding, or a block field that is not zero; reserved fields are ignored (R16) -/
  bad     : Bool
deriving DecidableEq, Repr

/-- Read a stream image. -/
def parseStrm (b : List Byte) : StrmImg :=
  let id := fieldAt b 0 4
  let own := fieldAt b 4 4
  let cq := fieldAt b 8 4
  let kind := bits id 23 22
  let cqlog := bits cq 28 24
  let win := bits (fieldAt b 24 2) 8 0
  { num := bits id 19 0, kind := kind, trapc := bits id 27 24, tenant := bits id 31 28, owner := bits own 11 0, rstream := bits own 31 12,
    cqbase := bits cq 23 0, cqlog := cqlog, push := bitAt cq 29, rxbase := fieldAt b 12 8, rxsize := fieldAt b 20 4, win := win,
    bad := decide (bits id 21 20 ≠ 0 ∨ kind = 3 ∨ (cqlog ≠ 0 ∧ ¬ (4 ≤ cqlog ∧ cqlog ≤ 20))
      ∨ (kind = 1 ∧ ¬ (1 ≤ win ∧ win ≤ 256)) ∨ (kind ≠ 1 ∧ (win ≠ 0 ∨ fieldAt b 12 8 ≠ 0))
      ∨ (kind = 0 ∧ 15 < bits own 11 0) ∨ (kind = 1 ∧ 2047 < bits own 11 0)
      ∨ fieldAt b 26 6 ≠ 0 ∨ bits (fieldAt b 32 2) 12 0 ≠ 0) }

/-- The stream that an image opens. -/
def StrmImg.strm (i : StrmImg) (now : Nat) : Strm :=
  { pin := false, kind := i.kind, trapc := i.trapc, tenant := i.tenant, owner := i.owner, rstream := i.rstream, cqbase := i.cqbase,
    cqlog := i.cqlog, push := i.push, rxbase := i.rxbase, rxsize := i.rxsize, win := i.win, last := now, infl := 0, place := none,
    cmd := 0, closers := [], img := [], heldRecs := [] }

/-- The 64 bytes of an open stream (Table 11-6). -/
def strmBytes (n : Nat) (k : Strm) : List Byte :=
  leBytes 4 (n + 2 ^ 20 + (if k.pin then 2 ^ 21 else 0) + k.kind * 2 ^ 22 + k.trapc * 2 ^ 24 + k.tenant * 2 ^ 28)
    ++ leBytes 4 (k.owner + k.rstream * 2 ^ 12) ++ leBytes 4 (k.cqbase + k.cqlog * 2 ^ 24 + (if k.push then 2 ^ 29 else 0))
    ++ leBytes 8 k.rxbase ++ leBytes 4 k.rxsize ++ leBytes 2 k.win ++ leBytes 6 k.last ++ leBytes 2 k.infl ++ leBytes 30 0

/-! ### The stream table (R311-R313) -/

/-- Does the stream table hold the descriptor? -/
def Strm.resident (k : Strm) : Bool := k.place.isNone

/-- Resident descriptors. -/
def residents (s : State) : Nat := s.strms.countP (fun e => e.2.resident)
/-- Spilled descriptors. -/
def spilled (s : State) : Nat := s.strms.countP (fun e => !e.2.resident)

/-- The victim of R311: resident, not pinned, INFL = 0, oldest LAST. -/
def victim (s : State) : Option Nat :=
  (s.strms.filter (fun e => e.2.resident && !e.2.pin && decide (e.2.infl = 0))).foldl
    (fun acc e => match acc with
      | none => some (e.1, e.2.last)
      | some (n, l) => if e.2.last < l ∨ (e.2.last = l ∧ e.1 < n) then some (e.1, e.2.last) else some (n, l)) none
  |>.map Prod.fst

/-- Places of the spill area (R312). -/
def spillPlaces (s : State) : Nat := fld s.units.slay0 54 48 * 16384

/-- The place that linear probing from a hash of the stream number finds free (R312). The spec names no hash, and no access reaches the spill area; the
model takes the number modulo the places (DESIGN CHOICE, notes/assumptions/68). -/
def spillPlace (s : State) (n : Nat) : Nat :=
  let used := s.strms.filterMap (fun e => e.2.place)
  (((List.range (used.length + 1)).map (fun i => (n + i) % spillPlaces s)).find? (fun p => p ∉ used)).getD 0

/-- Write the descriptor of stream n to a place of the spill area (R27, R312). -/
def spillTo (s : State) (n p : Nat) : State :=
  match s.strm n with
  | some k => { s.setStrm n { k with place := some p } with store := writeBytes s.store ((spillArea s.units).1 + 64 * p) (strmBytes n k) }
  | none => s

/-- Spill stream n to a free place. -/
def spillStrm (s : State) (n : Nat) : State := spillTo s n (spillPlace s n)

/-- A descriptor as its 64 bytes give it back; what the block has queued for the stream meanwhile stands beside them. -/
def Strm.unspill (k : Strm) (b : List Byte) : Strm :=
  let i := parseStrm b
  { k with place := none, pin := bitAt (fieldAt b 0 4) 21, kind := i.kind, trapc := i.trapc, tenant := i.tenant, owner := i.owner, rstream := i.rstream,
           cqbase := i.cqbase, cqlog := i.cqlog, push := i.push, rxbase := i.rxbase, rxsize := i.rxsize, win := i.win, last := fieldAt b 26 6 }

/-- Make a place in the table for a stream that opens; none when the spill area is full (R312). -/
def makePlace (s : State) : Option State :=
  if residents s < 8192 then some s
  else if spilled s < spillPlaces s then (victim s).map (spillStrm s)
  else none

/-- Refill stream n: its descriptor is read from the spill area, and where the table is full a victim takes its place there (R312, R313). -/
def refillStrm (s : State) (n : Nat) : State :=
  match s.strm n with
  | none => s
  | some k =>
    match k.place with
    | none => s
    | some p =>
      let k' := k.unspill (s.stBytes ((spillArea s.units).1 + 64 * p) 64)
      let s1 := if residents s < 8192 then s else (match victim s with | some v => spillTo s v p | none => s)
      { s1.setStrm n k' with sched := { s1.sched with strmcnt := bump s1.sched.strmcnt 31 0 1 } }

/-! ### Opening and closing (R310, R314) -/

/-- Open stream n from an image of the wanted KIND; `own` is the requester of an SOPEN (R310). -/
def openStrm (s : State) (n : Nat) (img : List Byte) (kind : Nat) (own : Option Nat) : State × Nat :=
  let i := parseStrm img
  if i.bad ∨ (s.strm n).isSome ∨ n < 16 ∨ 0x80000 ≤ n ∨ i.kind ≠ kind ∨ i.num ≠ n ∨ i.rstream ≠ 0 ∨ own.any (fun r => i.owner ≠ r)
  then (s, 0x18)
  else match makePlace s with
    | none => ({ s with sched := { s.sched with strmcnt := bump s.sched.strmcnt 47 32 1 } }, 0x15)
    | some s1 => (s1.setStrm n (i.strm s1.now), 0)

/-- Is a stream closing? -/
def Strm.closing (k : Strm) : Bool := decide (k.cmd = 1) || !k.closers.isEmpty

/-- STRMCMD finishes with a status. -/
def strmcmdDone (s : State) (st : Nat) : State :=
  { s with sched := { s.sched with strmcmd := setFld (setFlag s.sched.strmcmd 63 false) 55 48 st } }

/-- SACK for a close (R460). -/
def sackClose (s : State) (n req tag st : Nat) : State := sendHost s (hostMsg 0x84 req n 0 st tag 0 0 true [])

/-- The image's configurable fields put into an open stream (R314). -/
def Strm.reconf (k : Strm) (img : List Byte) : Strm :=
  let i := parseStrm img
  { k with cqbase := i.cqbase, cqlog := i.cqlog, push := i.push, rxbase := i.rxbase, rxsize := i.rxsize, win := i.win, trapc := i.trapc,
           tenant := i.tenant, cmd := 0, img := [] }

/-- A closing or reconfiguring stream with nothing in flight: the command completes, a reconfigure that came before the close of its requester with it
(R314). A spilled stream is refilled for a reconfigure. -/
def strmFinish (s : State) (n : Nat) : State :=
  match s.strm n with
  | none => s
  | some k =>
    if k.infl ≠ 0 ∨ k.heldRecs ≠ [] then s
    else if k.closing then
      let s1 := { s with strms := adel s.strms n }
      let s2 := if k.cmd ≠ 0 then strmcmdDone s1 0 else s1
      k.closers.foldl (fun s e => sackClose s n e.2 e.1 0) s2
    else if k.cmd = 2 then
      let s1 := refillStrm s n
      match s1.strm n with
      | some q => strmcmdDone (s1.setStrm n (q.reconf k.img)) 0
      | none => s1
    else s

/-- STRMCMD close of stream n. -/
def closeByCmd (s : State) (n : Nat) : State :=
  match s.strm n with
  | none => strmcmdDone s 0x18
  | some k =>
    if k.pin then strmcmdDone s 0x18
    else strmFinish (s.setStrm n { k with cmd := 1 }) n

/-- SCLOSE of stream n from a requester. -/
def closeByHost (s : State) (n req tag : Nat) : State :=
  match s.strm n with
  | none => sackClose s n req tag 0x18
  | some k =>
    if k.pin ∨ k.kind ≠ 1 ∨ k.owner ≠ req then sackClose s n req tag 0x18
    else strmFinish (s.setStrm n { k with closers := k.closers ++ [(tag, req)] }) n

/-- Is an image fit for a reconfigure: its CQ, RX, WIN, TRAPC and TENANT free of reserved encodings for the stream's own KIND (R314)? -/
def reconfOk (k : Strm) (img : List Byte) : Bool :=
  let i := parseStrm img
  decide ((i.cqlog = 0 ∨ (4 ≤ i.cqlog ∧ i.cqlog ≤ 20)) ∧ (if k.kind = 1 then 1 ≤ i.win ∧ i.win ≤ 256 else i.win = 0 ∧ i.rxbase = 0))

/-- STRMCMD reconfigure of stream n. -/
def reconfByCmd (s : State) (n : Nat) (img : List Byte) : State :=
  match s.strm n with
  | none => strmcmdDone s 0x18
  | some k =>
    if k.closing ∨ ¬ reconfOk k img then strmcmdDone s 0x18
    else strmFinish (s.setStrm n { k with cmd := 2, img := img }) n

/-- Run the command that STRMCMD holds (Table 11-15). -/
def runStrmcmd (s : State) : State :=
  let v := s.sched.strmcmd
  let n := fld v 19 0
  let op := fld v 21 20
  let img := s.stBytes (fld v 47 24 * 64) 64
  let s := { s with sched := { s.sched with strmcmd := setFlag v 63 true } }
  if op = 0 then (let r := openStrm s n img 0 none; strmcmdDone r.1 r.2)
  else if op = 1 then closeByCmd s n
  else reconfByCmd s n img

/-! ### Remote streams (R317) -/

/-- The local stream of a remote pair. -/
def remoteStrm (s : State) (dev sstr : Nat) : Option Nat :=
  (s.strms.find? (fun e => e.2.kind = 2 && e.2.owner = dev && e.2.rstream = sstr)).map Prod.fst

/-- Find or open the local stream of a remote pair; none stands for SPILL_FULL. -/
def openRemote (s : State) (dev sstr tenant : Nat) : Option (State × Nat) :=
  match remoteStrm s dev sstr with
  | some n => some (s, n)
  | none =>
    let used := (s.strms.filter (fun e => 0x80000 ≤ e.1)).map Prod.fst
    match (List.range (used.length + 1)).find? (fun i => 0x80000 + i ∉ used) with
    | none => none
    | some i =>
      if 0x80000 ≤ i then none
      else match makePlace s with
        | none => none
        | some s1 => some (s1.setStrm (0x80000 + i)
            { pin := false, kind := 2, trapc := s.sched.rtrapc.toNat, tenant := tenant, owner := dev, rstream := sstr, cqbase := 0, cqlog := 0,
              push := false, rxbase := 0, rxsize := 0, win := 0, last := s1.now, infl := 0, place := none, cmd := 0, closers := [],
              img := [], heldRecs := [] }, 0x80000 + i)

/-! ### Power domains (R430-R433) -/

/-- Bit of a domain in PWRSTAT (Tables 16-1, 16-9). -/
def domainBit : Domain → Nat
  | .arra => 7
  | .arrb => 8
  | .vec => 9
  | .hostp => 10
  | .fabp0 => 11
  | .fabp1 => 12
  | .hctl h => 26 + h.val
  | .htine h => 38 + h.val

/-- Is a domain powered? A Hoof's domains are also in its own flags. -/
def powered (s : State) (d : Domain) : Bool := flag s.mgmt.pwrstat (domainBit d)

/-- Switch a domain. -/
def setDomain (s : State) (d : Domain) (on : Bool) : State :=
  let s := { s with mgmt := { s.mgmt with pwrstat := setFlag s.mgmt.pwrstat (domainBit d) on } }
  match d with
  | .htine h => s.setHoof h.val { s.hoof h.val with htine := on }
  | .hctl h => s.setHoof h.val { s.hoof h.val with hctl := on }
  | _ => s

/-- Policy of a domain: 0 AUTO, 1 ON, 2 OFF; HCTL follows HCOFF. -/
def policy (s : State) : Domain → Nat
  | .arra => fld s.mgmt.pwrctl 1 0
  | .arrb => fld s.mgmt.pwrctl 3 2
  | .vec => fld s.mgmt.pwrctl 5 4
  | .hostp => fld s.mgmt.pwrctl 7 6
  | .fabp0 => fld s.mgmt.pwrctl 9 8
  | .fabp1 => fld s.mgmt.pwrctl 11 10
  | .htine _ => fld s.mgmt.pwrctl 13 12
  | .hctl h => if flag s.mgmt.pwrctl (16 + h.val) then 2 else 1

/-- Is function f disabled? -/
def fnOff (s : State) (f : Nat) : Bool := decide (fnState s f = 3)

/-- The condition under which an OFF domain is gated (R431). -/
def offHolds (s : State) : Domain → Bool
  | .arra => fnOff s 3
  | .arrb => fnOff s 3 || flag s.units.arrcfg 0
  | .vec => fnOff s 4 && fnOff s 2 && fnOff s 5 && !(flag s.units.shdcfg 5) && !(flag s.units.shdcfg 6)
  | .hostp => true
  | .fabp0 => !(flag s.sched.fabcfg 8)
  | .fabp1 => !(flag s.sched.fabcfg 8)
  | .htine _ => fnOff s 0 && fnOff s 2 && !(flag s.units.shdcfg 6)
  | .hctl _ => true

/-- The Hoofs of the configuration. -/
def hoofIds (s : State) : List HoofId := (List.finRange 12).filter (fun h => h.val < s.part.hoofs)

/-- Every domain that a policy governs. -/
def domains (s : State) : List Domain :=
  [.arra, .arrb, .vec, .hostp, .fabp0, .fabp1] ++ (hoofIds s).map Domain.htine ++ (hoofIds s).map Domain.hctl

/-- A UCIe link goes down with its domain: host ports, fabric ports (Table 16-1, what is lost). -/
def linksDown (s : State) : Domain → State
  | .hostp => (List.range 4).foldl (fun s p => s.setHport p { s.hport p with up := false }) s
  | .fabp0 => (List.range 8).foldl (fun s p => s.setFport p { s.fport p with lstat := lstatDown (s.fport p).lstat }) s
  | .fabp1 => (List.range 8).foldl (fun s p => s.setFport (p + 8) { s.fport (p + 8) with lstat := lstatDown (s.fport (p + 8)).lstat }) s
  | _ => s

/-- Gate a domain: what it holds is lost; a Hoof whose HCTL is gated first enters self-refresh (R390, R432). -/
def gate (s : State) (d : Domain) : State :=
  let s := linksDown (setDomain s d false) d
  match d with
  | .hctl h => s.setHoof h.val { s.hoof h.val with filter := [], href := setFlag (s.hoof h.val).href 1 true,
                                                   hlstat := setFlag (s.hoof h.val).hlstat 0 false }
  | _ => s

/-- Ungate a domain: a Hoof whose HCTL returns leaves self-refresh (R390). -/
def ungate (s : State) (d : Domain) : State :=
  let s := setDomain s d true
  match d with
  | .hctl h => s.setHoof h.val { s.hoof h.val with href := setFlag (s.hoof h.val).href 1 false,
                                                   hlstat := setFlag (s.hoof h.val).hlstat 0 true }
  | _ => s

/-- Is the domain a retired array half (R412)? -/
def retiredHalf (s : State) : Domain → Bool
  | .arra => flag s.mgmt.fltstat 20
  | .arrb => flag s.mgmt.fltstat 21
  | _ => false

/-- Apply the ON and OFF policies to one domain (R430, R431). A retired array half stays gated (R412). A domain whose OFF condition does not hold stays powered; AUTO acts on demand
and by its idle time, and as ON when IDLE is zero (Table 16-8). -/
def applyPolicy (s : State) (d : Domain) : State :=
  let p := policy s d
  let on := p = 1 ∨ (p = 0 ∧ fld s.mgmt.pwrctl 39 32 = 0) ∨ (p = 2 ∧ ¬ offHolds s d)
  if on ∧ ¬ powered s d ∧ ¬ retiredHalf s d then ungate s d
  else if p = 2 ∧ offHolds s d ∧ powered s d then gate s d
  else s

/-- Apply the policies of every domain, once the device is up; a stopped device switches none. -/
def applyPolicies (s : State) : State :=
  if s.phase = .up ∧ ¬ s.failstop then (domains s).foldl applyPolicy s else s

end Sys2Proof.Machine
end

