-- ==== Sys2Proof/Machine/Staging.lean ====
section
/-!
DEFINITION. Staging halves (R285-R289) and accumulate messages (R282-R284, R286, R287): where a row lies, adding a row, writing a stamp,
clearing a half, the owner's checks of a message and the duplicate filter.
-/

namespace Sys2Proof.Machine

/-- One half of one Antler's share of a staging region (R285, R398): the region, its space, the Antler as antler * n + position, the half. -/
structure Share where
  r    : Region
  p    : Space
  ant  : Nat
  half : Nat
deriving DecidableEq, Repr

/-- Local address of byte x of the half. -/
def Share.addr (h : Share) (x : Nat) : Nat := shareAddr h.p h.r.base h.ant (h.half * h.r.halfBytes + x)

/-- Number of n bytes at byte x of the half. -/
def Share.rd (s : State) (h : Share) (x n : Nat) : Nat := leNat ((List.range n).map (fun i => localByte s (h.addr (x + i))))

/-- Write bytes at byte x of the half for the operation in slot t. -/
def Share.wr (s : State) (t : Nat) (h : Share) (x : Nat) (bs : List Byte) : State :=
  bs.zipIdx.foldl (fun s e => wrLocal s t (h.addr (x + e.2)) [e.1]) s

/-- COUNT of the header (Table 10-9). -/
def Share.count (s : State) (h : Share) : Nat := Share.rd s h 0 4
/-- HC of the header. -/
def Share.hc (s : State) (h : Share) : Int := sext 8 (Share.rd s h 4 1)
/-- HMAX of the header. -/
def Share.hmax (s : State) (h : Share) : Int := sext 8 (Share.rd s h 5 1)
/-- Es of R287. -/
def Share.es (s : State) (h : Share) : Int := Share.hc s h + 7
/-- Byte of the half at which slot k begins. -/
def Share.slotAt (h : Share) (k : Nat) : Nat := 64 + 16 * h.r.slots + h.r.stgSB * k
/-- Byte of the half at which the block bytes or words of slot k begin. -/
def Share.bbAt (h : Share) (k : Nat) : Nat := h.slotAt k + h.r.sroww * h.r.stgElem
/-- Byte of the half at which the tag of slot k begins. -/
def Share.tagAt (h : Share) (k : Nat) : Nat := h.bbAt k + h.r.stgBlocks * (if h.r.fmt = fA32 then 2 else 1)
/-- Row in the tag of slot k. -/
def Share.tag (s : State) (h : Share) (k : Nat) : Nat := Share.rd s h (h.tagAt k) 6

/-- Hash position of a row in the index (R286). -/
def Share.hash (h : Share) (row : Nat) : Nat := ((row % 2 ^ 32) * 0x9E3779B9 % 2 ^ 32) % (2 * h.r.slots)

/-- Probe the index upward with wrap: the entry of the row, or the first empty one; with the slot number of a found row. -/
def Share.probe (s : State) (h : Share) (row : Nat) : Nat → Nat → Option (Nat × Option Nat)
  | 0, _ => none
  | n + 1, i =>
    let e := Share.rd s h (64 + 8 * i) 8
    if e % 2 ^ 48 = 0 then some (i, none)
    else if e % 2 ^ 48 = row + 1 then some (i, some (e / 2 ^ 48))
    else Share.probe s h row n ((i + 1) % (2 * h.r.slots))

/-- Slot of a row, if the half holds it. -/
def Share.find (s : State) (h : Share) (row : Nat) : Option Nat :=
  (Share.probe s h row (2 * h.r.slots) (h.hash row)).bind Prod.snd

/-- A share of a half of a staging region on one Antler. -/
def shareOf (s : State) (r : Region) (ant half : Nat) : Option Share :=
  (areaSpace s r.base r.length).map (fun p => { r := r, p := p, ant := ant, half := half })

/-- Every share of one half of a staging region. -/
def sharesOf (s : State) (r : Region) (half : Nat) : List Share :=
  match areaSpace s r.base r.length with
  | some p => (List.range (8 * p.n)).map (fun a => { r := r, p := p, ant := a, half := half })
  | none => []

/-- Hoof of a share. -/
def Share.hoof (h : Share) : Nat := (hoofList h.p.hset).getD (h.ant % h.p.n) 0

/-- The Hoof that stands in for a lost one: the next present Hoof of the device in ascending order, with wrap (R418, step 1). -/
def standInHoof (s : State) (h : Nat) : Nat :=
  (((List.range s.part.hoofs).map (fun i => (h + i) % s.part.hoofs)).find? (fun g => !(lostStack s g))).getD h

/-- First position at or after j, with wrap, whose stack is not lost: rows of a lost share are staged in that position's share (R418, step 2). -/
def standIn (s : State) (p : Space) (j : Nat) : Nat :=
  (((List.range p.n).map (fun i => (j + i) % p.n)).find? (fun i => !(lostStack s ((hoofList p.hset).getD i 0)))).getD j

/-- The Antler (antler * n + position) that serves local row `row` of parameter region r with rows of `roww` elements: the one that holds the
row's first element (R285), or its stand-in where that stack is lost. -/
def rowAnt (s : State) (r : Region) (row roww : Nat) : Option Nat :=
  match spaceAt s r.base with
  | some p =>
    let l := place p (r.base + row * roww * codeBits r.fmt / 8)
    some (l.antler * p.n + standIn s p l.pos)
  | none => none

/-! ### Adding a row (R286, R287) -/

/-- One element's add: the stored mantissa, the incoming code, the exponents; the exact sum, or none for void. -/
def stgSum (old : Option Int) (v : Num) (es : Int) : Option Int :=
  match old, v.at_ es with
  | some a, some b => some (a + b)
  | _, _ => none

/-- Largest staging mantissa (R287). -/
def stgMax (r : Region) : Int := if r.fmt = fA32 then max31 else 32767

/-- Held sum: the mantissa at its range and whether it saturated. -/
def stgHold (r : Region) (m : Int) : Int × Bool :=
  if stgMax r < m then (stgMax r, true) else if m < -stgMax r then (-stgMax r, true) else (m, false)

/-- Code of a staging mantissa. -/
def stgCode (r : Region) (m : Option Int) : Nat :=
  match m with
  | none => 2 ^ (8 * r.stgElem - 1)
  | some v => uns (8 * r.stgElem) v

/-- Mantissa of a staging code. -/
def stgVal (r : Region) (c : Nat) : Option Int :=
  if c = 2 ^ (8 * r.stgElem - 1) then none else some (sext (8 * r.stgElem) c)

/-- Block byte or word of a staging block: F = +7 and L = 0, or X = Es (R287). -/
def stgBB (r : Region) (es : Int) (ovf vp : Bool) : List Byte :=
  if r.fmt = fA32 then leBytes 2 (blockWord es ovf vp) else [blockByte 7 0 ovf vp]

/-- Mantissas of block b of slot k. -/
def stgBlock (s : State) (h : Share) (k b : Nat) : List (Option Int) :=
  (List.range h.r.B).map (fun i => stgVal h.r (Share.rd s h (h.slotAt k + (b * h.r.B + i) * h.r.stgElem) h.r.stgElem))

/-- Write a slot with zero codes (R286, step 3) and its tag. -/
def stgZero (s : State) (t : Nat) (h : Share) (k row : Nat) : State :=
  let s1 := Share.wr s t h (h.slotAt k) (List.replicate (h.r.sroww * h.r.stgElem) 0)
  let s2 := Share.wr s1 t h (h.bbAt k) ((List.range h.r.stgBlocks).flatMap (fun _ => stgBB h.r (Share.es s h) false false))
  Share.wr s2 t h (h.tagAt k) (leBytes 8 row)

/-- Slot of the row in the half, placed there on its first add; none when the share is full (R286). -/
def stgSlot (s : State) (t : Nat) (h : Share) (row : Nat) : State × Option Nat :=
  match Share.probe s h row (2 * h.r.slots) (h.hash row) with
  | some (_, some k) => (s, some k)
  | some (i, none) =>
    let k := Share.count s h
    if h.r.slots ≤ k then (s, none)
    else
      let s1 := Share.wr s t h 0 (leBytes 4 (k + 1))
      let s2 := Share.wr s1 t h (64 + 8 * i) (leBytes 8 (row + 1 + k * 2 ^ 48))
      (stgZero s2 t h k row, some k)
  | none => (s, none)

/-- An overflow of the staging region in a step (R117). -/
def stgOverflow (s : State) (r : Region) (step n : Nat) : State :=
  markStep (countVelvet s r.velv (-128) 0 n 0 false) (some step) r.velv true

/-- What the adds of a message come to: rows added, elements written, the largest code written, blocks written with OVF, an overflow, a void
(R169, R281). -/
structure AccSum where
  rows : Nat
  count : Nat
  mag  : Int
  ovfs : Nat
  ovf  : Bool
  vp   : Bool
deriving DecidableEq, Repr

/-- Nothing added. -/
def AccSum.zero : AccSum := { rows := 0, count := 0, mag := -128, ovfs := 0, ovf := false, vp := false }

/-- Two sums in one. -/
def AccSum.plus (a b : AccSum) : AccSum :=
  { rows := a.rows + b.rows, count := a.count + b.count, mag := logMax a.mag b.mag, ovfs := a.ovfs + b.ovfs, ovf := a.ovf || b.ovf, vp := a.vp || b.vp }

/-- Add block b of a row: its incoming values into slot k (R287), and what it comes to. -/
def addBlock (s : State) (t : Nat) (h : Share) (k b step : Nat) (vals : List Num) : State × AccSum :=
  let es := Share.es s h
  let sums := (List.zip (stgBlock s h k b) vals).map (fun e => stgSum e.1 e.2 es)
  let held := sums.map (fun o => o.map (stgHold h.r))
  let sat := held.any (fun o => match o with | some (_, x) => x | none => false)
  let mag := logCode (maxMag (sums.map (ofReg es)))
  let s1 := Share.wr s t h (h.slotAt k + b * h.r.B * h.r.stgElem)
    (held.flatMap (fun o => leBytes h.r.stgElem (stgCode h.r (o.map Prod.fst))))
  let bb := stgBB h.r es sat (sums.any Option.isNone)
  let s2 := Share.wr s1 t h (h.bbAt k + b * bb.length) bb
  let s3 := Share.wr s2 t h 5 (leBytes 1 (uns 8 (logMax (Share.hmax s h) mag)))
  (if sat then stgOverflow s3 h.r step 1 else s3,
   { rows := 0, count := held.length, mag := logCode (maxMag (held.map (fun o => ofReg es (o.map Prod.fst)))), ovfs := if sat then 1 else 0, ovf := sat,
     vp := sums.any Option.isNone })

/-- Row data of an accumulate: codes and block bytes relative to CW. -/
structure RowData where
  codes : List Nat
  bbs   : List Byte
  cw    : Int
deriving DecidableEq, Repr

/-- Values of block b of the row data. -/
def RowData.block (d : RowData) (B b : Nat) : List Num :=
  let bb := d.bbs.getD b 0
  ((d.codes.drop (b * B)).take B).map (fun c => decodeCode fK16 c (d.cw + bbL bb + bbF bb))

/-- A row that finds no slot on Hoof h (R286): counted, logged, an overflow of the region `si` in the step. -/
def noSlot (s : State) (h si : Nat) (r : Region) (step row : Nat) : State :=
  let k := s.hoof h
  stgOverflow (addLogAt (s.setHoof h { k with grcnt := bump k.grcnt 63 32 1 }) (hoofDie h) 5 0x0106 si 0 0 row) r step 0

/-- Add a row into a half (R286, R287): the new state, and what it comes to; a row without a slot adds nothing. `si` is the staging region's
index. -/
def addRow (s : State) (t : Nat) (h : Share) (si row step : Nat) (d : RowData) : State × AccSum :=
  match stgSlot s t h row with
  | (s1, none) =>
    (noSlot s1 h.hoof si h.r step row, { AccSum.zero with ovf := true })
  | (s1, some k) =>
    (List.range h.r.stgBlocks).foldl (fun acc b => let r := addBlock acc.1 t h k b step (d.block h.r.B b); (r.1, acc.2.plus r.2))
      (s1, { AccSum.zero with rows := 1 })

/-! ### Clearing a half (R288, R289) -/

/-- Clear one share of a half: COUNT, the index, HC, STEP, HMAX. -/
def clearShare (s : State) (t : Nat) (h : Share) (hc : Int) (step : Nat) : State :=
  let s1 := Share.wr s t h 0 (leBytes 4 0 ++ leBytes 1 (uns 8 hc) ++ [0x80])
  let s2 := Share.wr s1 t h 8 (leBytes 4 step)
  Share.wr s2 t h 64 (List.replicate (16 * h.r.slots) 0)

/-- Clear half `half` of a staging region with coarse scale `hc` and STEP `step`. -/
def clearHalf (s : State) (t : Nat) (r : Region) (half : Nat) (hc : Int) (step : Nat) : State :=
  (sharesOf s r half).foldl (fun s h => clearShare s t h hc step) s

/-- Largest HMAX over the shares of a half; a share on a lost stack is no longer kept (R418). -/
def halfMax (s : State) (r : Region) (half : Nat) : Int :=
  maxInt (-128) (((sharesOf s r half).filter (fun h => !(lostStack s h.hoof))).map (fun h => Share.hmax s h))

/-- Preparation of half n mod 2 during STCL of step n (R288): the push of HMAX, HC from C*, the clear. `skipped` when R118 skipped the step
with the region in the merged map. -/
def prepareHalf (s : State) (t : Nat) (r : Region) (n : Nat) (skipped : Bool) : State :=
  let s1 := s.onVelvet r.velv (fun v => pushHist { v with curMax := halfMax s r (n % 2) } n)
  let c := targetC r.fmt (s1.velvet r.velv)
  clearHalf s1 t r (n % 2) (if skipped then Min.min 127 (c + 1) else c) ((n + 2) % 2 ^ 32)

/-- The step that CLRS writes for half h: the first at or after the newest open step that the half serves (R289); the last opened step
stands for it when none is open. -/
def clrsStep (s : State) (half : Nat) : Nat :=
  let m := match newestStep s with | some x => x.num | none => s.car.lastOpened
  if m % 2 = half then m else m + 1

/-! ### Stamps (R209, R210) -/

/-- Values of a block of a stamp region, read at C = 0 and L = 0. -/
def stampVals (s : State) (r : Region) (b : Nat) : List Num :=
  let f := bbF (bbyteAt s r b)
  (List.range r.B).map (fun k => decodeCode r.fmt (codeAt s r (b * r.B + k)) f)

/-- Stamp of a row. -/
def stampOf (s : State) (r : Region) (row : Nat) : Nat :=
  match ((stampVals s r (row / r.B)).getD (row % r.B) Num.zero).trunc with
  | some v => v.toNat
  | none => 0

/-- Write a stamp: the row's element, its block re-encoded at the F that R104 chooses; nothing folds into CUR_MAX. The step has
written the stamp region (R111). The stamp block's OVF stays clear also where a block of the row was register-saturated: whether R200 means the
stamps too is not said (DESIGN CHOICE, notes/assumptions/50). -/
def putStamp (s : State) (t : Nat) (r : Region) (row step : Nat) : State :=
  let b := row / r.B
  let vals := (stampVals s r b).set (row % r.B) (.fin (step % 65536 : Nat) 0)
  let F := chooseF r.fmt 0 0 vals
  putBB (putCodes (markStep s (some step) r.velv false) t r b (vals.map (fun v => (encode r.fmt false F v).code))) t r b (blockByte F 0 false false)

/-- Is a region fit to be a stamp region? -/
def stampOk (s : State) (r : Region) : Bool := regionOk s r && decide (r.fmt = fK16U) && decide (r.coarse = 0)

/-! ### Accumulate messages (Table 10-7) -/

/-- The regions that an operation works with, by index: images where it has taken them (R305). -/
abbrev Regs := Nat → Region

/-- Fields of an accumulate message. -/
structure AccMsg where
  dev   : Nat
  reg   : Nat
  sreg  : Nat
  cw    : Int
  nrow  : Nat
  rowb  : Nat
  roww  : Nat
  var   : Nat
  lrows : List Nat
deriving DecidableEq, Repr

/-- Read an accumulate message. -/
def parseAcc (b : List Byte) : AccMsg :=
  { dev := fieldAt b 0 2 % 4096, reg := fieldAt b 2 2 % 4096, sreg := fieldAt b 4 2 % 4096, cw := sbyteAt b 6, nrow := fieldAt b 7 1 % 16,
    rowb := fieldAt b 8 4 % 2 ^ 24, roww := fieldAt b 12 2, var := fieldAt b 14 1 % 64,
    lrows := (List.range (fieldAt b 7 1 % 16)).map (fun i => fieldAt b (16 + 6 * i) 6) }

/-- The message with VAR placed by the block (R282). -/
def placeVar (b : List Byte) (var : Nat) : List Byte := b.set 14 (BitVec.ofNat 8 (bits (fieldAt b 14 1) 7 6 * 64 + var))

/-- Stride of row data: codes and block bytes, rounded up to 8. -/
def rowStride (roww B : Nat) : Nat := cdiv (2 * roww + roww / B) 8 * 8

/-- Bytes of row data that a message carries. -/
def AccMsg.dataBytes (m : AccMsg) (B : Nat) : Nat := if m.var = 0 then m.nrow * rowStride m.roww B else 0

/-- Format and block size of the originator's region: the owner must find them with a message (R282, R283), and Table 10-7 gives them no place.
They travel in 64 bytes of their own behind the row data (DESIGN CHOICE, notes/assumptions/37). -/
abbrev Form := Nat × Nat

/-- The form of a region. -/
def Region.form (r : Region) : Form := (r.fmt, r.bsz)

/-- The unit that carries a form: FMT [3:0], BSZ [5:4] and 1 in [7] of its first byte, the others zero. -/
def formUnit (f : Form) : List Byte := BitVec.ofNat 8 (0x80 + f.1 % 16 + 16 * (f.2 % 4)) :: List.replicate 63 0

/-- Payload of a message: itself, its row data, its form. -/
def accPayload (raw data : List Byte) (f : Form) : List Byte := pad64 (raw.take 64) ++ pad64 data ++ formUnit f

/-- The form that a payload carries: its last unit is one, and the units before it are a message and row data of that form. -/
def payloadForm (pl : List Byte) : Option Form :=
  let n := pl.length - 64
  let b := fieldAt pl n 1
  let f : Form := (b % 16, b / 16 % 4)
  let m := parseAcc (pl.take 64)
  if 128 ≤ pl.length ∧ bitAt b 7 ∧ ¬ bitAt b 6 ∧ pl.drop (n + 1) = List.replicate 63 0 ∧ n = 64 + cdiv (m.dataBytes (16 * 2 ^ f.2)) 64 * 64 then some f else none

/-- Row data of a payload. -/
def payloadData (pl : List Byte) : List Byte := (pl.drop 64).take (pl.length - 64 - (if (payloadForm pl).isSome then 64 else 0))

/-- Row i of the row data. -/
def rowAt (data : List Byte) (roww B i : Nat) (cw : Int) : RowData :=
  let o := i * rowStride roww B
  { codes := (List.range roww).map (fun k => fieldAt data (o + 2 * k) 2), bbs := (data.drop (o + 2 * roww)).take (roww / B), cw := cw }

/-- Reserved encodings of a message at the owner (R282, R283, R285, R209). -/
def AccMsg.illegal (s : State) (rg : Regs) (m : AccMsg) (form : Option Form) (dlen : Nat) : Bool :=
  let r := rg m.reg
  let q := rg m.sreg
  !(regionOk s r) || !(m.dev = s.dev || (r.mv && mirrorOf s s.dev = some m.dev))
  || decide (1 < m.var) || decide (m.nrow = 0) || decide (8 < m.nrow) || !r.dram || !(narrow r.fmt) || r.stg
  || decide (m.roww = 0) || decide (m.roww % r.B ≠ 0) || decide (1024 < m.roww)
  || form.any (fun f => decide (f ≠ r.form))
  || (if m.var = 0 then !(regionOk s q && q.stg && companion s r q && decide (q.sroww = m.roww)) || decide (dlen < m.dataBytes r.B)
      else !(stampOk s q))

/-- First local row that lies beyond REG or, under VAR 1, beyond the stamp region (R283, step 3). -/
def AccMsg.beyond (rg : Regs) (m : AccMsg) : Option Nat :=
  m.lrows.find? (fun l => decide ((rg m.reg).length < l * m.roww + m.roww) || (decide (m.var = 1) && decide ((rg m.sreg).length ≤ l)))

/-- The duplicate-filter entry of a Hoof for a key, while it is live (R284). -/
def filterHit (k : Hoof) (src ticket : Nat) : Option FiltEnt :=
  k.filter.find? (fun e => e.src = src && e.ticket = ticket && decide (k.ltime < e.at_ + 57600))

/-- Apply row i of a message on the Antler that holds it. -/
def applyRow (s : State) (rg : Regs) (t : Nat) (m : AccMsg) (data : List Byte) (step i : Nat) : State × AccSum :=
  let r := rg m.reg
  let row := m.lrows.getD i 0
  if m.var = 1 then
    (putStamp s t (rg m.sreg) row step, { AccSum.zero with rows := 1, count := 1, mag := logCode (maxMag [.fin (step % 65536 : Nat) 0]) })
  else match (rowAnt s r row m.roww).bind (fun a => shareOf s (rg m.sreg) a (step % 2)) with
    | some h => addRow s t h m.sreg row step (rowAt data m.roww r.B i m.cw)
    | none => (s, AccSum.zero)

/-- Hoof that applies row i of a message. -/
def rowHoof (s : State) (rg : Regs) (m : AccMsg) (i : Nat) : Nat :=
  let r := rg m.reg
  match spaceAt s r.base, rowAnt s r (m.lrows.getD i 0) m.roww with
  | some p, some a => (hoofList p.hset).getD (a % p.n) 0
  | _, _ => 0

/-- Hoofs that a message reaches, each once. -/
def msgHoofs (s : State) (rg : Regs) (m : AccMsg) : List Nat := (List.range m.nrow).foldl (fun a i => addNew a (rowHoof s rg m i)) []

/-- Apply the rows of a message that `on` picks. -/
def applyRows (s : State) (rg : Regs) (t : Nat) (m : AccMsg) (data : List Byte) (step : Nat) (on : Nat → Bool) : State × AccSum :=
  ((List.range m.nrow).filter on).foldl (fun acc i => let r := applyRow acc.1 rg t m data step i; (r.1, acc.2.plus r.2)) (s, AccSum.zero)

/-- Rows of a message whose first copy added them: rows and elements. -/
def AccMsg.added (m : AccMsg) (n : Nat) : AccSum := { AccSum.zero with rows := n, count := n * (if m.var = 1 then 1 else m.roww) }

/-- Apply the rows of one Hoof under its duplicate filter (Table 10-8, steps 4 to 6). -/
def applyHoof (s : State) (rg : Regs) (t : Nat) (m : AccMsg) (data : List Byte) (step src ticket h : Nat) : State × Nat × AccSum :=
  let k := s.hoof h
  let on := fun i => decide (rowHoof s rg m i = h)
  match filterHit k src ticket with
  | some e => (s.setHoof h { k with grcnt := bump k.grcnt 31 0 1 }, e.status, m.added ((List.range m.nrow).filter on).length)
  | none =>
    let r := applyRows s rg t m data step on
    let k1 := r.1.hoof h
    (r.1.setHoof h { k1 with filter := k1.filter ++ [{ src := src, ticket := ticket, status := 0, at_ := k1.ltime }] }, 0, r.2)

/-- Apply a message under the duplicate filters (R283): the first status of its Hoofs in the order of R168, and what was added. -/
def applyFiltered (s : State) (rg : Regs) (t : Nat) (m : AccMsg) (data : List Byte) (step src ticket : Nat) : State × Nat × AccSum :=
  (msgHoofs s rg m).foldl (fun acc h =>
    let r := applyHoof acc.1 rg t m data step src ticket h
    (r.1, statusMin acc.2.1 r.2.1, acc.2.2.plus r.2.2)) (s, 0, AccSum.zero)

/-- Has each Hoof of the message room in its filter, or its key there already (R284)? -/
def filterRoom (s : State) (rg : Regs) (m : AccMsg) (src ticket : Nat) : Bool :=
  (msgHoofs s rg m).all (fun h => (filterHit (s.hoof h) src ticket).isSome
    || decide (((s.hoof h).filter.filter (fun e => (s.hoof h).ltime < e.at_ + 57600)).length < 65536))

/-- Local addresses of n bytes at byte x of a half, one range a byte: a share lies in pieces. -/
def Share.bytesAt (h : Share) (x n : Nat) : List Range := (List.range n).map (fun i => rngL (h.addr (x + i)) 1 true)

/-- Bytes that the add of a row writes (R286, R287), `fresh` rows of its message before it being new in its share. -/
def rowWrites (s : State) (h : Share) (row fresh : Nat) : List Range :=
  let slot := fun k n => Share.bytesAt h (h.slotAt k) n
  match Share.probe s h row (2 * h.r.slots) (h.hash row) with
  | some (_, some k) => Share.bytesAt h 5 1 ++ slot k (h.tagAt k - h.slotAt k)
  | some (i, none) =>
    let k := Share.count s h + fresh
    if h.r.slots ≤ k then [] else Share.bytesAt h 0 6 ++ Share.bytesAt h (64 + 8 * i) 8 ++ slot k (h.tagAt k + 8 - h.slotAt k)
  | none => []

/-- Bytes that a stamp writes: its block's codes and block byte. -/
def stampWrites (r : Region) (row : Nat) : List Range := [rngL (r.base + row / r.B * r.B * 2) (r.B * 2) true, rngL (r.bbase + row / r.B) 1 true]

/-- Bytes that a message writes on this device when it is applied (R176). -/
def AccMsg.bytes (s : State) (rg : Regs) (m : AccMsg) (step : Nat) : List Range :=
  if m.var = 1 then m.lrows.flatMap (stampWrites (rg m.sreg))
  else (m.lrows.zipIdx).flatMap (fun e =>
    match (rowAnt s (rg m.reg) e.1 m.roww).bind (fun a => shareOf s (rg m.sreg) a (step % 2)) with
    | some h => rowWrites s h e.1 e.2
    | none => [])

/-- Bytes that a clear of a half writes in a share (R288, R289). -/
def clearWrites (h : Share) : List Range := Share.bytesAt h 0 6 ++ Share.bytesAt h 8 4 ++ Share.bytesAt h 64 (16 * h.r.slots)

/-- Steps of which the owner accepts accumulates: the oldest open step and the next; 0xFFFF_FFFF names no step (R39). -/
def stepFresh (s : State) (tag : Nat) : Bool :=
  decide (tag ≠ 0xFFFFFFFF) && (match oldestStep s with
    | some x => decide (tag = x.num) || decide (tag = (x.num + 1) % 2 ^ 32)
    | none => false)

/-- A refused accumulate counts in the management log (R39). -/
def logStale (s : State) (ticket stream tag : Nat) : State := addLogAt s .central 5 0x0105 0xFFFF ticket stream tag

/-- What refuses a message as it lands, whatever step is open (Table 10-8, step 1; R39): a reserved encoding, then its key, then a tag that
names no step. -/
def AccMsg.refusedAtOnce (s : State) (rg : Regs) (m : AccMsg) (form : Option Form) (denied : Bool) (dlen tag : Nat) : Option Nat :=
  if m.illegal s rg form dlen then some 0x18 else if denied then some 0x17 else if tag = 0xFFFFFFFF then some 0x13 else none

/-- The owner's checks of a message (Table 10-8, steps 1 to 3, in that order): status and DETAIL, none when it is applied. -/
def AccMsg.refusal (s : State) (rg : Regs) (m : AccMsg) (form : Option Form) (denied : Bool) (dlen tag : Nat) : Option (Nat × Nat) :=
  match m.refusedAtOnce s rg form denied dlen tag with
  | some st => some (st, 0)
  | none => if stepFresh s tag then (m.beyond rg).map (fun l => (0x16, l)) else some (0x13, 0)

end Sys2Proof.Machine
end

