-- ==== Sys2Proof/Machine/FaultOps.lean ====
section
/-!
DEFINITION. Lasting faults and their masking (R409-R420): each unit's masking, or fail-stop where its row of Table 15-2 ends.
-/

namespace Sys2Proof.Machine

/-- Set bit i of FLTSTAT. -/
def setFlt (i : Nat) (s : State) : State := { s with mgmt := { s.mgmt with fltstat := setFlag s.mgmt.fltstat i true } }

/-- Change Hoof h's HFLT. -/
def setHflt (h hi lo v : Nat) (s : State) : State := s.setHoof h { s.hoof h with hflt := setFld (s.hoof h).hflt hi lo v }

/-- A field of SHDCNT1. -/
def bumpShd1 (hi lo : Nat) (s : State) : State := { s with units := { s.units with shdcnt1 := bump s.units.shdcnt1 hi lo 1 } }

/-- Tine fault (code 0x01): sibling service, or fail-stop at the second of an Antler (R410). -/
def tineFault (s : State) (h tine : Nat) : State :=
  let f := fld (s.hoof h).hflt 31 0
  if bits f (tine / 4 * 4 + 3) (tine / 4 * 4) ≠ 0 then failStop s (hoofDie h) 0x01 tine 0
  else maskFault s (hoofDie h) 0x01 tine 0 (setHflt h tine tine 1)

/-- Array half fault (code 0x08): the other half runs and the retired half is gated (R412). -/
def arrayFault (s : State) (half : Nat) : State :=
  if fld s.mgmt.fltstat 21 20 ≠ 0 then failStop s .central 0x08 half 0
  else
    let s1 := maskFault s .central 0x08 half 0 (setFlt (20 + half))
    setDomain s1 (if half = 0 then .arra else .arrb) false

/-- Vector-engine slice fault (code 0x09). -/
def sliceFault (s : State) (k : Nat) : State :=
  if fld s.mgmt.fltstat 15 12 ≠ 0 then failStop s .central 0x09 k 0 else maskFault s .central 0x09 k 0 (setFlt (12 + k))

/-- Wide-lane group fault (code 0x0A). -/
def groupFault (s : State) (k : Nat) : State :=
  if fld s.mgmt.fltstat 19 16 ≠ 0 then failStop s .central 0x0A k 0 else maskFault s .central 0x0A k 0 (setFlt (16 + k))

/-- Control core fault (code 0x0B): pair service, or fail-stop with both of a pair retired (R411). -/
def coreFault (s : State) (c : Nat) : State :=
  if bitAt (fld s.mgmt.fltstat 39 24) (c ^^^ 1) then failStop s .central 0x0B c 0 else maskFault s .central 0x0B c 0 (setFlt (24 + c))

/-- Number of the store bank of an offset, its quadrant above (R293). -/
def bankNo (o : Nat) : Nat := (storeBank o).1 * 64 + (storeBank o).2.1

/-- Store bank fault (code 0x0C): redirected into the transit pool, which shrinks by 4 MiB (R413); `pool` says that the unit which cannot be read
lay in the pool. -/
def bankFault (s : State) (bank : Nat) (pool : Bool) : State :=
  let n := fld s.mgmt.fltstat 59 56
  let size := fld s.units.slay1 25 16
  if 8 ≤ n ∨ ¬ pool ∨ size < 68 then failStop s .central 0x0C bank 0
  else maskFault s .central 0x0C bank 0 (fun s =>
    { s with mgmt := { s.mgmt with fltstat := setFld s.mgmt.fltstat 59 56 (n + 1), banks := addNew s.mgmt.banks bank },
             units := { s.units with slay1 := setFld s.units.slay1 25 16 (size - 4) } })

/-- Fabric port fault (code 0x06): the port is retired, its link down (R419). -/
def portFault (s : State) (p : Nat) : State :=
  if flag s.mgmt.fltstat (40 + p) then s
  else maskFault s .central 0x06 p 0 (fun s => setFlt (40 + p) (s.setFport p { s.fport p with lstat := lstatDown (s.fport p).lstat }))

/-- Host port lost, or left with fewer than four modules (code 0x07). -/
def hostPortLost (s : State) (p : Nat) : State := failStop s .central 0x07 p 0

/-! ### Spaces, patches, channels, stacks -/

/-- Patches of a channel of Hoof h that a space uses: indices of its 1 MiB pieces. -/
def spacePatches (p : Space) : List Nat :=
  if p.asize = 0 then []
  else
    let lo := p.pbase * 2 ^ 18 / mib
    let hi := (p.pbase * 2 ^ 18 + p.asize * 2 ^ 18 - 1) / mib
    (List.range (hi + 1 - lo)).map (fun i => lo + i)

/-- Valid spaces that name Hoof h. -/
def spacesOn (s : State) (h : Nat) : List Space := (validSpaces s).filter (fun p => bitAt p.hset h)

/-- Does every space that uses the patch have parity? -/
def patchPar (s : State) (h idx : Nat) : Bool := (spacesOn s h).all (fun p => !(decide (idx ∈ spacePatches p)) || p.par)

/-- Channel of an Antler retired by CHAN of HFLT. -/
def badChan (s : State) (h a : Nat) : Option Nat :=
  let f := fld (s.hoof h).hflt (35 + 4 * a) (32 + 4 * a)
  if bitAt f 3 then some (4 * a + f % 4) else none

/-- Has the reserve of the channel's Antler room for one more patch (R416)? A patch that waits for its move has its place. -/
def reserveRoom (s : State) (h ch : Nat) : Bool :=
  let a := ch / 4
  let size := fld (s.hoof h).hresv 31 16
  let good := if (badChan s h a).isSome then 3 else 4
  decide (((s.hoof h).patches.filter (fun q => decide (q.ch / 4 = a) && decide (q.state ≠ 2))).length < size / 4 * good)

/-- The patch that holds a channel-local byte, if it has been retired. -/
def patchOf (s : State) (h ch idx : Nat) : Option Patch := (s.hoof h).patches.find? (fun q => q.ch = ch && q.idx = idx)

/-- HPATCH (Table 15-10) is derived; a patch's state is set here: 0 moving, 1 moved, 2 rebuild service, 3 waiting for its move. -/
def setPatch (s : State) (h ch idx st : Nat) : State :=
  let k := s.hoof h
  let q : Patch := { ch := ch, idx := idx, state := st }
  s.setHoof h { k with patches := if (patchOf s h ch idx).isSome then k.patches.map (fun x => if x.ch = ch ∧ x.idx = idx then q else x) else k.patches ++ [q] }

/-- Does a channel-local byte lie in a stripe with a chunk on a lost stack (Table 15-2, code 0x04)? A stripe has a line on every Hoof of its
space (R399). -/
def stripeLost (s : State) (h off : Nat) : Bool :=
  (spacesOn s h).any (fun p => p.par && decide (p.pbase * 2 ^ 18 ≤ off) && decide (off < (p.pbase + p.asize) * 2 ^ 18)
    && (hoofList p.hset).any (fun g => decide (g ≠ h) && lostStack s g))

/-- What becomes of a patch that is retired (R414, R429): the state that it takes, or none for fail-stop. `unreadable` says that data of it cannot be
read from its place. -/
def patchFate (s : State) (h ch idx : Nat) (unreadable : Bool) : Option Nat :=
  if unreadable ∧ ¬ patchPar s h idx ∧ (patchOf s h ch idx).all (fun q => decide (q.state = 0 ∨ q.state = 3)) then none
  else match patchOf s h ch idx with
    | some q => some q.state
    | none => if reserveRoom s h ch then some 0 else if patchPar s h idx then some 2 else none

/-- Patches of a channel in use in ascending channel-local order, those of non-parity spaces first (R415). -/
def usedPatches (s : State) (h : Nat) : List Nat :=
  let used := (spacesOn s h).flatMap spacePatches
  let all := (List.range (used.foldl (fun a i => Nat.max a (i + 1)) 0)).filter (fun i => decide (i ∈ used))
  all.filter (fun i => !(patchPar s h i)) ++ all.filter (patchPar s h)

/-- The next patch of a channel begins to move when none of it is moving (R415). -/
def startMove (s : State) (h ch : Nat) : State :=
  let qs := (s.hoof h).patches.filter (fun q => q.ch = ch)
  if qs.any (fun q => q.state = 0) then s
  else match qs.find? (fun q => q.state = 3) with
    | some q => setPatch s h ch q.idx 0
    | none => s

/-- Every patch in use of a channel takes its place: in the reserve, or under rebuild service; none when one of them has neither (R414, R415). -/
def patchAll (s : State) (h ch : Nat) : Option State :=
  (usedPatches s h).foldl (fun acc i => acc.bind (fun s =>
    if (patchOf s h ch i).isSome then some s
    else (patchFate s h ch i false).map (fun st => setPatch s h ch i (if st = 0 then 3 else st)))) (some s)

/-- Channel fault (code 0x03): every in-use patch is patched, one at a time, or fail-stop (R415). What it masks is recorded once it is known that it
can (R420). -/
def channelFault (s : State) (h ch : Nat) : State :=
  let a := ch / 4
  match badChan s h a with
  | some c => if c = ch then s else failStop s (hoofDie h) 0x03 ch 0
  | none =>
    if (usedPatches s h).any (fun i => stripeLost s h (i * mib)) then failStop s (hoofDie h) 0x04 h 0
    else
      let mark := setHflt h (35 + 4 * a) (32 + 4 * a) (8 + ch % 4)
      match patchAll (mark s) h ch with
      | some s1 => startMove (maskFault s1 (hoofDie h) 0x03 ch 0 id) h ch
      | none => failStop s (hoofDie h) 0x03 ch 0

/-- DRAM location fault (code 0x02): its patch retires; the eighth in a channel is a channel fault (Table 15-2). -/
def locationFault (s : State) (h ch off : Nat) : State :=
  if stripeLost s h off then failStop s (hoofDie h) 0x04 h off
  else match patchFate s h ch (off / mib) true with
    | none => failStop s (hoofDie h) 0x02 ch off
    | some st =>
      let k := s.hoof h
      let n := mget (fun _ => 0) k.locs ch + 1
      let s1 := setPatch (s.setHoof h { k with locs := mput (fun _ => 0) k.locs ch n }) h ch (off / mib) st
      let s2 := maskFault s1 (hoofDie h) 0x02 ch off id
      if n = 8 then channelFault s2 h ch else s2

/-- Valid staging regions that name Hoof h, with their indices. -/
def stagingOn (s : State) (h : Nat) : List (Nat × Region) :=
  ((List.range 4096).map (fun i => (i, s.region i))).filter (fun e => e.2.valid && e.2.stg && bitAt e.2.hset h)

/-- Valid regions that lie in a space. -/
def regionsIn (s : State) (p : Space) : List Region :=
  ((List.range 4096).map s.region).filter (fun r => r.valid && r.dram && p.has r.base)

/-- May the block mask the loss of Hoof h's stack (R418)? -/
def stackMaskable (s : State) (h : Nat) : Bool := (spacesOn s h).all (fun p => p.par || (regionsIn s p).all (fun r => r.stg))

/-- Rows that the open step had staged on Hoof h are lost, each as a row that found no slot (R418, R286): its log entry, and the region's overflow. -/
def loseStaged (s : State) (h : Nat) : State :=
  match oldestStep s with
  | none => s
  | some x =>
    (stagingOn s h).foldl (fun s e =>
      ((sharesOf s e.2 (x.num % 2)).filter (fun q => q.hoof = h)).foldl (fun s q =>
        (List.range (Share.count s q)).foldl (fun s k => noSlot s h e.1 e.2 x.num (Share.tag s q k)) s) s) s

/-- Stack fault (code 0x04) that a die records: stack service, or fail-stop (R418). -/
def stackFaultBy (s : State) (die : Die) (h : Nat) : State :=
  if lostStack s h then s
  else if fld s.mgmt.fltstat 11 0 ≠ 0 ∨ ¬ stackMaskable s h then failStop s die 0x04 h 0
  else maskFault (loseStaged s h) die 0x04 h 0 (fun s =>
    let s1 := setFlt h s
    { s1 with deltas := s1.deltas.filter (fun e => e.hoof ≠ h), fulls := s1.fulls.filter (fun e => e.hoof ≠ h) })

/-- Stack fault that the central die records. -/
def stackFault (s : State) (h : Nat) : State := stackFaultBy s .central h

/-! ### What degraded service does to a status (R408), and what waits for a move (R414) -/

/-- Has any stack anything to serve from elsewhere? -/
def anyPatched (s : State) : Bool := decide (fld s.mgmt.fltstat 11 0 ≠ 0) || s.hoofs.any (fun e => !e.2.patches.isEmpty)

/-- Is a DRAM byte served by a patch or by rebuild? -/
def servedElsewhere (s : State) (a : Nat) : Bool :=
  match spaceAt s a with
  | some p => let l := place p a; rebuilt s l || (s.hoof l.hoof).patches.any (fun q => q.ch = l.ch && q.idx = l.off / mib && decide (q.state = 1 ∨ q.state = 2))
  | none => false

/-- Does a DRAM byte lie in a patch that is being moved? -/
def movingAt (s : State) (a : Nat) : Bool :=
  match spaceAt s a with
  | some p => let l := place p a; (s.hoof l.hoof).patches.any (fun q => q.ch = l.ch && q.idx = l.off / mib && q.state = 0)
  | none => false

/-- Does a test hold of some 64-byte unit of the DRAM in the ranges of an operation? -/
def Op.inRanges (o : Op) (test : Nat → Bool) : Bool :=
  o.ranges.any (fun r => !r.remote && inDram r.lo && (List.range (cdiv r.len 64)).any (fun i => test (r.lo + 64 * i)))

/-- Did an operation read or write data that a patch or a rebuild serves? -/
def touchesPatched (s : State) (o : Op) : Bool := anyPatched s && o.inRanges (servedElsewhere s)

/-- Does an operation use a patch that is being moved (R414)? It waits. -/
def awaitsMove (s : State) (o : Op) : Bool := s.hoofs.any (fun e => e.2.patches.any (fun q => q.state = 0)) && o.inRanges (movingAt s)

/-- Does an operation use store positions of a retired bank (R413)? -/
def inBank (s : State) (o : Op) : Bool :=
  !s.mgmt.banks.isEmpty && o.ranges.any (fun r => !r.remote && inStore r.lo
    && (List.range (cdiv r.len 256)).any (fun i => decide (bankNo (r.lo - storeBase + 256 * i) ∈ s.mgmt.banks)))

/-- Does an operation use a Hoof whose link has lost a module, or a host port that has (Table 15-2, codes 0x05 and 0x07)? -/
def onFewModules (s : State) (o : Op) : Bool :=
  o.imgs.any (fun e => e.2.dram && (hoofList e.2.hset).any (fun h => let n := fld (s.hoof h).hlstat 3 1; decide (3 ≤ n) && decide (n < 5)))
  || (match o.src with | .host r => let n := (s.hport (r / 512)).mods; decide (4 ≤ n) && decide (n < 8) | _ => false)

/-- Does an operation run on a unit that masks a retired one, beside those that mark it as they work (R408)? -/
def onMasking (s : State) (o : Op) : Bool :=
  ((o.opc = 0x30 || (o.opc = 0x23 && gthProj o.desc)) && decide (fld s.mgmt.fltstat 21 20 ≠ 0))
  || (decide (o.opc ∈ [0x11, 0x12, 0x24, 0x40, 0x41, 0x42, 0x50]) && decide (fld s.mgmt.fltstat 15 12 ≠ 0))
  || inBank s o || onFewModules s o

end Sys2Proof.Machine
end

