-- ==== Sys2Proof/Machine/Memory.lean ====
section
/-!
DEFINITION. The memory's own rows: the check code and the scrub (R391-R393), refresh (R389), patches that finish moving (R414), parity deltas and
full-stripe combinations (R400, R401).
-/

namespace Sys2Proof.Machine

/-! ### The check code (R391): Reed-Solomon over GF(2^16), primitive polynomial x^16 + x^12 + x^3 + x + 1 -/

/-- Multiplication by alpha. -/
def gfTwice (a : Nat) : Nat := if 32768 ≤ a then (2 * a) ^^^ 0x1100B else 2 * a

/-- Division by alpha. -/
def gfHalf (a : Nat) : Nat := if a % 2 = 1 then (a ^^^ 0x1100B) / 2 else a / 2

/-- Multiplication by alpha^k. -/
def gfShift (k a : Nat) : Nat := times gfTwice k a

/-- Product in the field: alpha times what the higher bits of the first factor give, and the second factor once for its lowest bit. -/
def gfMul (a b : Nat) : Nat := (List.range 16).foldr (fun i acc => gfTwice acc ^^^ (if bitAt a i then b else 0)) 0

/-- The generator (x - alpha)(x - alpha^2)(x - alpha^3)(x - alpha^4): its coefficients from x^0 to x^3; that of x^4 is 1. -/
def eccGen : List Nat :=
  [1, 2, 3, 4].foldl (fun g j => List.zipWith (fun a b => a ^^^ b) (0 :: g) (g.map (gfShift j) ++ [0])) [1] |>.take 4

/-- Check symbols c0 to c3 of the other symbols of a codeword, d0 first: the remainder that makes the codeword divisible by the generator. -/
def eccCheck (syms : List Nat) : List Nat :=
  syms.foldr (fun y r =>
    let f := y ^^^ r.getD 3 0
    List.zipWith (fun g low => gfMul f g ^^^ low) eccGen (0 :: r.take 3)) [0, 0, 0, 0]

/-- Data symbols of an access. -/
def dataSyms (s : State) (h ch off : Nat) : List Nat :=
  (List.range 32).map (fun i => (rawByte s h ch (off + 2 * i)).toNat + 256 * (rawByte s h ch (off + 2 * i + 1)).toNat)

/-- Address symbols of an access. -/
def addrSyms (ch off : Nat) : List Nat := [bits off 21 6, ch % 32 * 2048 + bits off 32 22]

/-- The codeword of an access as its last write left it on the data and ECC lanes: every write encodes the whole access (R388), so that the 8 check
bytes are always those of its data and place, and State keeps the data alone. -/
def eccWord (s : State) (h ch off : Nat) : List Nat :=
  let y := dataSyms s h ch off ++ addrSyms ch off
  eccCheck y ++ y

/-- A codeword as read, symbol i of an error pattern wrong by its value. -/
def flipSyms (w : List Nat) (errs : List (Nat × Nat)) : List Nat := errs.foldl (fun w e => w.set e.1 (w.getD e.1 0 ^^^ e.2)) w

/-- Syndrome j of a word: its polynomial at alpha^j. -/
def syndrome (w : List Nat) (j : Nat) : Nat := w.foldr (fun y a => gfShift j a ^^^ y) 0

/-- What the decoder finds (R391, Table 14-4). -/
inductive Ecc where
  | clean
  /-- one data or check symbol corrected: its position and the error value -/
  | fixed (pos e : Nat)
  | detected
deriving DecidableEq, Repr

/-- The decoder: a single wrong symbol among data and check symbols is corrected, every other non-zero syndrome is detected. -/
def eccDecode (w : List Nat) : Ecc :=
  let s1 := syndrome w 1
  let s2 := syndrome w 2
  let s3 := syndrome w 3
  let s4 := syndrome w 4
  if s1 = 0 ∧ s2 = 0 ∧ s3 = 0 ∧ s4 = 0 then .clean
  else if s1 = 0 then .detected
  else match (List.range 36).find? (fun i => gfShift i s1 = s2 && gfShift i s2 = s3 && gfShift i s3 = s4) with
    | some i => .fixed i (times gfHalf i s1)
    | none => .detected

/-- Errors of a read as numbers. -/
def errNums (errs : List (Fin 38 × BitVec 16)) : List (Nat × Nat) := errs.map (fun e => (e.1.val, e.2.toNat))

/-- Is a write to the access queued at its controller: a parity write that the store still holds for its line (Table 14-4)? -/
def writeQueued (s : State) (h ch off : Nat) : Bool :=
  let line := off / 256 * 256
  s.deltas.any (fun e => e.hoof = h && e.ch = ch && e.off = line) || s.fulls.any (fun e => e.hoof = h && e.ch = ch && e.off = line)

/-- Write the data of a corrected codeword back, unless a write to the access is queued (Table 14-4). -/
def writeBack (s : State) (h ch off : Nat) (w : List Nat) : State :=
  if writeQueued s h ch off then s
  else { s with dram := writeBytes s.dram (physKey h ch off) (((w.drop 4).take 32).flatMap (fun y => leBytes 2 y)) }

/-- Change HECC of a Hoof. -/
def bumpEcc (s : State) (h hi lo : Nat) : State := s.setHoof h { s.hoof h with hecc := bump (s.hoof h).hecc hi lo 1 }

/-- One read of an access with an error pattern: what the decoder finds, with its count and the write-back of a correction (R388, R392). -/
def readOnce (s : State) (h ch off : Nat) (errs : List (Nat × Nat)) : State × Ecc :=
  let w := flipSyms (eccWord s h ch off) errs
  match eccDecode w with
  | .fixed p e => (writeBack (bumpEcc s h 31 0) h ch off (flipSyms w [(p, e)]), .fixed p e)
  | x => (s, x)

/-- A read of an access for the operation in slot `t`, if it is one's, with its error pattern and that of the re-read (Table 14-4): a re-read that
serves it makes the operation OK_RETRIED, a masked location fault OK_DEGRADED (R408). -/
def readAccess (s : State) (t : Option Nat) (h ch off : Nat) (errs errs2 : List (Nat × Nat)) : State :=
  let mark := fun (s : State) (f : Op → Op) => match t with | some n => s.onOp n f | none => s
  let r := readOnce s h ch off errs
  match r.2 with
  | .detected =>
    let r2 := readOnce (bumpEcc s h 47 32) h ch off errs2
    match r2.2 with
    | .detected => locationFault (mark (bumpEcc r2.1 h 63 48) (fun o => { o with degraded := true })) h ch off
    | _ => transient (mark r2.1 (fun o => { o with retried := true })) (hoofDie h) 0x04 ch off
  | _ => r.1

/-- Are the stack's channels at work: controllers powered, trained, not in self-refresh, not lost? -/
def stackUp (s : State) (h : Nat) : Bool :=
  let k := s.hoof h
  s.live && decide (h < s.part.hoofs) && k.hctl && flag k.hmem 24 && !(flag k.href 1) && !(lostStack s h)

/-! ### The scrub (R393) -/

/-- Accesses of one channel: a 32nd of the stack's HEIGHT dies of DENS Gb. -/
def channelAccesses (k : Hoof) : Nat := fld k.hmem 4 0 * fld k.hmem 15 8 * 2 ^ 22 / 64

/-- Scrub period in ticks of Hoof local time. -/
def scrubPeriod (k : Hoof) : Nat := fld k.href 15 8 * 3600 * 10 ^ 8

/-- The scrub's passes as an access is about to be read (R393): a pass that has outlasted its period is logged once and carries on; one that has read
every access of each channel is followed by the next as its own period begins. -/
def scrubPass (s : State) (h ch : Nat) : State :=
  let k := s.hoof h
  let gone := (k.ltime - k.scrubAt) / scrubPeriod k
  if gone = 0 then s
  else if 32 * channelAccesses k ≤ k.scrubs.length then
    s.setHoof h { k with scrubs := [], scrubAt := k.scrubAt + gone * scrubPeriod k, scrubLate := false }
  else if k.scrubLate then s
  else (addLogAt s (hoofDie h) 5 0x0109 ch 0 0 k.scrubs.length).setHoof h { k with scrubLate := true }

/-- SCRUB (R393): an access that the running pass has not read yet is read in a gap of the traffic; a warm reset begins no read (Table 14-3). -/
def execScrub (h : HoofId) (ch : BitVec 5) (acc : BitVec 27) (errs errs2 : List (Fin 38 × BitVec 16)) (s : State) :
    Host.Outcome State Fault Refusal :=
  commit s (
    if stackUp s h.val ∧ s.phase = .up ∧ fld (s.hoof h.val).href 15 8 ≠ 0 ∧ acc.toNat < channelAccesses (s.hoof h.val) then
      let s1 := scrubPass s h.val ch.toNat
      let k := s1.hoof h.val
      if (ch.toNat, acc.toNat) ∈ k.scrubs then s1
      else readAccess (s1.setHoof h.val { k with scrubs := k.scrubs ++ [(ch.toNat, acc.toNat)] }) none h.val ch.toNat (acc.toNat * 64) (errNums errs) (errNums errs2)
    else s)

/-! ### Refresh (R389) -/

/-- DRAM_REFRESH: one bank, or with PBR = 0 all banks of the channel; data keep their values. -/
def execDramRefresh (h : HoofId) (ch : BitVec 5) (bank : BitVec 7) (s : State) : Host.Outcome State Fault Refusal :=
  commit s (
    let k := s.hoof h.val
    if h.val < s.part.hoofs ∧ k.haon ∧ k.refclk ∧ flag k.hmem 24 ∧ ¬ flag k.href 1 ∧ ¬ lostStack s h.val then
      let banks := if flag k.href 0 then [bank.toNat] else List.range 128
      let r := banks.foldl (fun l b => addNew l (ch.toNat * 128 + b)) k.refreshed
      let full := (List.range 128).all (fun b => decide (ch.toNat * 128 + b ∈ r))
      s.setHoof h.val { k with refreshed := if full then r.filter (fun x => x / 128 ≠ ch.toNat) else r }
    else s)

/-! ### Patches (R414) -/

/-- Channel-local bytes of a patch that can differ from zero in it or in the other chunks of its stripes: those that some stack of the space lists, and
the lines of held parity writes. -/
def patchBytes (s : State) (p : Space) (ch idx : Nat) : List Nat :=
  let here := fun (h c off : Nat) => decide (h ∈ hoofList p.hset) && decide (c = ch) && decide (off / mib = idx)
  let listed := s.dram.filterMap (fun e => let q := e.1 / 2 ^ 33; let off := e.1 % 2 ^ 33; if here (q / 32) (q % 32) off then some off else none)
  let lines := (s.deltas.filter (fun e => here e.hoof e.ch e.off)).map (fun e => e.off) ++ (s.fulls.filter (fun e => here e.hoof e.ch e.off)).map (fun e => e.off)
  (listed ++ lines.flatMap (fun l => (List.range 256).map (fun i => l + i))).foldl addNew []

/-- Contents of a moved patch in a parity space: rebuilt from the other chunks of each stripe (R414, R402). -/
def rebuildPatch (s : State) (h ch idx : Nat) : State :=
  match (spacesOn s h).find? (fun p => p.par && decide (idx ∈ spacePatches p)) with
  | none => s
  | some p =>
    ((patchBytes s p ch idx).filter (fun off => decide (p.pbase * 2 ^ 18 ≤ off) && decide (off < (p.pbase + p.asize) * 2 ^ 18))).foldl (fun r off =>
      let x := rebuiltByte s p { hoof := h, pos := 0, antler := ch / 4, d := 0, ch := ch, off := off }
        ^^^ heldXor s h ch off ^^^ combinedByte s h ch off ^^^ rawByte s h ch off
      { r with dram := mput (fun _ => 0) r.dram (physKey h ch off) x }) s

/-- PATCH_MOVE_DONE: the patch is served from the reserve, and the next patch of its channel that waits begins to move (R415). -/
def execPatchMoveDone (h : HoofId) (ch : BitVec 5) (patch : BitVec 13) (s : State) : Host.Outcome State Fault Refusal :=
  commit s (match patchOf s h.val ch.toNat patch.toNat with
    | some q => if stackUp s h.val ∧ q.state = 0 then startMove (setPatch (rebuildPatch s h.val ch.toNat patch.toNat) h.val ch.toNat patch.toNat 1) h.val ch.toNat else s
    | none => s)

/-! ### Parity (R400, R401) -/

/-- XOR bytes into a line of a parity chunk. -/
def xorLine (s : State) (h ch off : Nat) (bs : List Byte) : State :=
  bs.zipIdx.foldl (fun s e => { s with dram := mput (fun _ => 0) s.dram (physKey h ch (off + e.2)) (rawByte s h ch (off + e.2) ^^^ e.1) }) s

/-- Write a line of a parity chunk. -/
def putLine (s : State) (h ch off : Nat) (bs : List Byte) : State := { s with dram := writeBytes s.dram (physKey h ch off) bs }

/-- A held delta is XORed into its parity chunk. -/
def writeDelta (s : State) (e : Delta) : State :=
  let s1 := xorLine s e.hoof e.ch e.off e.bytes
  s1.setHoof e.hoof { s1.hoof e.hoof with parcnt := bump (s1.hoof e.hoof).parcnt 31 0 1 }

/-- PARITY_DELTA (R400, R401): the adders of the parity Hoof XOR a held delta into its chunk. -/
def execParityDelta (i : Nat) (s : State) : Host.Outcome State Fault Refusal :=
  commit s (match s.deltas[i]? with
    | some e => if stackUp s e.hoof then writeDelta { s with deltas := s.deltas.eraseIdx i } e else s
    | none => s)

/-- What a combination leaves in its parity chunk: the XOR of the new chunks, written without reading, less what held deltas will still add; where its
operation ended before it had written every chunk, the chunk with what was replaced taken out of it and the new put in. -/
def Full.parity (s : State) (e : Full) : List Byte :=
  (List.range 256).map (fun i =>
    if e.complete then e.bytes.getD i 0 ^^^ heldXor s e.hoof e.ch (e.off + i)
    else rawByte s e.hoof e.ch (e.off + i) ^^^ e.bytes.getD i 0 ^^^ e.olds.getD i 0)

/-- A combination is written as its parity chunk. -/
def writeFull (s : State) (e : Full) : State :=
  let s1 := putLine s e.hoof e.ch e.off (e.parity s)
  s1.setHoof e.hoof { s1.hoof e.hoof with parcnt := bump (s1.hoof e.hoof).parcnt 63 32 1 }

/-- FULL_STRIPE_COMPLETE (R400): the last chunk has arrived and the parity chunk is written. An operation that ended before it had written every
chunk leaves the parity of what it wrote. -/
def execFullStripeComplete (i : Nat) (s : State) : Host.Outcome State Fault Refusal :=
  commit s (match s.fulls[i]? with
    | some e =>
      let past : Bool := match s.op e.slot with | some o => decide (o.phase ≠ .running) | none => true
      if (e.complete ∨ past) ∧ stackUp s e.hoof then writeFull { s with fulls := s.fulls.eraseIdx i } e else s
    | none => s)

end Sys2Proof.Machine
end

