-- ==== Sys2Proof/Machine/Faults.lean ====
section
/-!
DEFINITION. Detection rows: link and host-port timeouts (R406, Table 15-1), the failures that units find in themselves (Tables 15-1 and 15-2),
reference clocks (R57), supplies (R434), temperature (R436) and the rate monitors (R58, R59).
-/

namespace Sys2Proof.Machine

/-! ### Hoof links and host ports (Table 15-1, rows 0x03 and 0x0A) -/

/-- Mark the operation in slot t, while it is under way (R408). -/
def markOp (s : State) (t : Nat) (f : Op → Op) : State :=
  match s.op t with
  | some o => if o.inFlight then s.setOp t (f o) else s
  | none => s

/-- A retry of Table 15-1 served a part of the operation in slot t. -/
def markRetried (s : State) (t : Nat) : State := markOp s t (fun o => { o with retried := true })

/-- A lasting fault was masked that the operation in slot t needed. -/
def markMasked (s : State) (t : Nat) : State := markOp s t (fun o => { o with degraded := true })

/-- HOOF_LINK_TIMEOUT: 20 us without an acknowledgement of a message of an operation; the first timeout resends the message, the second
retrains the link. -/
def execHoofLinkTimeout (l : LateMsg) (s : State) : Host.Outcome State Fault Refusal :=
  commit s (
    let h := l.hoof.val
    let s0 := s
    let s := s.atLeast ((s.hoof h).linkAt + 2000)
    let k := { s.hoof h with linkAt := s.now }
    if (!s.live || decide (s.part.hoofs ≤ h) || k.retrain || lostStack s h) then s0
    else if k.resent then
      s.setHoof h { k with resent := false, retrain := true, hlstat := bump (setFlag k.hlstat 0 false) 31 16 1 }
    else markRetried (transient (s.setHoof h { k with resent := true, hlstat := bump k.hlstat 47 32 1 }) .central 0x03 h 0) l.slot.toNat)

/-- HOOF_LINK_UP: a retraining link comes up again within 1 ms. -/
def execHoofLinkUp (h : HoofId) (s : State) : Host.Outcome State Fault Refusal :=
  commit s (
    let k := s.hoof h.val
    if s.live ∧ k.retrain then s.setHoof h.val { k with retrain := false, resent := false, hlstat := setFlag k.hlstat 0 true } else s)

/-- The last response that a port sent: a message of one of its 512 requesters. -/
def lastResponse (s : State) (p : Nat) : Option HostMsg := s.host.out.reverse.find? (fun m => m.req.toNat / 512 = p)

/-- Mark the operation that a response belongs to as retried. -/
def markResponse (s : State) (m : HostMsg) : State :=
  match slotOfTicket s m.ticket.toNat with
  | some t => markRetried s t
  | none => s

/-- HOST_RESPONSE_TIMEOUT: the first timeout resends the response, the second retrains the port. -/
def execHostResponseTimeout (p : HostPort) (s : State) : Host.Outcome State Fault Refusal :=
  commit s (
    let s0 := s
    let s := s.atLeast ((s.hport p.toNat).linkAt + 2000)
    let k := { s.hport p.toNat with linkAt := s.now }
    if (!s.live || !k.up) then s0
    else if k.resent then s.setHport p.toNat { k with resent := false, training := true, up := false, retrain := satAdd 16 k.retrain 1 }
    else match lastResponse s p.toNat with
      | some m => markResponse (transient (sendHost (s.setHport p.toNat { k with resent := true }) m) .central 0x0A p.toNat 0) m
      | none => s0)

/-- LINK_RETRAIN_TIMEOUT: a retraining link that is not up within 1 ms is lost: a stack fault, or the port's loss (Table 15-2). A fabric link
does not retrain; FABRIC_PORT_RETIRE is its limit. -/
def execLinkRetrainTimeout (l : Link) (s : State) : Host.Outcome State Fault Refusal :=
  commit s (if ¬ s.live then s
    else match l with
    | .hoof h =>
      let k := s.hoof h.val
      if k.retrain then stackFault ((s.atLeast (k.linkAt + 100000)).setHoof h.val { k with retrain := false }) h.val else s
    | .host p =>
      let k := s.hport p.toNat
      if k.training then hostPortLost ((s.atLeast (k.linkAt + 100000)).setHport p.toNat { k with training := false }) p.toNat else s
    | .fabric _ => s)

/-! ### Units that find a failure in themselves (Tables 15-1 and 15-2) -/

/-- Is a unit retired already, or is there none? What it finds concerns nobody. -/
def unitGone (s : State) : FaultUnit → Bool
  | .tine h tine => decide (s.part.hoofs ≤ h.val) || lostStack s h.val || bitAt (fld (s.hoof h.val).hflt 31 0) tine.toNat
  | .array half => flag s.mgmt.fltstat (20 + half.toNat)
  | .slice k => flag s.mgmt.fltstat (12 + k.toNat)
  | .wide k => flag s.mgmt.fltstat (16 + k.toNat)
  | .core c => flag s.mgmt.fltstat (24 + c.toNat)
  | .store n => decide (bankNo (64 * n.toNat) ∈ s.mgmt.banks)
  | .dram h _ acc _ _ => !(stackUp s h.val) || decide (channelAccesses (s.hoof h.val) ≤ acc.toNat)
  | .channel h _ => !(stackUp s h.val)
  | .hoofUnit h => decide (s.part.hoofs ≤ h.val) || lostStack s h.val
  | .module _ _ | .central => false

/-- A failure that its retry mends: the class 1 entry of its row of Table 15-1 and its counts (R407). -/
def unitTransient (s : State) : FaultUnit → State
  | .tine h tine => bumpShd1 47 32 (transient s (hoofDie h.val) 0x05 tine.toNat 0)
  | .array half => bumpShd1 47 32 (transient s .central 0x06 half.toNat 0)
  | .slice k => transient s .central 0x07 k.toNat 0
  | .wide k => transient s .central 0x07 k.toNat 0
  | .core c => transient s .central 0x08 c.toNat 0
  | .store n => transient s .central 0x09 (bankNo (64 * n.toNat)) (64 * n.toNat)
  | _ => s

/-- A failure that its retry meets again: the masking of its row of Table 15-2, or fail-stop. -/
def unitLasting (s : State) : FaultUnit → State
  | .tine h tine => tineFault (bumpShd1 63 48 s) h.val tine.toNat
  | .array half => arrayFault (bumpShd1 63 48 s) half.toNat
  | .slice k => sliceFault s k.toNat
  | .wide k => groupFault s k.toNat
  | .core c => coreFault s c.toNat
  | .store n => let o := 64 * n.toNat; bankFault s (bankNo o) (meets o 64 (transitPool s.units).1 (transitPool s.units).2)
  | .channel h ch => channelFault s h.val ch.toNat
  | .hoofUnit h => stackFault s h.val
  | .central => failStop s .central 0x0D 0xFFFF 0
  | _ => s

/-- What a unit finds while it serves the operation in slot t, if one: a transient or a lasting fault. A DRAM access tells by its own two reads which
(Table 14-4); the units without a row in Table 15-1 know no retry. -/
def unitFault (s : State) (u : FaultUnit) (lasting : Bool) (t : Nat) : State :=
  if unitGone s u then s
  else match u with
  | .dram h ch acc errs errs2 => readAccess s ((s.op t).bind (fun o => if o.inFlight then some t else none)) h.val ch.toNat (64 * acc.toNat) (errNums errs) (errNums errs2)
  | .channel _ _ | .hoofUnit _ | .central => unitLasting (markMasked s t) u
  | _ => if lasting then unitLasting (markMasked s t) u else unitTransient (markRetried s t) u

/-! ### Reference clocks, supplies, temperature -/

/-- Has RST_N been released, and is the device not already stopped? -/
def watched (s : State) : Bool := decide (s.phase ≠ .coldReset) && !s.failstop

/-- The reference clock of Hoof h is lost (R57): Hoof h records it, with its own local time, whether or not its stack still serves. -/
def hoofClockLoss (s : State) (h : HoofId) : State :=
  let s1 := s.setHoof h.val { s.hoof h.val with refclk := false }
  if s.failstop then addLogAt s1 (.hoof h) 3 0x04 h.val 0 0 0
  else if lostStack s h.val then addLogAt s1 (.hoof h) 2 0x04 h.val 0 0 0
  else stackFaultBy s1 (.hoof h) h.val

/-- The loss of REFCLK_C (R57): fail-stop, or the entry alone on a device that has stopped. -/
def centralClockLoss (s : State) : State :=
  let s1 := { s with mgmt := { s.mgmt with refclk := false } }
  if s.failstop then addLogAt s1 .central 3 0x0D 0xFFFF 0 0 0 else failStop s1 .central 0x0D 0xFFFF 0

/-- REFCLK_LOSS (R57): the loss of REFCLK_C stops the device (code 0x0D); that of REFCLK_Hn is a fault of the stack. The oscillators watch in fail-stop
too. The command does not say which loss it is: with no edge, or with edges more than 5% off. Local time stands still after either, where R57 says
nothing of the second (DESIGN CHOICE, notes/assumptions/53). -/
def execRefclkLoss (d : Die) (s : State) : Host.Outcome State Fault Refusal :=
  commit s (if s.phase = .coldReset then s
    else match d with
    | .central => if s.mgmt.refclk then centralClockLoss s else s
    | .hoof h => if h.val < s.part.hoofs ∧ (s.hoof h.val).refclk then hoofClockLoss s h else s)

/-- SUPPLY_FAULT (R434): a central-die rail stops the device; a Hoof's rail is a fault of its stack. -/
def execSupplyFault (d : Die) (s : State) : Host.Outcome State Fault Refusal :=
  commit s (if ¬ watched s then s
    else match d with
    | .central => failStop s .central 0x0D 0xFFFF 0
    | .hoof h => if h.val < s.part.hoofs then stackFault s h.val else s)

/-- Hottest of the junctions that have reported: its temperature and its DIE code, the lowest where several are as hot (DESIGN CHOICE, notes/assumptions/66). -/
def hottest (l : List (Nat × Nat)) : Nat × Nat := l.foldl (fun m e => if m.1 < e.2 then (e.2, e.1) else m) (0, 0)

/-- Temperature above which a stack reports its high temperature range (PRESUMED, notes/assumptions/66). -/
def highRange : Nat := 85

/-- The sensors of a die report its junction: HOT and HOTDIE of THERM (Table 16-10), and on a Hoof HREF.HOT (Table 14-11). -/
def noteTemp (s : State) (d : Die) (c : Nat) : State :=
  let temps := mput (fun _ => 0) s.mgmt.temps (dieCode d) c
  let m := hottest temps
  let s1 := { s with mgmt := { s.mgmt with temps := temps, therm := setFld (setFld s.mgmt.therm 7 0 m.1) 15 8 m.2 } }
  match d with
  | .central => s1
  | .hoof h => s1.setHoof h.val { s1.hoof h.val with href := setFlag (s1.hoof h.val).href 2 (decide (highRange < c)) }

/-- THERMAL_TRIP's effect (R436): at 125 degrees the block asserts THERMTRIP_N and goes fail-stop, with the hottest die in the entry. -/
def thermTrip (s : State) : State :=
  let s1 := { s with mgmt := { s.mgmt with trip := true } }
  if s.failstop then s1 else failStop s1 (hotDie s) 0x0D 0xFFFF (fld s.mgmt.therm 7 0)

/-- A sensor reports a temperature (R436): at or above ALIM, AL and its alert; at 125 degrees the trip. -/
def tempReport (s : State) (d : Die) (c : Nat) : State :=
  let s1 := thermAlarm (noteTemp s d c)
  if 125 ≤ c then thermTrip s1 else s1

/-- THERM_ALERT (R436). -/
def execThermAlert (d : Die) (celsius : Byte) (s : State) : Host.Outcome State Fault Refusal :=
  commit s (if s.phase = .coldReset then s else tempReport s d celsius.toNat)

/-- THERMAL_TRIP (R436): below 125 degrees nothing trips. -/
def execThermalTrip (d : Die) (celsius : Byte) (s : State) : Host.Outcome State Fault Refusal :=
  commit s (if s.phase = .coldReset ∨ celsius.toNat < 125 then s else tempReport s d celsius.toNat)

/-! ### Rate monitors (R58, R59) -/

/-- RATE after a window that measured `mhz` MHz; `rated` when a window has ended before. -/
def rateAfter (rate lim : W64) (mhz : Nat) (rated : Bool) : W64 :=
  let v := setFld rate 15 0 mhz
  let v := setFld v 31 16 (if rated then Nat.min (fld rate 31 16) mhz else mhz)
  let v := setFld v 47 32 (Nat.max (fld rate 47 32) mhz)
  if mhz < fld lim 15 0 then setFlag v 48 true else v

/-- Does a window raise the alert: LOW turns 1 while ALERT_EN is 1? -/
def rateAlerts (rate lim : W64) (mhz : Nat) : Bool := decide (mhz < fld lim 15 0) && !(flag rate 48) && flag lim 16

/-- End of the window that a local time lies in: windows last 10 us. -/
def windowEnd (t : Nat) : Nat := (t / 1000 + 1) * 1000

/-- RATE_WINDOW (R58): the monitor of a die reports at the end of a window of its local time, which runs only with its reference clock. -/
def execRateWindow (d : Die) (mhz : BitVec 16) (s : State) : Host.Outcome State Fault Refusal :=
  commit s (if s.phase = .coldReset then s
    else match d with
    | .central =>
      let m := s.mgmt
      if m.refclk then
        let s1 := { s with mgmt := { m with rate := rateAfter m.rate m.ratelim mhz.toNat m.rated, ltime := windowEnd m.ltime, rated := true } }
        if rateAlerts m.rate m.ratelim mhz.toNat then addLogAt s1 d 4 0 0xFFFF 0 0 mhz.toNat else s1
      else s
    | .hoof h =>
      let k := s.hoof h.val
      if k.haon ∧ k.refclk then
        let s1 := s.setHoof h.val { k with rate := rateAfter k.rate k.ratelim mhz.toNat k.rated, ltime := windowEnd k.ltime, rated := true }
        if rateAlerts k.rate k.ratelim mhz.toNat then addLogAt s1 d 4 0 0xFFFF 0 0 mhz.toNat else s1
      else s)

end Sys2Proof.Machine
end

