-- ==== Sys2Proof/Machine/Array.lean ====
section
/-!
DEFINITION. The matrix array (R221-R240): modes and time, descriptors and their conditions, the accumulator grid, integer and L8 products,
rescale, whole-block output, and the projection of gathered rows (R237).
-/

namespace Sys2Proof.Machine

/-- Fields of an MMA descriptor (Table 8-3). -/
structure MmaD where
  aoff  : Nat
  areg  : Nat
  woff  : Nat
  wreg  : Nat
  ooff  : Nat
  rtlen : Nat
  m     : Nat
  k     : Nat
  n     : Nat
  astr  : Nat
  wstr  : Nat
  ostr  : Nat
  rtab  : Nat
deriving DecidableEq, Repr

/-- Read an MMA descriptor. -/
def parseMma (b : List Byte) : MmaD :=
  { aoff := fieldAt b 0 6, areg := fieldAt b 6 2 % 4096, woff := fieldAt b 8 6, wreg := fieldAt b 14 2 % 4096, ooff := fieldAt b 16 6,
    rtlen := fieldAt b 22 2, m := fieldAt b 24 4 % 2 ^ 24, k := fieldAt b 28 4 % 2 ^ 24, n := fieldAt b 32 4 % 2 ^ 24,
    astr := fieldAt b 36 4, wstr := fieldAt b 40 4, ostr := fieldAt b 44 4, rtab := fieldAt b 48 4 % 2 ^ 28 * 4 }

/-- Array mode (Table 8-1): 0 whole, 1 quad, 2 half, 3 pair. -/
def arrayMode (half : Bool) (k n : Nat) : Nat :=
  (if half then 2 else 0) + (if k ≤ 256 ∧ n ≤ 256 then 1 else 0)

/-- Inner length of a tile. -/
def modeKt (mode : Nat) : Nat := if mode % 2 = 1 then 256 else 512
/-- Channels of a tile. -/
def modeNt (mode : Nat) : Nat := if mode = 0 then 512 else 256
/-- Rows per handshake. -/
def modeU (mode : Nat) : Nat := if mode = 1 then 4 else if mode = 3 then 2 else 1

/-- Handshakes of an operation (R235). -/
def arrayH (mode m k n : Nat) : Nat :=
  let t := cdiv n (modeNt mode) * cdiv k (modeKt mode)
  let full := m / 4096
  let last := m % 4096
  1024 + full * (t * Nat.max (4096 / modeU mode) 512) + (if last = 0 then 0 else t * Nat.max (cdiv last (modeU mode)) 512)

/-! ### Conditions (R226) -/

/-- An integer operand format of the array. -/
def intOperand (fmt : Nat) : Bool := fmt = fK8 || fmt = fK8U || fmt = fK4 || fmt = fK4U

/-- Are two operand formats accepted together (R92, R94)? -/
def operandPair (a w : Nat) : Bool := (intOperand a && intOperand w) || (a = fL8 && w = fL8)

/-- A narrow output format of the array. -/
def narrowOut (fmt : Nat) : Bool := fmt = fK8 || fmt = fK8U || fmt = fK16 || fmt = fL8

/-- Rescale table entries free of reserved shifts (R124). -/
def rescaleOk (s : State) (rtab n : Nat) : Bool := (List.range n).all (fun c => decide (bits (leNat (s.stBytes (rtab + 4 * c) 4)) 21 16 ≤ 47))

/-- One operand of the product: stored rows, their length, offset and stride fit the region (R226). -/
def operandFits (r : Region) (off stride rows len : Nat) : Bool :=
  decide (off % r.B = 0) && decide (stride % r.B = 0) && decide (len % r.B = 0) && decide (len ≤ stride)
  && decide (off + (rows - 1) * stride + len ≤ r.length)

/-- First to last byte of an operand's element and block-byte areas (R227). -/
def operandRanges (r : Region) (off stride rows len : Nat) (wr : Bool) : List Range :=
  let n := (rows - 1) * stride + len
  [rngL (r.base + off * codeBits r.fmt / 8) (n * codeBits r.fmt / 8) wr]
    ++ (if r.hasBB then
          let w := if r.fmt = fA32 then 2 else 1
          [rngL (r.bbase + off / r.B * w) (n / r.B * w) wr] else [])

/-- Weight-side conditions that an MMA and a projecting GTH share; `k` is the inner length. -/
def weightOk (s : State) (r : Region) (d : MmaD) (k : Nat) (tw : Bool) : Bool :=
  regionOk s r && !r.stg && decide (d.n ≠ 0)
  && operandFits r d.woff d.wstr (if tw then k else d.n) (if tw then d.n else k)

/-- Ranges of the weights and of the rescale table. -/
def weightRanges (r : Region) (d : MmaD) (k : Nat) (tw : Bool) : List Range :=
  operandRanges r d.woff d.wstr (if tw then k else d.n) (if tw then d.n else k) false
    ++ (if d.rtlen = 0 then [] else [storeRange d.rtab (4 * d.rtlen) false])

/-- Acceptance check of an MMA (R226, R227, R298). R226 does not list a staging region among its conditions: one named as A, W or output is a
reserved encoding here (DESIGN CHOICE, notes/assumptions/61). -/
def mmaCheck (s : State) (o : Op) : Chk :=
  withDesc s o 64 (fun desc =>
  let d := parseMma desc
  let a := s.region d.areg
  let w := s.region d.wreg
  let r := s.region o.region
  let ta := bitAt o.var 1
  let tw := bitAt o.var 2
  let ra := operandRanges a d.aoff d.astr (if ta then d.k else d.m) (if ta then d.m else d.k) false
  let rw_ := operandRanges w d.woff d.wstr (if tw then d.k else d.n) (if tw then d.n else d.k) false
  let ro := operandRanges r d.ooff d.ostr d.m d.n true
  let ok := decide (d.m ≠ 0 ∧ d.k ≠ 0 ∧ d.n ≠ 0) && regionOk s a && regionOk s r && !a.stg && !r.stg
    && unitsOk s a && unitsOk s w && unitsOk s r
    && weightOk s w d d.k tw && operandPair a.fmt w.fmt
    && (if d.rtlen = 0 then decide (r.fmt = fA32) else decide (d.n ≤ d.rtlen) && narrowOut r.fmt) && !r.comp
    && (!(bitAt o.var 0) || decide (d.rtlen = 0))
    && operandFits a d.aoff d.astr (if ta then d.k else d.m) (if ta then d.m else d.k)
    && operandFits r d.ooff d.ostr d.m d.n
    && ro.all (fun x => (ra ++ rw_).all (fun y => !(x.overlaps y)))
  if !ok then .illegal
  else match (if d.rtlen = 0 then none else badAddr s (storeBase + d.rtab) (4 * d.rtlen)) with
    | some x => .bad 0x16 x
    | none => .ok (ra ++ weightRanges w d d.k tw ++ ro) [(d.areg, a), (d.wreg, w), (o.region, r)] desc [])

/-! ### Products (R228-R230) -/

/-- A code of an operand with its block exponent. -/
structure Opd where
  code : Nat
  e    : Int
deriving DecidableEq, Repr

/-- Operand element i of a region at its coarse scale. -/
def opdAt (s : State) (r : Region) (C : Int) (i : Nat) : Opd :=
  let b := bbyteAt s r (i / r.B)
  { code := codeAt s r i, e := C + bbL b + bbF b }

/-- The L8 product of R229 in units of 2^(Ea + Ew - 11). -/
def l8product (a b : Nat) : Int :=
  let ma := a % 128
  let mb := b % 128
  let neg := decide ((a / 128 + b / 128) % 2 = 1)
  let p : Nat :=
    if ma = 0 ∨ mb = 0 then 0
    else if 16 ≤ ma ∧ 16 ≤ mb then let t := (ma - 16) + (mb - 16); antilog.getD (t % 16) 0 * 2 ^ (t / 16)
    else if ma < 16 ∧ mb < 16 then ma * mb * 8
    else
      let sub := if ma < 16 then ma else mb
      let t := (if ma < 16 then mb else ma) - 16
      (sub * antilog.getD (t % 16) 0 * 2 ^ (t / 16)) / 16
  if neg then -(p : Int) else p

/-- Contribution of one product to the grid 2^X; none for void (R229, R230). -/
def contribution (fa fw : Nat) (a w : Opd) (X : Int) : Option Int :=
  match decodeCode fa a.code 0, decodeCode fw w.code 0 with
  | .fin x _, .fin y _ =>
    if fa = fL8 then some (onGrid (l8product a.code w.code) (a.e + w.e - 11) X)
    else some (onGrid (x * y) (a.e + w.e) X)
  | _, _ => none

/-- Sum of a row of A against a row of W on the grid 2^X; none when any product is void. -/
def dotGrid (fa fw : Nat) (X : Int) : List Opd → List Opd → Option Int
  | a :: as, w :: ws =>
    match contribution fa fw a w X, dotGrid fa fw X as ws with
    | some p, some q => some (p + q)
    | _, _ => none
  | _, _ => some 0

/-- The exponent of an output block (R228): A row, then the W rows of its channels. -/
def gridOf (fa : Nat) (arow : List Opd) (wrows : List (List Opd)) : Int :=
  let k := arow.length
  let sums := arow.zipIdx.map (fun e => e.1.e + maxInt (-1000) (wrows.map (fun w => (w.getD e.2 { code := 0, e := -1000 }).e)))
  maxInt (-1000) sums + clog2 k - (if fa = fL8 then 17 else 15)

/-- Output block of an A row against the W rows of its channels on the grid 2^X. -/
def blockSums (fa fw : Nat) (X : Int) (arow : List Opd) (wrows : List (List Opd)) : List (Option Int) := wrows.map (fun w => dotGrid fa fw X arow w)

/-- Row of W for channel n. -/
def wRow (s : State) (r : Region) (C : Int) (d : MmaD) (k : Nat) (tw : Bool) (n : Nat) : List Opd :=
  (List.range k).map (fun i => opdAt s r C (if tw then d.woff + i * d.wstr + n else d.woff + n * d.wstr + i))

/-- Row m of A. -/
def aRow (s : State) (r : Region) (C : Int) (d : MmaD) (ta : Bool) (m : Nat) : List Opd :=
  (List.range d.k).map (fun i => opdAt s r C (if ta then d.aoff + i * d.astr + m else d.aoff + m * d.astr + i))

/-! ### Outputs -/

/-- Rescale of an accumulator element of channel c (R125). -/
def rescale (s : State) (rtab c : Nat) (X : Int) : Option Int → Num
  | none => .void
  | some acc =>
    let e := leNat (s.stBytes (rtab + 4 * c) 4)
    let y : Int := ((acc.natAbs * bits e 15 0) / 2 ^ bits e 21 16 : Nat)
    .fin (if acc < 0 then -y else y) X

/-- Grid of an A32 output block: under ACC the larger of its old exponent and that of the new products (R231). -/
def accGrid (s : State) (r : Region) (b : Nat) (X : Int) (acc : Bool) : Int :=
  if acc then Max.max (sext 10 (bwordAt s r b)) X else X

/-- Totals of an A32 output block on the grid X: the sums of the products and, under ACC, the old codes shifted to X toward zero (R231). -/
def accTotals (s : State) (r : Region) (b : Nat) (X : Int) (sums : List (Option Int)) (acc : Bool) : List (Option Int) :=
  let olds := if acc then (List.range r.B).map (fun i => (el32 (codeAt s r (b * r.B + i))).map (fun v => onGrid v (sext 10 (bwordAt s r b)) X))
              else List.replicate r.B (some 0)
  (List.zip olds sums).map (fun e => match e.1, e.2 with | some x, some y => some (x + y) | _, _ => none)

/-- Write the totals of an A32 output block on the grid X (R231, R233). Its maximum folds into CUR_MAX as a narrow block's does: R105 speaks of
narrow blocks alone, and R112 gives A32 regions a width (DESIGN CHOICE, notes/assumptions/61). -/
def putAcc (s : State) (t : Nat) (r : Region) (b : Nat) (X : Int) (tot : List (Option Int)) : State :=
  let held := tot.map (fun o => o.map hold31)
  let ovf := held.any (fun o => match o with | some (_, x) => x | none => false)
  let vp := held.any Option.isNone
  let ms := held.map (fun o => o.map Prod.fst)
  let s1 := wrLocal (putCodes s t r b (ms.map pat32)) t (r.bbase + 2 * b) (leBytes 2 (blockWord X ovf vp))
  let mag := logCode (maxMag (tot.map (ofReg X)))
  let s2 := markStep (countVelvet s1 r.velv mag 0 (if ovf then 1 else 0) 0 false) (opStep s t) r.velv ovf
  noteOp s2 t r.B (logCode (maxMag (ms.map (ofReg X)))) ovf vp ovf none

/-- Place of output block i in the array's order: row, output block of the row, and whether it begins a chunk and N-tile (R235).
R236 gives no order of the N-tiles in a chunk and of the blocks in one, which an ABORT shows: tiles ascend, then rows, then blocks (DESIGN
CHOICE, notes/assumptions/61). -/
def mmaPos (m nb tb i : Nat) : Nat × Nat × Bool :=
  let c := i / (4096 * nb)
  let x := i % (4096 * nb)
  let mc := Nat.min 4096 (m - 4096 * c)
  let tile := x / (mc * tb)
  let y := x % (mc * tb)
  let w := Nat.min tb (nb - tile * tb)
  (4096 * c + y / w, tile * tb + y % w, decide (y = 0))

/-- Mode that DISPATCH chose for an array operation. -/
def Op.mode (o : Op) : Nat := o.prog.headD 1 - 1

/-- What output block i of an MMA is computed from: its output region and block, the first channel, and the operand rows. -/
structure Tile where
  r     : Region
  b     : Nat
  ch    : Nat
  fa    : Nat
  fw    : Nat
  arow  : List Opd
  wrows : List (List Opd)
deriving DecidableEq, Repr

/-- Output block i of the MMA in slot t. -/
def mmaTile (s : State) (o : Op) (i : Nat) : Option Tile :=
  let d := parseMma o.desc
  match o.img d.areg, o.img d.wreg, o.img o.region with
  | some a, some w, some r =>
    let pos := mmaPos d.m (d.n / r.B) (modeNt o.mode / r.B) i
    some { r := r, b := (d.ooff + pos.1 * d.ostr) / r.B + pos.2.1, ch := pos.2.1 * r.B, fa := a.fmt, fw := w.fmt,
           arow := aRow s a (coarseOf s o.step a) d (bitAt o.var 1) pos.1,
           wrows := (List.range r.B).map (fun j => wRow s w (coarseOf s o.step w) d d.k (bitAt o.var 2) (pos.2.1 * r.B + j)) }
  | _, _, _ => none

/-- Grid and accumulator totals of a tile (R228, R231). -/
def tileTotals (s : State) (o : Op) (x : Tile) : Int × List (Option Int) :=
  let acc := bitAt o.var 0
  let X := accGrid s x.r x.b (gridOf x.fa x.arow x.wrows) acc
  (X, accTotals s x.r x.b X (blockSums x.fa x.fw X x.arow x.wrows) acc)

/-- Totals of which a faulty array has the first wrong by `err` units of the grid. -/
def totalsOff (err : Int) : List (Option Int) → List (Option Int)
  | some v :: l => some (v + err) :: l
  | l => l

/-- Compute and write output block i of the MMA in slot t; `err` is what a faulty array adds to the first total (R264). -/
def mmaBlock (s : State) (t : Nat) (o : Op) (i : Nat) (err : Int) : State :=
  let d := parseMma o.desc
  match mmaTile s o i with
  | some x =>
    let q := tileTotals s o x
    let p := (q.1, totalsOff err q.2)
    if d.rtlen = 0 then putAcc s t x.r x.b p.1 p.2
    else storeBlock s t o.region x.r x.b (p.2.zipIdx.map (fun e => rescale s d.rtab (x.ch + e.2) p.1 e.1)) true
  | none => s

/-- The array's work counters (Table 8-7) at the end of an operation. -/
def countArray (s : State) (mode m k n : Nat) : State :=
  { s with units := { s.units with arrhs := BitVec.ofNat 64 (satAdd 64 s.units.arrhs.toNat (arrayH mode m k n)),
                                   arrmac := BitVec.ofNat 64 (satAdd 64 s.units.arrmac.toNat (m * k * n)) } }

/-- Number of output blocks of an MMA. -/
def mmaTotal (d : MmaD) (r : Region) : Nat := d.m * (d.n / r.B)

/-- Which of n items more does a counter that stands at `was` sample, one in every k (R260)? -/
def samplesOf (was n k : Nat) : List Nat := (List.range n).filter (fun i => (was + i + 1) % k = 0)

/-- Sampling of the shadow check (R260): the array counts n tiles more and takes every 2^K-th of all that it counts. -/
def sampleArr (s : State) (n : Nat) : State × List Nat :=
  let was := s.units.arrTiles
  ({ s with units := { s.units with arrTiles := was + n } },
   if flag s.units.shdcfg 5 then samplesOf was n (2 ^ fld s.units.shdcfg 4 0) else [])

/-- SHDCNT0.SKIPPED (R265). -/
def bumpSkipped (s : State) : State := { s with units := { s.units with shdcnt0 := bump s.units.shdcnt0 63 32 1 } }

/-- Handshakes of the chunks and N-tiles that the first `n` output blocks fill whole (R235), for an MMA that ABORT stops there: the start, and
each chunk and N-tile that begins among them. -/
def mmaHs (d : MmaD) (r : Region) (mode n : Nat) : Nat :=
  1024 + sumNat ((List.range n).map (fun i =>
    let p := mmaPos d.m (d.n / r.B) (modeNt mode / r.B) i
    if p.2.2 then cdiv d.k (modeKt mode) * Nat.max (cdiv (Nat.min 4096 (d.m - p.1)) (modeU mode)) 512 else 0))

/-- The work counters at the end of an MMA that ABORT stopped after n output blocks: what the array did of it (DESIGN CHOICE,
notes/assumptions/51). -/
def countAborted (s : State) (d : MmaD) (r : Region) (mode n : Nat) : State :=
  { s with units := { s.units with arrhs := BitVec.ofNat 64 (satAdd 64 s.units.arrhs.toNat (mmaHs d r mode n)),
                                   arrmac := BitVec.ofNat 64 (satAdd 64 s.units.arrmac.toNat (n * r.B * d.k)) } }

/-- An aborted MMA ends after n output blocks (R236). -/
def mmaCancel (s : State) (t : Nat) (o : Op) (d : MmaD) (r : Region) (n : Nat) : State := endAborted (countAborted s d r o.mode n) t n

/-- Write output block i of the MMA in slot t, and end the operation after the last one: CANCELLED when ABORT reached it before (R236). -/
def mmaWrite (s : State) (t : Nat) (o : Op) (i : Nat) (err : Int) : State :=
  let d := parseMma o.desc
  let s1 := (mmaBlock s t o i err).onOp t (fun o => { o with progress := i + 1, reports := [] })
  match o.img o.region with
  | some r =>
    if i + 1 ≠ mmaTotal d r then s1
    else if o.aborted then mmaCancel s1 t o d r (i + 1)
    else endWork (countArray s1 o.mode d.m d.k d.n) t 0 0
  | none => s1

/-- The next output block of the MMA in slot t; nothing once its work has ended or while a tile is held for the shadow check. An aborted one
stops at the end of its chunk and N-tile (R236). Where ABORT comes between two of them, which R236 does not settle, the finished one is the
current one and the MMA stops there; before its first output block the first is the current one (DESIGN CHOICE, notes/assumptions/51). -/
def mmaStep (s : State) (t : Nat) : State :=
  match running s t 0x30 with
  | none => s
  | some o =>
    let d := parseMma o.desc
    match o.img o.region with
    | none => s
    | some r =>
      let i := o.progress
      if o.reports ≠ [] then s
      else if o.aborted ∧ i ≠ 0 ∧ (mmaPos d.m (d.n / r.B) (modeNt o.mode / r.B) i).2.2 then mmaCancel s t o d r i
      else
        let sm := sampleArr s 1
        if sm.2 = [] then mmaWrite sm.1 t o i 0
        else if heldTiles s < 64 then sm.1.onOp t (fun o => { o with reports := [i] })
        else mmaWrite (bumpSkipped sm.1) t o i 0

/-- A reserved shift found in the rescale table as the operation is dispatched (R124). -/
def mmaTableBad (s : State) (o : Op) : Bool :=
  let d := parseMma o.desc
  decide (d.rtlen ≠ 0) && !(rescaleOk s d.rtab d.n)

/-- Row of an operation: acceptance while it is issued, work while it runs. -/
def opRow (s : State) (t opc : Nat) (need : State → Op → Bool) (chk : State → Op → Chk) (work : State → Op → State) : State :=
  if isIssued s t opc then acceptOp s t need chk
  else match running s t opc with
    | some o => work s o
    | none => s

/-- What MMA does while it runs. -/
def mmaWork (t blocks : Nat) (s : State) (_ : Op) : State :=
  times (fun s => mmaStep s t) (Nat.min blocks (2 ^ 48)) s

/-- MMA (R224): accepted, then its next `blocks` output blocks. -/
def execMma (t : SlotId) (blocks : Nat) (s : State) : Host.Outcome State Fault Refusal :=
  commit s (opRow s t.toNat 0x30 (fun _ _ => false) mmaCheck (mmaWork t.toNat blocks))

/-! ### Projection of gathered rows (R237) -/

/-- Operand rows of output block nb of a projected row (R237). -/
def projTile (s : State) (fa B : Nat) (arow : List Opd) (w : Region) (Cw : Int) (d : MmaD) (tw : Bool) (nb : Nat) : Int × List (List Opd) :=
  let wrows := (List.range B).map (fun j => wRow s w Cw d arow.length tw (nb * B + j))
  (gridOf fa arow wrows, wrows)

/-- An output block of a projected row from its totals on the grid X. An element that overflows saturates, also where the region gathered from is
strict: R237 does not say whether STRICT reaches the projected row (DESIGN CHOICE, notes/assumptions/61). -/
def projBlock (s : State) (fmt B : Nat) (d : MmaD) (CD : Int) (nb : Nat) (X : Int) (tot : List (Option Int)) : BlockW :=
  encBlock fmt false true CD 0 (tot.zipIdx.map (fun e => rescale s d.rtab (nb * B + e.2) X e.1)) (fun E _ v => encode fmt false E v)

/-- A projected row: codes and block bytes of the output format at coarse scale CD, and whether any block has OVF. The output format is the
parameter region's own when it is one that the array can write (DESIGN CHOICE, notes/assumptions/18). `errs` are the errors of a faulty array by
output block. -/
def projectRow (s : State) (fmt B : Nat) (fa : Nat) (arow : List Opd) (w : Region) (Cw : Int) (d : MmaD) (tw : Bool) (CD : Int)
    (errs : List (Nat × Int)) : List BlockW :=
  (List.range (d.n / B)).map (fun nb =>
    let p := projTile s fa B arow w Cw d tw nb
    projBlock s fmt B d CD nb p.1 (totalsOff ((aget errs nb).getD 0) (blockSums fa w.fmt p.1 arow p.2)))

end Sys2Proof.Machine
end

