-- ==== Sys2Proof/Machine/ReduceOps.lean ====
section
/-!
DEFINITION. The dense reduction (spec/12): the plan and its conditions (R326-R329), arming (R330), slots (R331, R332), contributions and
the residual (R334-R336, R344), the laps (R337-R343), results (R345, R348) and ring packets (R349, R350).
-/

namespace Sys2Proof.Machine

/-! ### The plan (R328, R329) -/

/-- Fields of a bucket plan (Table 12-2). -/
structure PlanD where
  preg   : Nat
  oreg   : Nat
  rreg   : Nat
  head   : Nat
  oshift : Nat
  first  : Nat
  nelem  : Nat
  aset   : Nat
  herdl  : Nat
  btab   : Option Nat
  dflt   : Nat
deriving DecidableEq, Repr

/-- Read a bucket plan. -/
def parsePlan (b : List Byte) : PlanD :=
  let bt := fieldAt b 32 4 % 2 ^ 24
  { preg := fieldAt b 0 2 % 4096, oreg := fieldAt b 2 2 % 4096, rreg := fieldAt b 4 2 % 4096, head := fieldAt b 6 1 % 16,
    oshift := fieldAt b 7 1 % 16, first := fieldAt b 8 6, nelem := fieldAt b 16 6, aset := fieldAt b 24 4 % 2 ^ 24 * 64,
    herdl := fieldAt b 28 4 % 2 ^ 24 * 64, btab := if bt = 0xFFFFFF then none else some (bt * 64), dflt := fieldAt b 36 1 }

/-- Plan blocks. -/
def PlanD.nblk (d : PlanD) : Nat := d.nelem / 64

/-- CAP of R331. -/
def capOf (s : State) : Nat := fld s.units.slay2 22 16 * mib / 66
/-- BKTNUM. -/
def bktNum (s : State) : Nat := fld s.units.slay2 30 24
/-- Buckets of a plan. -/
def PlanD.buckets (d : PlanD) (cap : Nat) : Nat := cdiv d.nblk cap
/-- Blocks of bucket b. -/
def PlanD.bucketLen (d : PlanD) (cap b : Nat) : Nat := Nat.min cap (d.nblk - b * cap)
/-- Bytes of the bitmap area: the bits padded to 64 bytes, then the counts (R345). -/
def PlanD.bitmapLen (d : PlanD) : Nat := cdiv (cdiv d.nblk 8) 64 * 64
/-- The whole bitmap area. -/
def PlanD.areaLen (d : PlanD) : Nat := d.bitmapLen + 4 * cdiv d.nblk 4096

/-- DEN of a bucket-table byte. -/
def denOf (x : Nat) : Nat := x % 16
/-- AUTO of a bucket-table byte. -/
def autoOf (x : Nat) : Bool := bitAt x 4
/-- A bucket-table byte without a reserved DEN. -/
def denOk (x : Nat) : Bool := denOf x = 0 || (decide (2 ≤ denOf x) && decide (denOf x ≤ 8))
/-- K of R338. -/
def selectK (n den : Nat) : Nat := if den = 0 then n else cdiv n (2 ^ den)

/-- The bucket-table bytes of a plan. -/
def planBytes (s : State) (d : PlanD) : List Nat :=
  let n := d.buckets (capOf s)
  match d.btab with
  | none => List.replicate n d.dflt
  | some a => (s.stBytes a n).map BitVec.toNat

/-- Herd tag and members of a Herd list (Table 12-1). -/
def herdAt (s : State) (o : Nat) : Nat × List Nat :=
  (leNat (s.stBytes o 4), (List.range (leNat (s.stBytes (o + 4) 2))).map (fun p => leNat (s.stBytes (o + 64 + 2 * p) 2) % 4096))

/-- Does a store range lie in software space (Table 11-1)? -/
def softSpace (s : State) (o n : Nat) : Bool :=
  storeOk s.units o n && !(meets o n (bucketArea s.units).1 (bucketArea s.units).2) && !(meets o n (rdTable s.units) 262144)
    && !(meets o n (velTable s.units) 262144)

/-- The conditions of R329. -/
def planOk (s : State) (d : PlanD) : Bool :=
  let cap := capOf s
  let bs := planBytes s d
  let p := s.region d.preg
  let q := s.region d.oreg
  let r := s.region d.rreg
  let h := herdAt s d.herdl
  let ksum := sumNat (bs.zipIdx.map (fun e => selectK (d.bucketLen cap e.2) (denOf e.1)))
  decide (d.nelem ≠ 0) && decide (d.nelem % 64 = 0) && decide (d.first % 64 = 0) && decide (d.head ≤ 12) && decide (d.oshift ≤ 12)
  && regionOk s p && unitsOk s p && !p.sparse && decide (d.first + d.nelem ≤ p.length)
  && regionOk s q && !q.dram && decide (q.fmt = fK8) && decide (q.B = 32) && q.perStep && !q.sparse && decide (64 * ksum ≤ q.length)
  && (d.rreg = 0xFFF || (regionOk s r && r.dram && decide (r.fmt = fK16) && decide (r.B = 64) && !r.perStep && sameOrigin s p r
        && decide (d.first + d.nelem ≤ r.length)))
  && decide (1 ≤ h.2.length) && decide (h.2.length ≤ 4096) && decide (h.2.count s.dev = 1)
  && decide (cap ≠ 0) && decide (bs.length ≤ 4096) && bs.all denOk
  && softSpace s d.aset d.areaLen

/-! ### Arming (R330) and slots (R331, R332) -/

/-- A bucket before it has a slot. -/
def Bucket.fresh (i slot : Nat) : Bucket :=
  { idx := i, st := .waiting, slot := slot, units := [], codes := [], global := [], sel := [], c0 := [], lap := 0, items := [], got := [],
    final := [], repeated := [], kept := [], sentPk := [], bleated := [] }

/-- The slot of a bucket is free: no earlier bucket, of this step or one before, still uses it. -/
def slotClear (before : List Bucket) (k : Nat) : Bool := before.all (fun b => b.slot ≠ k || decide (b.st = .complete))

/-- Open the waiting buckets of a list whose slots are free; `before` are the earlier buckets. -/
def openList (before : List Bucket) : List Bucket → List Bucket
  | [] => []
  | b :: bs =>
    let b' := if b.st = .waiting ∧ slotClear before b.slot then { b with st := .filling } else b
    b' :: openList (before ++ [b']) bs

/-- Open buckets over the armed steps. -/
def openArmed (before : List Bucket) : List Armed → List Armed
  | [] => []
  | a :: as =>
    let bs := openList before a.buckets
    { a with buckets := bs } :: openArmed (before ++ bs) as

/-- Each slot that is free opens for its next bucket (R332). -/
def openSlots (s : State) : State := { s with armed := openArmed [] s.armed }

/-- Is an armed step's reduction over on this device? -/
def Armed.over (a : Armed) : Bool := a.buckets.all (fun b => b.st = .complete)

/-- The plan of an armed step. -/
def Armed.d (a : Armed) : PlanD := parsePlan a.plan

/-- The armed step of a number. -/
def armedOf (s : State) (n : Nat) : Option Armed := s.armed.find? (fun a => a.step = n)

/-- Change an armed step. -/
def State.onArmed (s : State) (n : Nat) (f : Armed → Armed) : State := { s with armed := s.armed.map (fun a => if a.step = n then f a else a) }

/-- Change a bucket of an armed step. -/
def State.onBucket (s : State) (n b : Nat) (f : Bucket → Bucket) : State :=
  s.onArmed n (fun a => { a with buckets := a.buckets.map (fun k => if k.idx = b then f k else k) })

/-- Bucket b of armed step n. -/
def bucketOf (s : State) (n b : Nat) : Option (Armed × Bucket) :=
  (armedOf s n).bind (fun a => (a.buckets.find? (fun k => k.idx = b)).map (fun k => (a, k)))

/-- Ranges that the arming's slot holds: writes of OREG, of the bitmap area and of RREG's range. -/
def planRanges (s : State) (d : PlanD) : List Range :=
  regionRanges (s.region d.oreg) true ++ [storeRange d.aset d.areaLen true]
    ++ (if d.rreg = 0xFFF then [] else spanRanges (s.region d.rreg) d.first d.nelem true)

/-- Is a reduction to be armed at an opening: DRCTL.EN, and REDUCE not refusing (R330, R352)? -/
def planWanted (s : State) : Bool := flag s.units.drctl 24 && decide (fnState s 5 = 0)

/-- The plan that DRCTL names. -/
def planAt (s : State) : PlanD := parsePlan (s.stBytes (fld s.units.drctl 23 0 * 64) 64)

/-- No slot's number: an arming that waits for one, or that needs none. -/
def unseated : Nat := 65536

/-- The operation that arming puts into the scoreboard. It takes its place in the order of arrival at the step's STOP, so that every operation of
the step comes after the reduction (R32, R330). -/
def planOp (s : State) (n : Nat) (d : PlanD) : Op :=
  { Op.fresh .plan (parseEWord 0) 0 0 (2 ^ 20) (match stepOf s n with | some x => x.at_ | none => s.car.seq) with
    phase := .waiting, step := some n, ranges := recordRanges (planRanges s d),
    imgs := [(d.preg, s.region d.preg), (d.oreg, s.region d.oreg)] ++ (if d.rreg = 0xFFF then [] else [(d.rreg, s.region d.rreg)]) }

/-- The arming of a step takes a scoreboard slot, or goes on waiting for one (R161, R330). Only a device in service starts one: a warm reset
drains what is there (R438). -/
def seatPlan (s : State) (n : Nat) : State :=
  match (armedOf s n).bind (fun a => a.wait) with
  | some o =>
    match (if s.live && decide (s.phase = .up) then allocOp s o [] else none) with
    | some (s1, t) => (s1.onOp t (fun p => { p with seq := o.seq })).onArmed n (fun a => { a with wait := none, slot := t })
    | none => s
  | none => s

/-- Armings that wait for a slot, oldest step first. -/
def seatPlans (s : State) : State := (s.armed.map (fun a => a.step)).foldl seatPlan s

/-- Arm the plan for step n: the images, the buckets, a slot (R330). A broken plan is reported (R329). A Herd with an absent member leaves
nothing to reduce (R351). An STCL that was accepted before the opening triggers the buckets (R333). -/
def armPlan (s : State) (n : Nat) : State :=
  let d := planAt s
  if ¬ planOk s d then
    addLog { s with units := { s.units with drstat := setFlag s.units.drstat 1 true } } 4 4 0xFFFF (fld s.units.drctl 23 0 * 64)
  else
    let bs := planBytes s d
    let h := herdAt s d.herdl
    let gone := h.2.find? (fun x => isAbsent s x)
    let base := s.car.slotBase
    let bk := (List.range bs.length).map (fun i =>
      let b := Bucket.fresh i ((base + i) % Nat.max 1 (bktNum s))
      if gone.isSome then { b with st := .complete } else b)
    let a : Armed := { step := n, slot := unseated, wait := if gone.isSome then none else some (planOp s n d),
                       plan := s.stBytes (fld s.units.drctl 23 0 * 64) 64, herd := h.2, herdTag := h.1, btab := bs, base := base,
                       cg := (s.velvet (s.region d.oreg).velv).c, ready := false, flushed := (stepOf s n).any (fun x => x.stcl.isSome),
                       buckets := bk, final := [], emitted := if gone.isSome then bs.length else 0, maxabs := -128, ovfcnt := 0, flags := 0,
                       retried := false, absent := gone }
    let old := s.armed.filter (fun x => x.step ≠ n ∧ (!x.over ∨ (stepOf s x.step).isSome))
    openSlots (seatPlan { s with armed := old ++ [a], car := { s.car with slotBase := (base + bs.length) % Nat.max 1 (bktNum s) } } n)

/-! ### Reading a bucket (R331, R334) -/

/-- Store offset of a bucket's slot. -/
def slotAt (s : State) (k : Nat) : Nat := (bucketArea s.units).1 + k * (fld s.units.slay2 22 16 * mib)

/-- Units of a bucket's extent: its code units and its block-byte units. -/
def extentUnits (cap n : Nat) : List Nat := List.range n ++ (List.range (cdiv (2 * n) 64)).map (fun i => cap + i)

/-- Is every unit written? -/
def bucketFull (cap n : Nat) (b : Bucket) : Bool := (extentUnits cap n).all (fun u => u ∈ b.units)

/-- Code i of local block t; a unit that nothing has written reads as zero. -/
def bktCode (s : State) (b : Bucket) (t i : Nat) : Nat :=
  if t ∈ b.units then leNat (s.stBytes (slotAt s b.slot + 64 * t + i) 1) else 0

/-- Block byte of half h of local block t. -/
def bktByte (s : State) (cap : Nat) (b : Bucket) (t h : Nat) : Byte :=
  if cap + 2 * t / 64 ∈ b.units then (s.stBytes (slotAt s b.slot + 64 * cap + 2 * t + h) 1).headD 0 else 0

/-- Bucket gradient of local block t (R334). -/
def bktVals (s : State) (cap : Nat) (cg : Int) (b : Bucket) (t : Nat) : List Num :=
  (List.range 64).map (fun i => let bb := bktByte s cap b t (i / 32); decodeCode fK8 (bktCode s b t i) (cg + bbL bb + bbF bb))

/-- May a host write at a store offset go ahead: every bucket slot that it touches is filling (R323, R332)? -/
def bucketWritable (s : State) (o n : Nat) : Bool :=
  let a := bucketArea s.units
  let per := fld s.units.slay2 22 16 * mib
  if ¬ meets o n a.1 a.2 then true
  else (List.range (bktNum s)).all (fun k => !(meets o n (a.1 + k * per) per)
    || s.armed.any (fun x => x.buckets.any (fun b => b.slot = k && decide (b.st = .filling))))

/-! ### The residual (R335, R336, R344, R345) -/

/-- Does the armed step read and write residuals: RREG named, the step steady? -/
def residualOf (s : State) (a : Armed) : Option Region :=
  if stepGuarded s (some a.step) ∨ a.d.rreg = 0xFFF then none else some (s.region a.d.rreg)

/-- Block of RREG that belongs to plan block j. -/
def resBlock (a : Armed) (j : Nat) : Nat := a.d.first / 64 + j

/-- Residual of plan block j. -/
def resVals (s : State) (a : Armed) (r : Region) (j : Nat) : List Num := elemVals s r (coarseOf s (some a.step) r) (64 * resBlock a j) 64

/-- Write the residual of plan block j: a whole-block write (R104, R106, R107), or what a Hoof adder adds, which keeps L and asks for no carry
(R106); an overflow counts against RREG (R348). -/
def putResidual (s : State) (a : Armed) (r : Region) (j : Nat) (vals : List Num) (keepL : Bool) : State :=
  let b := resBlock a j
  let w := encBlock r.fmt r.strict (keepL || stepGuarded s (some a.step)) (coarseOf s (some a.step) r) (bbyteAt s r b) vals (fun E _ v => encode r.fmt r.strict E v)
  let s1 := putBB (putCodes s a.slot r b w.codes) a.slot r b w.bb
  let s2 := countVelvet s1 r.velv w.mag (w.encs.countP (fun e => e.unf)) (if w.overflowed then 1 else 0) (w.encs.countP (fun e => e.edge)) w.pend
  markStep s2 (some a.step) r.velv w.overflowed

/-- Add to the residual of plan block j (R344, R345). -/
def addResidual (s : State) (a : Armed) (j : Nat) (vals : List Num) : State :=
  match residualOf s a with
  | some r => putResidual s a r j ((List.zip (resVals s a r j) vals).map (fun e => Num.add e.1 e.2)) true
  | none => s

/-- Contribution x of local block t of a bucket (R335, step 1). -/
def contribVals (s : State) (cap : Nat) (a : Armed) (b : Bucket) (t : Nat) : List Num :=
  let g := bktVals s cap a.cg b t
  match residualOf s a with
  | some r => (List.zip g (resVals s a r (b.idx * cap + t))).map (fun e => Num.add e.1 e.2)
  | none => g

/-- Agree code of a contribution (R335, step 2). -/
def agreeCode (vals : List Num) : Int := logCode (maxMag vals)

/-! ### The grid of a selected block (R338, R339) -/

/-- The first K blocks in descending order of code, ties lower index first, then in ascending index. -/
def selectBlocks (global : List (Nat × Int)) (k : Nat) : List (Nat × Int) :=
  let ins := fun (x : Nat × Int) (l : List (Nat × Int)) =>
    (l.takeWhile (fun y => decide (x.2 < y.2) || (decide (x.2 = y.2) && decide (y.1 < x.1)))) ++ x ::
      (l.dropWhile (fun y => decide (x.2 < y.2) || (decide (x.2 = y.2) && decide (y.1 < x.1))))
  let top := (global.foldl (fun l x => ins x l) []).take k
  global.filter (fun x => x ∈ top)

/-- EXP of a selected block. -/
def gridExp (head : Nat) (q : Int) : Int := if q = -128 then 0 else q + 1 + head - 31

/-- A contribution on the grid 2^EXP, toward zero. -/
def c0Of (x : Int) (vals : List Num) : List (Option Int) := vals.map (fun v => v.at_ x)

/-- Codes shifted right toward zero. -/
def shiftC (k : Nat) (l : List (Option Int)) : List (Option Int) := l.map (fun o => o.map (fun v => Int.tdiv v (2 ^ k : Int)))

/-! ### Segments and positions (R326, R337) -/

/-- This device's position in the Herd. -/
def Armed.pos (a : Armed) (dev : Nat) : Nat := a.herd.idxOf dev
/-- Members. -/
def Armed.n (a : Armed) : Nat := a.herd.length
/-- First list index of segment s of a list of S items. -/
def segFirst (n S k : Nat) : Nat := k * S / n
/-- Segment of list index i. -/
def segOf (n S i : Nat) : Nat := ((List.range n).find? (fun k => decide (i < segFirst n S (k + 1)))).getD 0
/-- Device after this one. -/
def Armed.succ (a : Armed) (dev : Nat) : Nat := a.herd.getD ((a.pos dev + 1) % a.n) 0
/-- Device before this one. -/
def Armed.pred (a : Armed) (dev : Nat) : Nat := a.herd.getD ((a.pos dev + a.n - 1) % a.n) 0

/-! ### Ring packets (R349) -/

/-- A ring packet header (Table 12-5). -/
structure RingH where
  herd   : Nat
  step   : Nat
  bucket : Nat
  phase  : Nat
  lap    : Nat
  seg    : Nat
  hop    : Nat
  firsti : Nat
  count  : Nat
deriving DecidableEq, Repr

/-- Read a ring packet header. -/
def parseRing (b : List Byte) : RingH :=
  { herd := fieldAt b 0 4, step := fieldAt b 4 4, bucket := fieldAt b 8 2, phase := fieldAt b 10 1 % 4, lap := fieldAt b 11 1, seg := fieldAt b 12 2,
    hop := fieldAt b 14 2, firsti := fieldAt b 16 4, count := fieldAt b 20 4 }

/-- Bytes of a ring packet header. -/
def RingH.bytes (h : RingH) : List Byte :=
  leBytes 4 h.herd ++ leBytes 4 h.step ++ leBytes 2 h.bucket ++ leBytes 1 h.phase ++ leBytes 1 h.lap ++ leBytes 2 h.seg ++ leBytes 2 h.hop
    ++ leBytes 4 h.firsti ++ leBytes 4 h.count ++ List.replicate 8 0

/-- Lap number of a packet as this model counts laps: 0 the agree lap, 1 the reduce lap, k + 1 extra lap k. -/
def RingH.lapNo (h : RingH) : Nat := if h.phase < 2 then 0 else h.lap + 1

/-- Agree codes of a packet. -/
def ringCodes (h : RingH) (b : List Byte) : List Int := (List.range h.count).map (fun i => sbyteAt b (32 + i))
/-- G32 blocks of a packet. -/
def ringBlocks (h : RingH) (b : List Byte) : List G32 := (List.range h.count).map (fun i => parseG32 ((b.drop (32 + 272 * i)).take 272))

/-- Entries of a lap that fit one packet. -/
def perPacket (lap : Nat) : Nat := if lap = 0 then 4064 else 14

/-- What an entry list of a packet is made of: agree codes or G32 blocks. -/
inductive Entries where
  | codes (l : List Int)
  | blocks (l : List G32)
deriving DecidableEq, Repr

/-- Bytes of entries. -/
def Entries.bytes : Entries → List Byte
  | .codes l => let b := l.map (fun c => BitVec.ofNat 8 (uns 8 c)); b ++ List.replicate ((8 - b.length % 8) % 8) 0
  | .blocks l => l.flatMap g32Bytes

/-- Number of entries. -/
def Entries.count : Entries → Nat
  | .codes l => l.length
  | .blocks l => l.length

/-- The entries from the i-th, at most n. -/
def Entries.slice (i n : Nat) : Entries → Entries
  | .codes l => .codes ((l.drop i).take n)
  | .blocks l => .blocks ((l.drop i).take n)

/-- Send entries to the successor in as many packets as they need, keeping the packets for a Bleat. -/
def sendRing (s : State) (a : Armed) (b phase lap seg hop firsti : Nat) (es : Entries) : State :=
  let per := perPacket lap
  let n := cdiv es.count per
  (List.range n).foldl (fun s i =>
    let e := es.slice (per * i) per
    let h : RingH := { herd := a.herdTag, step := a.step, bucket := b, phase := phase, lap := lap - 1, seg := seg, hop := hop,
                       firsti := firsti + per * i, count := e.count }
    let k := { bare 0x0C s.dev (a.succ s.dev) 0 with step := BitVec.ofNat 32 a.step, payload := pad64 (h.bytes ++ e.bytes) }
    (sendPacket s k).onBucket a.step b (fun x => { x with sentPk := x.sentPk ++ [k] })) s

/-! ### Adding and deciding (R341, R342) -/

/-- Smallest ESC at or above `e0` at which every sum, shifted right by its excess over ESC, fits 31 bits. -/
def fitEsc (esc : Nat) (m : Nat) : Nat := esc + (bitLen m - 31)

/-- Add a contribution to a received block. -/
def addContrib (g : G32) (c0 : List (Option Int)) : G32 :=
  if g.escm then g
  else
    let c := shiftC g.esc c0
    let sums := (List.zip g.el c).map (fun e => match e.1, e.2 with | some x, some y => some (x + y) | _, _ => none)
    let top := sums.foldl (fun m o => match o with | some v => Nat.max m v.natAbs | none => m) 0
    let vp := g.voidp || sums.any Option.isNone
    if top ≤ 2147483647 then
      { g with el := sums, voidp := vp, contrib := g.contrib + 1, csum := (g.csum + csum c) % 2 ^ 32 }
    else
      let e := fitEsc g.esc top
      if e ≤ 63 ∧ g.exp + e ≤ 511 then { g with escm := true, esc := e }
      else { g with el := sums.map (fun o => o.map (fun v => (hold31 v).1)), voidp := vp, sat := true, contrib := g.contrib + 1,
                    csum := (g.csum + csum c) % 2 ^ 32 }

/-- The completer's decision: a checksum mismatch sets CONTRIB to zero. -/
def decideBlock (g : G32) : G32 :=
  if ¬ g.escm ∧ ¬ g.voidp ∧ ¬ g.sat ∧ g.csum ≠ csum g.el then { g with contrib := 0 } else g

/-- Does a distributed block fail the receiver's check (R342)? -/
def badBlock (n : Nat) (g : G32) : Bool :=
  !g.escm && decide (g.contrib = n) && !g.voidp && !g.sat && decide (g.csum ≠ csum g.el)

/-- Own block of a selected block, at the ESC that the list carries: EXP of R339, the saved codes shifted (R340, R343). A contribution that
does not itself fit 31 bits escalates as R341 states. -/
def ownBlock (b : Bucket) (blk esc : Nat) : G32 :=
  addContrib { exp := (aget b.sel blk).getD 0, esc := esc, sat := false, voidp := false, escm := false, csum := 0, block := blk, contrib := 0,
               el := List.replicate 64 (some 0) } ((aget b.c0 blk).getD [])

end Sys2Proof.Machine
end

