-- ==== Sys2Proof/Machine/Reduce.lean ====
section
/-!
DEFINITION. The laps of the dense reduction and the rows BUCKET_TRIGGER and FLUSH (R332, R333, R335-R345, R350-R353).
-/

namespace Sys2Proof.Machine

/-! ### Results (R345, R348) -/

/-- Convert one final block into its two output blocks. -/
def outputBlock (s : State) (a : Armed) (k : Nat) (g : G32) : State :=
  let r := s.region a.d.oreg
  let vals := g.el.map (fun o => match o with | some v => Num.fin v (g.exp + g.esc - a.d.oshift) | none => .void)
  (List.range 2).foldl (fun s h =>
    let w := encBlock r.fmt r.strict true a.cg 0 ((vals.drop (32 * h)).take 32) (fun E _ v => encode r.fmt r.strict E v)
    putBlockW s a.slot a.d.oreg r (2 * k + h) w false) s

/-- Write the output of the buckets that have completed with no gap before them, in ascending plan block index (R345, step 1). -/
def emitOutputs (s : State) (n : Nat) : Nat → State
  | 0 => s
  | fuel + 1 =>
    match armedOf s n with
    | none => s
    | some a =>
      match a.buckets[a.emitted]? with
      | some b =>
        if b.st = .complete then
          let base := sumNat ((a.buckets.take a.emitted).map (fun x => (a.final.filter (fun j => j / capOf s = x.idx)).length))
          let s1 := b.final.zipIdx.foldl (fun s e => outputBlock s a (base + e.2) e.1.2) s
          let s2 := (s1.onArmed n (fun x => { x with emitted := x.emitted + 1 })).onBucket n b.idx (fun x => { x with final := [] })
          emitOutputs s2 n fuel
        else s
      | none => s

/-- Write the selection bits of a bucket: set for the plan blocks that end final (R345, step 2). -/
def putBits (s : State) (d : PlanD) (first len : Nat) (final : List Nat) : State :=
  (List.range len).foldl (fun s t =>
    let j := first + t
    let o := d.aset + j / 8
    let x := leNat (s.stBytes o 1)
    s.stWrite o (leBytes 1 (setBits x (j % 8) (j % 8) (if j ∈ final then 1 else 0)))) s

/-- Write the running counts behind the bits. -/
def putCounts (s : State) (d : PlanD) (final : List Nat) : State :=
  (List.range (cdiv d.nblk 4096)).foldl (fun s k =>
    s.stWrite (d.aset + d.bitmapLen + 4 * k) (leBytes 4 (final.countP (fun j => j < 4096 * k)))) s

/-- The step's last bucket has completed: the counts, then the arming's slot goes free; its summary stays with the armed step. -/
def endArmed (s : State) (n : Nat) : State :=
  match armedOf s n with
  | none => s
  | some a =>
    if ¬ a.over then s
    else
      let s1 := putCounts s a.d a.final
      match s1.op a.slot with
      | some o =>
        if o.src = .plan then
          freeSlot (s1.onArmed n (fun x => { x with maxabs := o.maxabs, ovfcnt := x.ovfcnt + o.ovfcnt, flags := x.flags ||| o.flags })) a.slot false
        else s1
      | none => s1

/-- An overflow of OREG that the armed step reports (R348). -/
def oregOverflow (s : State) (a : Armed) (count : Nat) : State :=
  if count = 0 then s
  else (markStep s (some a.step) (s.region a.d.oreg).velv true).onArmed a.step (fun x => { x with ovfcnt := x.ovfcnt + count, flags := x.flags ||| 4 })

/-- A bucket completes: residual bits that ESC discarded, the bitmap, its slot, and whatever output is now due (R345). -/
def completeBucket (s : State) (n bi : Nat) : State :=
  match bucketOf s n bi with
  | none => s
  | some (a, b) =>
    let cap := capOf s
    let len := a.d.bucketLen cap bi
    let fin := b.final.map (fun e => bi * cap + e.1)
    let s1 := b.final.foldl (fun s e =>
      if e.2.esc = 0 then s
      else
        let c := (aget b.c0 e.1).getD []
        addResidual s a (bi * cap + e.1) (c.map (fun o => match o with
          | some v => Num.fin (v - Int.tdiv v (2 ^ e.2.esc : Int) * (2 ^ e.2.esc : Int)) e.2.exp
          | none => .fin 0 0))) s
    let sats := b.final.countP (fun e => e.2.sat)
    let s2 := oregOverflow s1 a sats
    let s3 := if sats = 0 then s2 else s2.onVelvet (s.region a.d.oreg).velv (fun v => { v with ovf := satAdd 32 v.ovf sats })
    let s4 := putBits s3 a.d (bi * cap) len fin
    let s5 := (s4.onBucket n bi (fun x => { x with st := .complete, c0 := [], got := [], global := [], codes := [] })).onArmed n
      (fun x => { x with final := x.final ++ fin })
    endArmed (emitOutputs (openSlots s5) n a.buckets.length) n

/-! ### Laps (R337-R344) -/

/-- Own entries of a slice of the lap's list. -/
def ownEntries (b : Bucket) (items : List (Nat × Nat)) : Entries :=
  if b.lap = 0 then .codes (items.map (fun e => b.codes.getD e.1 (-128)))
  else .blocks (items.map (fun e => ownBlock b e.1 e.2))

/-- Combine own entries into received ones. -/
def combineEntries (b : Bucket) (items : List (Nat × Nat)) : Entries → Entries
  | .codes l => .codes ((List.zip l items).map (fun e => logMax e.1 (b.codes.getD e.2.1 (-128))))
  | .blocks l => .blocks ((List.zip l items).map (fun e => addContrib e.1 ((aget b.c0 e.2.1).getD [])))

/-- The completer's decision on entries. -/
def decideEntries : Entries → Entries
  | .codes l => .codes l
  | .blocks l => .blocks (l.map decideBlock)

/-- Keep complete entries of a lap; a second copy changes nothing. -/
def keepEntries (b : Bucket) (items : List (Nat × Nat)) : Entries → Bucket
  | .codes l => { b with global := b.global ++ ((items.zip l).filter (fun e => !(b.global.any (fun x => x.1 = e.1.1)))).map (fun e => (e.1.1, e.2)) }
  | .blocks l => { b with got := b.got ++ ((items.zip l).filter (fun e => !(b.got.any (fun x => x.1 = e.1.1)))).map (fun e => (e.1.1, e.2)) }

/-- Phase number of a lap's reduce or distribute phase. -/
def phaseNo (lap : Nat) (dist : Bool) : Nat := (if lap = 0 then 0 else 2) + (if dist then 1 else 0)

/-- Begin a lap: this home sends its own segment; a Herd of one completes its list at once (R326, R337). -/
def startLap (s : State) (n bi : Nat) : State :=
  match bucketOf s n bi with
  | none => s
  | some (a, b) =>
    if a.n ≤ 1 then s.onBucket n bi (fun x => keepEntries x x.items (decideEntries (ownEntries x x.items)))
    else
      let p := a.pos s.dev
      let f := segFirst a.n b.items.length p
      let seg := (b.items.drop f).take (segFirst a.n b.items.length (p + 1) - f)
      if seg = [] then s else sendRing s a bi (phaseNo b.lap false) b.lap p 0 f (ownEntries b seg)

/-- Has the device every item of the lap? -/
def lapDone (b : Bucket) : Bool := if b.lap = 0 then b.global.length = b.items.length else b.got.length = b.items.length

/-- Sort pairs by their first part. -/
def sortFst {α : Type} (l : List (Nat × α)) : List (Nat × α) :=
  l.foldr (fun x acc => (acc.takeWhile (fun y => decide (y.1 < x.1))) ++ x :: (acc.dropWhile (fun y => decide (y.1 < x.1)))) []

/-- What a block leaves in the residual: the remainder of a selected block's contribution, the whole of another's (R336). -/
def remainder (vals : List Num) (x : Option Int) (c0 : List (Option Int)) : List Num :=
  match x with
  | none => vals
  | some x => (List.zip vals c0).map (fun q => match q.2 with | some v => Num.sub q.1 (.fin v x) | none => q.1)

/-- The agree lap is over: select, run pass 2, go on to the reduce lap (R336, R338, R339). -/
def passTwo (s : State) (n bi : Nat) : State :=
  match bucketOf s n bi with
  | none => s
  | some (a, b) =>
    let cap := capOf s
    let len := a.d.bucketLen cap bi
    let sel : List (Nat × Int) := (selectBlocks (sortFst b.global) (selectK len (denOf (a.btab.getD bi 0)))).map (fun e => (e.1, gridExp a.d.head e.2))
    let xs : List (Nat × List Num) := (List.range len).map (fun t => (t, contribVals s cap a b t))
    let c0 : List (Nat × List (Option Int)) := sel.map (fun e => (e.1, c0Of e.2 ((aget xs e.1).getD [])))
    let s1 : State := match residualOf s a with
      | none => s
      | some r => xs.foldl (fun s (e : Nat × List Num) => putResidual s a r (bi * cap + e.1) (remainder e.2 (aget sel e.1) ((aget c0 e.1).getD [])) false) s
    startLap (s1.onBucket n bi (fun x => { x with lap := 1, codes := [], sel := sel, c0 := c0, items := sel.map (fun (e : Nat × Int) => (e.1, 0)), got := [] })) n bi

/-- Keep a block back (R344): its contribution returns to the residual, counted and logged. -/
def keepBack (s : State) (a : Armed) (b : Bucket) (blk : Nat) : State :=
  let j := b.idx * capOf s + blk
  let x := (aget b.sel blk).getD 0
  let s1 := addResidual s a j (((aget b.c0 blk).getD []).map (fun o => match o with | some v => Num.fin v x | none => .fin 0 0))
  addLog { s1 with units := { s1.units with drcnt := bump s1.units.drcnt 47 32 1 } } 5 0x0107 a.d.preg j

/-- A reduce or extra lap is over: final blocks, blocks that escalate or repeat, blocks kept back (R343, R344). -/
def endBlocks (s : State) (n bi : Nat) : State :=
  match bucketOf s n bi with
  | none => s
  | some (a, b) =>
    let got := sortFst b.got
    let esc := got.filter (fun e => e.2.escm)
    let rep := got.filter (fun e => !e.2.escm && decide (e.2.contrib = 0))
    let again := rep.filter (fun e => e.1 ∉ b.repeated)
    let back := rep.filter (fun e => e.1 ∈ b.repeated)
    let fin := got.filter (fun e => !e.2.escm && decide (e.2.contrib ≠ 0))
    let s1 := back.foldl (fun s e => keepBack s a b e.1) s
    let s2 := { s1 with units := { s1.units with drcnt := bump (bump s1.units.drcnt 15 0 esc.length) 31 16 again.length } }
    let s3 := if fin.any (fun e => decide (e.1 ∈ b.repeated)) then s2.onArmed n (fun x => { x with retried := true }) else s2
    let next := sortFst ((esc ++ again).map (fun e => (e.1, e.2.esc)))
    let s4 := s3.onBucket n bi (fun x => { x with final := sortFst (x.final ++ fin), repeated := x.repeated ++ again.map Prod.fst,
                                                  kept := x.kept ++ back.map Prod.fst, got := [], items := next, lap := x.lap + 1 })
    if next = [] then completeBucket s4 n bi else startLap s4 n bi

/-- Go from lap to lap while the laps are complete. -/
def advanceLaps (s : State) (n bi : Nat) : Nat → State
  | 0 => s
  | fuel + 1 =>
    match bucketOf s n bi with
    | some (_, b) =>
      if b.st = .reducing ∧ lapDone b then advanceLaps (if b.lap = 0 then passTwo s n bi else endBlocks s n bi) n bi fuel else s
    | none => s

/-- Laps that one command can complete: an escalating block raises ESC each time. -/
def lapFuel : Nat := 256

/-! ### Ring packets (R342, R349, R350) -/

/-- Discard a ring packet and record it. -/
def discardRing (s : State) (k : Packet) : State := addLog s 6 0x0203 0xFFFF k.src.toNat

/-- Ask the predecessor for a ring packet again (R342, R370). -/
def bleatRing (s : State) (a : Armed) (k : Packet) : State :=
  sendPacket s { bare 0x12 s.dev (a.pred s.dev) 0 with
    payload := leBytes 1 0x0C ++ leBytes 1 0 ++ leBytes 2 k.part.toNat ++ leBytes 2 k.ticket.toNat ++ leBytes 2 k.src.toNat ++ List.replicate 24 0
      ++ k.payload.take 32 }

/-- Take entries of a phase (R337, R340-R342). -/
def takeRing (s : State) (p : Nat) (a : Armed) (b : Bucket) (h : RingH) (k : Packet) : State :=
  let items := (b.items.drop h.firsti).take h.count
  let es : Entries := if b.lap = 0 then .codes (ringCodes h k.payload) else .blocks (ringBlocks h k.payload)
  let me := a.pos s.dev
  if h.phase % 2 = 0 then
    let c := combineEntries b items es
    if me = (h.seg + a.n - 1) % a.n then
      let d := decideEntries c
      sendRing (s.onBucket a.step b.idx (fun x => keepEntries x items d)) a b.idx (phaseNo b.lap true) b.lap h.seg 0 h.firsti d
    else sendRing s a b.idx h.phase b.lap h.seg (h.hop + 1) h.firsti c
  else
    let bad := match es with | .blocks l => l.any (badBlock a.n) | .codes _ => false
    if bad then
      let hdr := k.payload.take 32
      let s1 := if hdr ∈ b.bleated then portFault s p else s.onBucket a.step b.idx (fun x => { x with bleated := x.bleated ++ [hdr] })
      if s1.failstop then s1 else bleatRing s1 a k
    else
      let s1 := s.onBucket a.step b.idx (fun x => keepEntries x items es)
      if me = (h.seg + a.n - 2) % a.n then s1 else sendRing s1 a b.idx h.phase b.lap h.seg (h.hop + 1) h.firsti es

/-- Is the packet a copy of one already worked on? -/
def ringSeen (b : Bucket) (a : Armed) (me : Nat) (h : RingH) : Bool :=
  let first := (b.items.drop h.firsti).headD (0, 0)
  if h.phase % 2 = 1 ∨ me = (h.seg + a.n - 1) % a.n then
    (if b.lap = 0 then b.global.any (fun x => x.1 = first.1) else b.got.any (fun x => x.1 = first.1))
  else b.sentPk.any (fun q => parseRing q.payload = { h with hop := h.hop + 1 })

/-- Does a packet fit the Herd, this position and the lap's list? -/
def ringFits (s : State) (a : Armed) (b : Bucket) (h : RingH) (k : Packet) : Bool :=
  let me := a.pos s.dev
  decide (a.herdTag = h.herd) && decide (2 ≤ a.n) && decide (k.src.toNat = a.pred s.dev) && decide (h.seg < a.n) && decide (h.hop + 2 ≤ a.n)
  && decide (me = (h.seg + h.hop + (if h.phase % 2 = 0 then 1 else 0)) % a.n)
  && (decide (h.lapNo ≠ b.lap) || (decide (1 ≤ h.count) && decide (h.firsti + h.count ≤ b.items.length)
      && decide (32 + h.count * (if b.lap = 0 then 1 else 272) ≤ k.payload.length)))

/-- A ring packet reaches this member (R350); the bucket whose lap it may complete goes on. -/
def ringTake (s : State) (p : Nat) (k : Packet) : State :=
  let h := parseRing k.payload
  match bucketOf s h.step h.bucket with
  | some (a, b) =>
    if ¬ ringFits s a b h k ∨ a.absent.isSome then discardRing s k
    else if b.st = .waiting ∨ b.st = .filling then { s with fab := { s.fab with rings := s.fab.rings ++ [(p, k)] } }
    else if b.st = .complete ∨ h.lapNo < b.lap then discardRing s k
    else if b.lap < h.lapNo then { s with fab := { s.fab with rings := s.fab.rings ++ [(p, k)] } }
    else if ringSeen b a (a.pos s.dev) h then s
    else advanceLaps (takeRing s p a b h k) h.step h.bucket lapFuel
  | none =>
    match s.armed.getLast? with
    | some a => if a.herdTag = h.herd ∧ h.step = (a.step + 1) % 2 ^ 32 then { s with fab := { s.fab with rings := s.fab.rings ++ [(p, k)] } }
                else discardRing s k
    | none => discardRing s k

/-- Present every held packet once more. -/
def retryOnce (s : State) : State :=
  s.fab.rings.foldl (fun s e => ringTake s e.1 e.2) { s with fab := { s.fab with rings := [] } }

/-- Present held packets until none of them can be taken. -/
def retryRings (s : State) : State := times retryOnce s.fab.rings.length s

/-! ### BUCKET_TRIGGER -/

/-- Has the arming of a step passed the scoreboard (R330)? -/
def armedReady (s : State) (a : Armed) : Bool :=
  a.ready || (a.wait.isNone && match s.op a.slot with | some o => !(rangeBlocked s o) | none => false)

/-- BUCKET_TRIGGER (R332, R333, R335): a filling bucket that is full under AUTO, or that FLUSH, STCL or ABORT triggers, starts reducing. The first
one of its step dispatches the arming: from then on no operation that uses its ranges starts before it has ended (R32). -/
def bucketTrigger (s : State) (n bi : Nat) : State :=
  let s := seatPlans s
  match bucketOf s n bi with
  | none => s
  | some (a, b) =>
    let cap := capOf s
    let len := a.d.bucketLen cap bi
    if s.live ∧ b.st = .filling ∧ a.absent = none ∧ armedReady s a
        ∧ (a.flushed ∨ (autoOf (a.btab.getD bi 0) ∧ bucketFull cap len b)) then
      let inovf := sumNat ((List.range len).map (fun t => (List.range 2).countP (fun h => bbOvf (bktByte s cap b t h))))
      let s1 := oregOverflow { s with units := { s.units with drcnt := bump s.units.drcnt 63 48 inovf } } a inovf
      let codes := (List.range len).map (fun t => agreeCode (contribVals s cap a b t))
      let s2 := ((s1.onOp a.slot (fun p => { p with phase := .running })).onArmed n (fun x => { x with ready := true })).onBucket n bi (fun x =>
        { x with st := .reducing, codes := codes, lap := 0, items := (List.range len).map (fun t => (t, 0)), global := [] })
      retryRings (advanceLaps (startLap s2 n bi) n bi lapFuel)
    else s

/-- BUCKET_TRIGGER. -/
def execBucketTrigger (n : W32) (b : BitVec 12) (s : State) : Host.Outcome State Fault Refusal := commit s (bucketTrigger s n.toNat b.toNat)

/-! ### FLUSH (R333, R351-R353) -/

/-- Do REGION and DOFF of a FLUSH name the armed plan (R333)? -/
def flushNames (s : State) (a : Armed) (o : Op) : Bool := decide (o.region = a.d.preg) && decide (o.doff = fld s.units.drctl 23 0)

/-- Acceptance of a FLUSH: a plan armed for its step, which it names. Before the opening of its step there is none to name yet; the note of the
operation says that the check is made. -/
def flushCheck (s : State) (o : Op) : Chk :=
  if ¬ stepReady s o then .ok [] [] [] []
  else match o.step.bind (armedOf s) with
    | some a => if flushNames s a o then .ok [] [] [] [1] else .illegal
    | none => .illegal

/-- The operation with the ranges of the reduction whose result it reports: what faults have done to them degrades it (R168, R408). -/
def Op.overPlan (o : Op) (s : State) (a : Armed) : Op := { o with ranges := recordRanges (planRanges s a.d) }

/-- Work of a FLUSH: trigger what is left, and end when every bucket has completed. -/
def flushStep (s : State) (t : Nat) (o : Op) : State :=
  match o.step.bind (armedOf s) with
  | none => endIllegal s t
  | some a =>
    if o.prog = [] ∧ ¬ flushNames s a o then endIllegal s t
    else
      let s1 := (s.onOp t (fun p => { p with prog := [1] })).onArmed a.step (fun x => { x with flushed := true })
      match a.absent with
      | some d => endWork s1 t 0x12 d
      | none =>
        if ¬ a.over then s1
        else
          let s2 := s1.onOp t (fun p => { p with count := a.final.length, maxabs := a.maxabs, ovfcnt := a.ovfcnt, flags := a.flags, retried := a.retried,
                                                 degraded := p.degraded || touchesPatched s (o.overPlan s a) })
          if o.aborted then endAborted s2 t a.buckets.length else endWork s2 t 0 0

/-- FLUSH. -/
def execFlush (t : SlotId) (s : State) : Host.Outcome State Fault Refusal :=
  commit s (opRow s t.toNat 0x50 (fun _ _ => true) flushCheck (fun s o => flushStep s t.toNat o))

/-- Absent members (R351): every armed step whose Herd has the device stops waiting for laps. -/
def abandonHerds (s : State) (d : Nat) : State :=
  (s.armed.filter (fun a => decide (d ∈ a.herd) && !a.over)).foldl (fun s a =>
    let s1 := s.onArmed a.step (fun x => { x with wait := none, absent := some (x.absent.getD d), buckets := x.buckets.map (fun b => { b with st := .complete, c0 := [] }) })
    match s1.op a.slot with
    | some o => if o.src = .plan then openSlots (freeSlot s1 a.slot false) else s1
    | none => s1) s

/-- Round A counted fewer members than the Herd: the step's bitmap is cleared (R351). -/
def clearBitmap (s : State) (n members : Nat) : State :=
  match armedOf s n with
  | some a => if members < a.n then s.stWrite a.d.aset (List.replicate a.d.areaLen 0) else s
  | none => s

end Sys2Proof.Machine
end

