-- ==== Sys2Proof/Machine/GraphOps.lean ====
section
/-!
DEFINITION. Graph operations that several rows share: shard tables (R267, R268), sub-operations and their requests (R273, R281, R367),
draws over adjacency (R269-R274), re-expressed rows and Trail records (R276, R277), combined lists (R279, R280), remote parts (PREQ).
-/

namespace Sys2Proof.Machine

/-! ### Shard tables -/

/-- A shard table entry (Table 10-1). -/
structure Shard where
  first : Nat
  dev   : Nat
  reg   : Nat
  aux0  : Nat
  aux1  : Nat
  roff  : Nat
deriving DecidableEq, Repr

/-- Read a shard table entry. -/
def parseShard (b : List Byte) : Shard :=
  { first := fieldAt b 0 6, dev := fieldAt b 6 2 % 4096, reg := fieldAt b 8 2 % 4096, aux0 := fieldAt b 10 2 % 4096,
    aux1 := fieldAt b 12 2 % 4096, roff := fieldAt b 16 6 }

/-- The n entries of a table in the bytes after an operation's descriptor. -/
def shardsOf (bs : List Byte) (n : Nat) : List Shard := (List.range n).map (fun i => parseShard ((bs.drop (32 * i)).take 32))

/-- Does FIRST rise strictly? -/
def rising : List Shard → Bool
  | a :: b :: l => decide (a.first < b.first) && rising (b :: l)
  | _ => true

/-- A table without reserved encodings (R267). -/
def shardsOk (l : List Shard) : Bool := decide (1 ≤ l.length) && decide (l.length ≤ 4096) && decide ((l.headD (parseShard [])).first = 0) && rising l

/-- The entry of logical index i (R268): its number and itself. -/
def shardFor (l : List Shard) (i : Nat) : Option (Nat × Shard) := (l.zipIdx.reverse.find? (fun e => e.1.first ≤ i)).map (fun e => (e.2, e.1))

/-- Local index of logical index i. -/
def Shard.loc (h : Shard) (i : Nat) : Nat := h.roff + i - h.first

/-- Who serves region `reg` of a device now (R268, R381): the device, and whether it stands in as the mirror; none when the device is absent
without a mirror, which this device's own descriptor shows where the directory names it. -/
def serverOf (s : State) (dev reg : Nat) : Option (Nat × Bool) :=
  match liveTarget s dev true with
  | some d =>
    let r := s.region reg
    if d = s.dev ∧ d ≠ dev ∧ ¬ (r.mv ∧ r.mirror = dev) then none else some (d, decide (d ≠ dev))
  | none => none

/-! ### Sub-operations (R367) -/

/-- Presented tenant of an operation's stream (R373). -/
def tenantOf (s : State) (o : Op) : Nat := match s.strm o.stream with | some k => k.tenant | none => 0

/-- Header of a request of an operation: kind, destination, ticket, key, address. -/
def reqHeader (s : State) (o : Op) (ticket kind dst akey addr : Nat) : Packet :=
  { bare kind s.dev dst ticket with sstr := BitVec.ofNat 20 o.stream, tenant := BitVec.ofNat 4 (tenantOf s o),
                                    step := BitVec.ofNat 32 (o.step.getD 0xFFFFFFFF), addr := BitVec.ofNat 52 addr, akey := BitVec.ofNat 32 akey }

/-- AKEY of the local region that an operation's engine word names (R373). -/
def regionKey (s : State) (o : Op) : Nat := match o.img o.region with | some r => r.akey | none => (s.region o.region).akey

/-- Give a sub-operation of the operation in slot t its own slot, running. -/
def allocSub (s : State) (t : Nat) (o : Op) (opc var count : Nat) (prog : List Nat) (dst : Nat) : Option (State × Nat) :=
  let q := { o with opc := opc, var := var, src := .sub t, phase := .running, crec := false, hold := false, ranges := [], desc := [],
                    count := count, prog := prog, status := 0, maxabs := -128, ovfcnt := 0, flags := 0, detail := 0, voids := none,
                    trapped := false, retried := false, degraded := false, aborted := false, progress := 1, done := [], reports := [],
                    subs := 0, subst := [], writes := [], tabs := [], rowBlks := [], recs := 0, heldRows := [], dispAt := 0, doneAt := 0 }
  match allocOp s q [dst] with
  | some (s1, u) => some (s1.onOp t (fun p => { p with subs := p.subs + 1 }), u)
  | none => none

/-- A sub-operation has completed: its parent takes the first status in the order of R168, the lowest absent device of all (Table 6-10), the
rows it counted and what else it reports; a trap of its own is its parent's (R175). -/
def subReport (s : State) (t : Nat) (o : Op) : State :=
  let st := finalStatus o
  s.onOp t (fun p => { p with subs := p.subs - 1, status := statusMin p.status st,
                              detail := if statusRank st < statusRank p.status ∧ 0x10 ≤ st then o.detail
                                else if st = 0x12 ∧ p.status = 0x12 then Nat.min p.detail o.detail else p.detail,
                              count := p.count + (if o.opc = 0x15 ∧ st < 0x10 then o.count else 0),
                              flags := p.flags ||| o.flags, ovfcnt := p.ovfcnt + o.ovfcnt,
                              maxabs := logMax p.maxabs o.maxabs, trapped := p.trapped || o.trapped })

/-- Note that part of an operation ended with a status (R268). -/
def partFails (s : State) (t st detail : Nat) : State :=
  s.onOp t (fun p => { p with status := statusMin p.status st, detail := if statusRank st < statusRank p.status then detail
                                else if st = 0x12 ∧ p.status = 0x12 then Nat.min p.detail detail else p.detail })

/-- Note that an operation was served by a mirror (R377). -/
def markDegraded (s : State) (t : Nat) : State := s.onOp t (fun p => { p with degraded := true })

/-! ### Adjacency and draws (R269-R274) -/

/-- What drawing one node's children needs. -/
structure DrawSpec where
  weighted : Bool
  repl : Bool
  fan  : Nat
  tm   : Nat
  te   : Int
  topk : Nat
  topp : Nat
  tag  : Nat
  hop  : Nat
  step : Nat
  key  : Nat
deriving DecidableEq, Repr

/-- Result of drawing one node's children: entries, CLIPPED, EMPTY, SHORT, ADDR_ERROR, a decreasing offset. -/
structure Kids where
  out  : List Nat
  clip : Bool
  empty : Bool
  short : Bool
  bad  : Bool
  dec  : Bool
deriving DecidableEq, Repr

/-- The absent entry (R272). -/
def absentEntry : Nat := 2 ^ 64 - 1

/-- An index, seed or sample entry (R272): its low 48 bits, unless it is the absent entry. -/
def entryNode (v : Nat) : Nat := if v = absentEntry then v else v % 2 ^ 48

/-- The entry at a store offset. -/
def entryAt (s : State) (o : Nat) : Nat := entryNode (leNat (s.stBytes o 8))

/-- The largest edge count of a draw that reads entries (R270). -/
def edgeLimit : Nat := 16777215

/-- Are the regions of an adjacency shard fit for use (R269)? -/
def adjacencyOk (s : State) (off edge : Region) (score : Option Region) : Bool :=
  regionOk s off && decide (off.fmt = fRAW) && decide (off.raww = 8) && regionOk s edge && decide (edge.fmt = fRAW) && decide (edge.raww = 6)
  && (match score with | some r => regionOk s r && (r.fmt = fK8 || r.fmt = fL8) && !r.stg | none => true)

/-- Offset entry n. -/
def offsetAt (s : State) (off : Region) (n : Nat) : Nat := leNat (rdLocal s (off.base + 8 * n) 6)
/-- Edge entry e. -/
def edgeAt (s : State) (edge : Region) (e : Nat) : Nat := leNat (rdLocal s (edge.base + 6 * e) 6)

/-- Draw the children of logical node v, local node n (R270, R273, R274). A result 0xFFFF_FFFF of the draw is an absent entry, and sets SHORT. -/
def drawKids (s : State) (off edge : Region) (score : Option Region) (v n : Nat) (d : DrawSpec) : Kids :=
  if off.length ≤ n + 1 then { out := List.replicate d.fan absentEntry, clip := false, empty := false, short := false, bad := true, dec := false }
  else
    let a := offsetAt s off n
    let b := offsetAt s off (n + 1)
    let deg := b - a
    let lim := if d.weighted ∨ ¬ d.repl then Nat.min deg edgeLimit else deg
    let u := fun j => drxU (dritex d.key (drxCtr v d.step 3 (d.tag * 2 ^ 14 + j * 16 + d.hop)))
    if deg = 0 then { out := List.replicate d.fan absentEntry, clip := false, empty := true, short := false, bad := false, dec := decide (b < a) }
    else if edge.length < a + lim ∨ score.any (fun r => r.length < a + lim) then
      { out := List.replicate d.fan absentEntry, clip := false, empty := false, short := false, bad := true, dec := false }
    else
      let r := match score with
        | some sc => draw ((List.range lim).map (fun i => (i, elemVal s sc (s.velvet sc.velv).c (a + i))))
            { tm := d.tm, te := d.te, topk := d.topk, topp := d.topp, draws := d.fan, repl := d.repl } u
        | none => drawUniform lim d.fan d.repl u
      let gone := fun i => decide (i = noIdx) && (score.isSome || !d.repl || r.empty)
      { out := r.out.map (fun i => if gone i then absentEntry else edgeAt s edge (a + i)),
        clip := decide (lim < deg), empty := r.empty, short := r.short || r.out.any gone, bad := false, dec := false }

/-- Local address of the first entry that the draw of local node n needs and its shard does not hold (R165, R268). -/
def missAddr (s : State) (off edge : Region) (score : Option Region) (n : Nat) : Nat :=
  if off.length ≤ n + 1 then off.base + 8 * Nat.max n off.length
  else
    let a := offsetAt s off n
    match score with
    | some r => if edge.length < r.length then edge.base + 6 * Nat.max a edge.length else r.base + Nat.max a r.length
    | none => edge.base + 6 * Nat.max a edge.length

/-- Local address of row n of a region (R165). -/
def rowAddr (r : Region) (roww n : Nat) : Nat := r.base + n * roww * codeBits r.fmt / 8

/-- Fields of a SMP descriptor (Table 10-3). -/
structure SmpD where
  seedl : Nat
  nseed : Nat
  outl  : Nat
  shard : Nat
  nsh   : Nat
  hops  : Nat
  weighted : Bool
  repl  : Bool
  fans  : List Nat
  tm    : Nat
  te    : Int
  topk  : Nat
  topp  : Nat
  tag   : Nat
  raw19 : Nat
deriving DecidableEq, Repr

/-- Read a SMP descriptor. -/
def parseSmp (b : List Byte) : SmpD :=
  { seedl := fieldAt b 0 4 % 2 ^ 24 * 64, nseed := fieldAt b 4 4 % 2 ^ 24, outl := fieldAt b 8 4 % 2 ^ 24 * 64,
    shard := fieldAt b 12 4 % 2 ^ 24 * 64, nsh := fieldAt b 16 2, hops := fieldAt b 18 1, weighted := bitAt (fieldAt b 19 1) 0,
    repl := bitAt (fieldAt b 19 1) 1, fans := (List.range 4).map (fun i => fieldAt b (20 + 2 * i) 2 % 2048), tm := fieldAt b 28 2,
    te := sbyteAt b 30, topk := fieldAt b 32 2 % 2048, topp := fieldAt b 34 2, tag := fieldAt b 36 4 % 2 ^ 26, raw19 := fieldAt b 19 1 }

/-- Entries of hop h of a tree: 1, F1, F1 F2, ... -/
def SmpD.width (d : SmpD) (h : Nat) : Nat := (d.fans.take h).foldl (· * ·) 1
/-- First position O_h of hop h. -/
def SmpD.start (d : SmpD) (h : Nat) : Nat := sumNat ((List.range h).map d.width)
/-- T of R272. -/
def SmpD.tree (d : SmpD) : Nat := d.start (d.hops + 1)

/-- Is a SMP descriptor free of reserved encodings (R271)? T, K and P belong to a weighted one (R139). -/
def SmpD.ok (d : SmpD) : Bool :=
  decide (1 ≤ d.nseed) && decide (1 ≤ d.nsh) && decide (d.nsh ≤ 4096) && decide (1 ≤ d.hops) && decide (d.hops ≤ 4)
  && (d.fans.zipIdx).all (fun e => if e.2 < d.hops then decide (1 ≤ e.1) && decide (e.1 ≤ 1024) else decide (e.1 = 0))
  && (!d.weighted || (decide (d.tm < 32768) && decide (d.topk ≤ 1024) && decide (d.topp < 32768)))
  && decide (d.nseed * d.tree ≤ 2 ^ 32 - 1)

/-- Store offset of sample entry k. -/
def SmpD.entry (d : SmpD) (k : Nat) : Nat := d.outl + 64 + 8 * k

/-- Draw parameters of hop h for an operation. -/
def SmpD.spec (d : SmpD) (h step key : Nat) : DrawSpec :=
  { weighted := d.weighted, repl := d.repl, fan := d.fans.getD (h - 1) 1, tm := d.tm, te := d.te, topk := d.topk, topp := d.topp,
    tag := d.tag, hop := h, step := step, key := key }

/-- Draw a node of a shard on this device. -/
def drawHere (s : State) (rg : Regs) (h : Shard) (v : Nat) (d : DrawSpec) : Kids :=
  drawKids s (rg h.reg) (rg h.aux0) (if d.weighted then some (rg h.aux1) else none) v (h.loc v) d

/-- Die of the Antler that draws local node n of a shard: the Hoof that holds the node's offset entry records what it finds (R53, R270). -/
def drawDie (s : State) (off : Region) (n : Nat) : Die :=
  match spaceAt s (off.base + 8 * n) with
  | some p => hoofDie ((hoofList p.hset).getD (place p (off.base + 8 * n)).pos 0)
  | none => .central

/-! ### Rows of a gather (R276) -/

/-- A gathered row as it travels: codes, block bytes relative to CD, elements that reached zero. -/
structure GRow where
  codes : List Nat
  bbs   : List Byte
  unf   : Nat
deriving DecidableEq, Repr

/-- F' of R276. -/
def gthF (C CD : Int) (bb : Byte) : Int := Max.max (-8) (Min.min 7 (bbF bb + bbL bb + C - CD))

/-- Local row n of a region re-expressed at CD (R276). -/
def gatherRow (s : State) (r : Region) (C CD : Int) (roww n : Nat) : GRow :=
  let bl := (List.range (roww / r.B)).map (fun k =>
    let b := n * roww / r.B + k
    let bb := bbyteAt s r b
    let E := C + bbL bb + bbF bb
    let F := gthF C CD bb
    let cs := (List.range r.B).map (fun i => codeAt s r (b * r.B + i))
    if CD + F = E then (cs, blockByte F 0 false (bbVp bb), 0)
    else
      let es := reexpress r.fmt false E (CD + F) cs
      (es.map (fun e => e.code), blockByte F 0 (es.any (fun e => e.ovf)) (bbVp bb), es.countP (fun e => e.unf)))
  { codes := bl.flatMap (fun x => x.1), bbs := bl.map (fun x => x.2.1), unf := sumNat (bl.map (fun x => x.2.2)) }

/-- Bytes of a record: elements, then block bytes. -/
def rowBytes (fmt : Nat) (g : GRow) : List Byte := packCodes fmt g.codes ++ g.bbs

/-- Bytes of a record of a format. -/
def recordSize (fmt n B : Nat) : Nat := n * codeBits fmt / 8 + n / B

/-- A row read back from record bytes. -/
def parseRow (fmt n B : Nat) (bs : List Byte) : GRow :=
  let eb := n * codeBits fmt / 8
  { codes := (List.range n).map (fun i => if codeBits fmt = 4 then bits (fieldAt bs (i / 2) 1) (4 * (i % 2) + 3) (4 * (i % 2))
                                            else fieldAt bs (i * (codeBits fmt / 8)) (codeBits fmt / 8)),
    bbs := (bs.drop eb).take (n / B), unf := 0 }

/-- The Trail record of a gather index (Table 10-5). -/
def trailBytes (row shard lrow : Nat) (absent mirror : Bool) : List Byte :=
  leBytes 8 (row % 2 ^ 48 + shard % 4096 * 2 ^ 48 + (if absent then 2 ^ 60 else 0) + (if mirror then 2 ^ 61 else 0)) ++ leBytes 8 (lrow % 2 ^ 48)

/-- Fields of a GTH descriptor (Table 10-4). -/
structure GthD where
  idxl  : Nat
  nidx  : Nat
  shard : Nat
  nsh   : Nat
  dkind : Nat
  cd    : Int
  trail : Option Nat
  mmad  : Nat
  dst   : Nat
  dstr  : Nat
  roww  : Nat
deriving DecidableEq, Repr

/-- Read a GTH descriptor. -/
def parseGth (b : List Byte) : GthD :=
  { idxl := fieldAt b 0 4 % 2 ^ 24 * 64, nidx := fieldAt b 4 4 % 2 ^ 24, shard := fieldAt b 8 4 % 2 ^ 24 * 64, nsh := fieldAt b 12 2,
    dkind := fieldAt b 14 1 % 4, cd := sbyteAt b 15,
    trail := if fieldAt b 16 4 % 2 ^ 24 = 0xFFFFFF then none else some (fieldAt b 16 4 % 2 ^ 24 * 64), mmad := fieldAt b 20 4 % 2 ^ 24 * 64,
    dst := fieldAt b 24 8, dstr := fieldAt b 32 4, roww := fieldAt b 36 2 }

/-! ### Remote parts (PREQ): the issuing descriptor, then the part's index entries (Table 13-3). The spec gives no layout for what the target
needs beside them: 64 bytes between the two hold the engine word, the shard's table entry, and format, block size and hop (DESIGN CHOICE,
notes/assumptions/19) -/

/-- The engine word of an operation as a part carries it (Table 6-7): the target records and keeps nothing for it. -/
def partWordBytes (o : Op) (opc : Nat) : List Byte :=
  leBytes 16 (0x3F + opc * 2 ^ 6 + o.var * 2 ^ 14 + (if o.fb then 2 ^ 39 else 0) + o.region * 2 ^ 44 + o.doff * 2 ^ 64 + o.imm * 2 ^ 96)

/-- A shard table entry (Table 10-1). -/
def shardBytes (h : Shard) : List Byte :=
  leBytes 6 h.first ++ leBytes 2 h.dev ++ leBytes 2 h.reg ++ leBytes 2 h.aux0 ++ leBytes 2 h.aux1 ++ leBytes 2 0 ++ leBytes 6 h.roff ++ leBytes 10 0

/-- What a part says before its index entries. -/
def partDesc (o : Op) (hop opc : Nat) (h : Shard) (r : Region) : List Byte :=
  (o.desc.take 64) ++ partWordBytes o opc ++ shardBytes h ++ leBytes 1 r.fmt ++ leBytes 1 r.bsz ++ leBytes 1 hop ++ leBytes 13 0

/-- The engine word of a part. -/
def partWord (b : List Byte) : EWord := parseEWord (leNat ((b.drop 64).take 16))
/-- The shard of a part. -/
def partShard (b : List Byte) : Shard := parseShard ((b.drop 80).take 32)
/-- Format and block size of a part's rows. -/
def partForm (b : List Byte) : Nat × Nat := (fieldAt b 112 1, fieldAt b 113 1)
/-- Hop of a part. -/
def partHop (b : List Byte) : Nat := fieldAt b 114 1

/-- Reply to a sampling part: per entry its children, then a word of CLIPPED, EMPTY, SHORT and a status. -/
def serveSmp (s : State) (rg : Regs) (b : List Byte) (nodes : List Nat) (step : Option Nat) : List Byte × List Kids :=
  let d := parseSmp b
  let h := partShard b
  let spec := d.spec (partHop b) (step.getD 0xFFFFFFFF) (stepKey s step)
  let ks := nodes.map (fun v => drawHere s rg h v spec)
  (ks.flatMap (fun k => k.out.flatMap (leBytes 8)
      ++ leBytes 8 ((if k.clip then 1 else 0) + (if k.empty then 2 else 0) + (if k.short then 4 else 0) + (if k.bad then 8 else 0))), ks)

/-- Reply to a gathering part: per entry a word (1 gathered, underflows from bit 32), then the record bytes padded to 8. -/
def serveGth (s : State) (rg : Regs) (b : List Byte) (rows : List Nat) : List Byte :=
  let d := parseGth b
  let h := partShard b
  let r := rg h.reg
  rows.flatMap (fun i =>
    let n := h.loc i
    let size := cdiv (recordSize r.fmt d.roww r.B) 8 * 8
    if r.length < n * d.roww + d.roww then leBytes 8 0 ++ List.replicate size 0
    else
      let g := gatherRow s r (s.velvet r.velv).c d.cd d.roww n
      let bs := rowBytes r.fmt g
      leBytes 8 (1 + g.unf * 2 ^ 32) ++ bs ++ List.replicate (size - bs.length) 0)

/-- Index entries of a part's payload: every one that is not the padding of all ones. -/
def partEntries (b : List Byte) : List Nat :=
  ((List.range ((b.length - 128) / 8)).map (fun i => fieldAt b (128 + 8 * i) 8)).filter (fun v => v ≠ absentEntry)

/-- Pad a part's payload to whole units with absent entries. -/
def padEntries (b : List Byte) : List Byte := b ++ List.replicate ((64 - b.length % 64) % 64) 0xFF

/-! ### Combined lists (R279, R280) -/

/-- Stride of a combined list. -/
def combStride (roww B : Nat) : Nat := cdiv (16 + 2 * roww + roww / B) 8 * 8

/-- Fields of a COMB descriptor (Table 10-6). -/
structure CombD where
  trail : Nat
  nidx  : Nat
  grad  : Nat
  gstr  : Nat
  gfmt  : Nat
  gc    : Int
  cw    : Int
  outl  : Nat
  cap   : Nat
  roww  : Nat
deriving DecidableEq, Repr

/-- Read a COMB descriptor. -/
def parseComb (b : List Byte) : CombD :=
  { trail := fieldAt b 0 4 % 2 ^ 24 * 64, nidx := fieldAt b 4 4 % 2 ^ 24, grad := fieldAt b 8 4 % 2 ^ 24 * 64, gstr := fieldAt b 12 4,
    gfmt := fieldAt b 16 1, gc := sbyteAt b 17, cw := sbyteAt b 18, outl := fieldAt b 20 4 % 2 ^ 24 * 64, cap := fieldAt b 24 4,
    roww := fieldAt b 28 2 }

/-- Format of the gradient records. -/
def CombD.fmt (d : CombD) : Nat := if d.gfmt = 0 then fK8 else fK16

/-- ROW of Trail record j when it is not ABSENT. -/
def trailRow (s : State) (trail j : Nat) : Option Nat :=
  let w := leNat (s.stBytes (trail + 16 * j) 8)
  if bitAt w 60 then none else some (w % 2 ^ 48)

/-- Distinct rows of a Trail with their gather indices, in order of first occurrence. -/
def distinctRows (s : State) (d : CombD) : List (Nat × List Nat) :=
  (List.range d.nidx).foldl (fun acc j => match trailRow s d.trail j with
    | none => acc
    | some r => if acc.any (fun e => e.1 = r) then acc.map (fun e => if e.1 = r then (e.1, e.2 ++ [j]) else e) else acc ++ [(r, [j])]) []

/-- Exact sum of the occurrences of one block (R280): exponent G and the sums, none for void. -/
def combBlock (s : State) (d : CombD) (B b : Nat) (occ : List Nat) : List Num :=
  let w := codeBits d.fmt / 8
  let es := occ.map (fun j =>
    let bb : Byte := BitVec.ofNat 8 (leNat (s.stBytes (d.grad + j * d.gstr + d.roww * w + b) 1))
    (j, d.gc + bbL bb + bbF bb))
  let G := maxInt (-1000) (es.map Prod.snd) - 16
  (List.range B).map (fun i =>
    es.foldl (fun acc e =>
      let c := leNat (s.stBytes (d.grad + e.1 * d.gstr + (b * B + i) * w) w)
      match acc, (decodeCode d.fmt c e.2).at_ G with
      | .fin m x, some y => .fin (m + y) x
      | _, _ => .void) (Num.fin 0 G))

/-- The bytes of a combined entry, and the blocks it holds. -/
def combEntry (s : State) (d : CombD) (B : Nat) (occ : List Nat) : List Byte × List BlockW :=
  let ws := (List.range (d.roww / B)).map (fun b => encBlock fK16 false true d.cw 0 (combBlock s d B b occ) (fun E _ v => encode fK16 false E v))
  let bs := s.stBytes (d.trail + 16 * occ.headD 0) 16 ++ ws.flatMap (fun w => packCodes fK16 w.codes) ++ ws.map (fun w => w.bb)
  (bs ++ List.replicate (combStride d.roww B - bs.length) 0, ws)

/-- Record what blocks written to the store report in an operation's summary; `at_` is the region and the index of the first element where a void
made or lost in them traps (R174). -/
def noteBlocks (s : State) (t fmt : Nat) (at_ : Option (Nat × Nat)) (ws : List BlockW) : State :=
  (ws.foldl (fun (acc : State × Nat) w =>
    (noteOp acc.1 t 0 (codesMag fmt w.E w.codes) w.overflowed (w.encs.any (fun e => e.vp)) w.ovf
       (at_.bind (fun x => firstVoid x.1 (x.2 + acc.2) w.encs)), acc.2 + w.codes.length)) (s, 0)).1

/-! ### Scatter (R281) -/

/-- Fields of a SCT descriptor. -/
structure SctD where
  combl : Nat
  shard : Nat
  nsh   : Nat
  mrows : Nat
deriving DecidableEq, Repr

/-- Read a SCT descriptor. -/
def parseSct (b : List Byte) : SctD :=
  { combl := fieldAt b 0 4 % 2 ^ 24 * 64, shard := fieldAt b 4 4 % 2 ^ 24 * 64, nsh := fieldAt b 8 2, mrows := fieldAt b 10 1 }

/-- A message being gathered: shard number, device and region, rows as entry numbers. -/
structure SctMsg where
  sh   : Nat
  dev  : Nat
  reg  : Nat
  rows : List Nat
deriving DecidableEq, Repr

/-- NROWS, CW and ROWW of a combined list. -/
def combHead (s : State) (o : Nat) : Nat × Int × Nat :=
  let b := s.stBytes o 64
  (fieldAt b 0 4, sbyteAt b 4, fieldAt b 6 2)

/-- SHARD of a combined entry's Trail record. -/
def combShard (s : State) (o stride i : Nat) : Nat := bits (leNat (s.stBytes (o + 64 + stride * i) 8)) 59 48
/-- LROW of a combined entry's Trail record. -/
def combLrow (s : State) (o stride i : Nat) : Nat := leNat (s.stBytes (o + 64 + stride * i + 8) 6)

/-- Walk the combined list in order: full messages as they fill, the rest when the list ends (R281). -/
def sctWalk (mrows : Nat) (sh : Nat → Option (Nat × Shard)) : List Nat → List SctMsg → List SctMsg
  | [], open_ => open_
  | i :: is, open_ =>
    match sh i with
    | none => sctWalk mrows sh is open_
    | some (n, h) =>
      match open_.find? (fun m => m.dev = h.dev ∧ m.reg = h.reg) with
      | some m =>
        if mrows ≤ m.rows.length + 1 then
          { m with rows := m.rows ++ [i] } :: sctWalk mrows sh is (open_.filter (fun x => ¬ (x.dev = h.dev ∧ x.reg = h.reg)))
        else sctWalk mrows sh is (open_.map (fun x => if x.dev = h.dev ∧ x.reg = h.reg then { x with rows := x.rows ++ [i] } else x))
      | none =>
        let m : SctMsg := { sh := n, dev := h.dev, reg := h.reg, rows := [i] }
        if mrows ≤ 1 then m :: sctWalk mrows sh is open_ else sctWalk mrows sh is (open_ ++ [m])

/-- The 64 bytes of a SCT message (Table 10-7). -/
def sctBytes (s : State) (d : SctD) (r : Region) (h : Shard) (m : SctMsg) : List Byte :=
  let hd := combHead s d.combl
  let st := combStride hd.2.2 r.B
  let lr := (List.range 8).flatMap (fun k => match m.rows[k]? with | some i => leBytes 6 (combLrow s d.combl st i) | none => leBytes 6 0)
  leBytes 2 m.dev ++ leBytes 2 m.reg ++ leBytes 2 h.aux0 ++ leBytes 1 (uns 8 hd.2.1) ++ leBytes 1 m.rows.length ++ leBytes 4 0
    ++ leBytes 2 hd.2.2 ++ leBytes 2 0 ++ lr

/-- Row data of a SCT message. -/
def sctData (s : State) (d : SctD) (B : Nat) (m : SctMsg) : List Byte :=
  let hd := combHead s d.combl
  let st := combStride hd.2.2 B
  let n := 2 * hd.2.2 + hd.2.2 / B
  m.rows.flatMap (fun i => s.stBytes (d.combl + 64 + st * i + 16) n ++ List.replicate (rowStride hd.2.2 B - n) 0)

/-! ### Serving and sending accumulates -/

/-- The owner's second stage for a request of its own (R380): the mirror receives a copy and its reply ends the operation; without a live
mirror the operation ends here. -/
def forwardOwn (s : State) (t : Nat) (o : Op) (request : Bool) (r : Region) (mk : Nat → List Packet) : State :=
  if ¬ request ∨ ¬ r.mv ∨ r.mirror = s.dev ∨ o.phase ≠ .running then endOp s t 0 0
  else if isAbsent s r.mirror then endOp (markDegraded s t) t 0 0
  else sendRequest s t r.mirror (mk r.mirror) none

/-- FABCNT1.KEYDENY counts a refusal for its key. -/
def countDeny (s : State) (st : Nat) : State := if st = 0x17 then bumpFab1 s 63 48 1 else s

/-- An accumulate's summary (R169, R281): elements and the largest magnitude written, its blocks with OVF; a message of a SCT counts the rows
added. -/
def noteAdded (s : State) (t : Nat) (x : AccSum) : State :=
  s.onOp t (fun p => { p with count := if p.isSub then x.rows else x.count, maxabs := logMax p.maxabs x.mag, ovfcnt := p.ovfcnt + x.ovfs,
                              flags := p.flags ||| ((if x.vp then 1 else 0) + (if x.ovf then 4 else 0)) })

/-- Form of the rows that an operation sends: that of the region its engine word names (R282). -/
def formOf (s : State) (o : Op) : Form := (o.reg s o.region).form

/-- A message that cannot be added yet stays with its operation, which sends it again (R284). -/
def sendLater (s : State) (t : Nat) (raw data : List Byte) : State :=
  s.onOp t (fun p => { p with progress := 0, desc := if p.isSub then raw ++ data else p.desc })

/-- Owner-side handling on the issuing device itself (R282, R356): checks, then the adds. A message that passes the fabric's rules (`keyed`: an RACC,
or one of a SCT) shows its key, meets the duplicate filters and is held while they are full (R284); an ACC does neither. -/
def applyHere (s : State) (t : Nat) (o : Op) (raw data : List Byte) (keyed : Bool) : State :=
  let m := parseAcc raw
  let rg := o.reg s
  let r := rg m.reg
  let tag := o.step.getD 0xFFFFFFFF
  let form := formOf s o
  let denied := keyed && !(r.valid && decide (r.tenant = tenantOf s o) && decide (r.akey = regionKey s o))
  match m.refusal s rg (some form) denied data.length tag with
  | some (st, d) =>
    let s1 := countDeny (if st = 0x13 then logStale s (ticketOf s t) o.stream tag else s) st
    if st = 0x18 then endIllegal s1 t else endOp s1 t st d
  | none =>
    if ¬ keyed then
      let r := applyRows s rg t m data tag (fun _ => true)
      endOp (noteAdded r.1 t r.2) t 0 0
    else if ¬ filterRoom s rg m s.dev (ticketOf s t) then sendLater s t raw data
    else
      let q := applyFiltered s rg t m data tag s.dev (ticketOf s t)
      let s1 := noteAdded q.1 t q.2.2
      if 0x10 ≤ q.2.1 then endOp s1 t q.2.1 0
      else forwardOwn s1 t o true r (fun q => partsOf (reqHeader s o (ticketOf s t) 0x05 q (regionKey s o) 0) (accPayload raw data form))

/-- What an accumulate's reply carries, for which no table gives a place (DESIGN CHOICE, notes/assumptions/20): rows and elements added, the
largest code, OVF and void, the blocks with OVF. -/
def sumBytes (x : AccSum) : List Byte :=
  leBytes 8 x.rows ++ leBytes 8 x.count ++ leBytes 1 (uns 8 x.mag) ++ leBytes 1 ((if x.vp then 1 else 0) + (if x.ovf then 4 else 0)) ++ leBytes 6 x.ovfs
    ++ List.replicate 40 0

/-- The sum that a reply carries; one without it says that every row was added. -/
def replySum (m : AccMsg) (b : List Byte) : AccSum :=
  if b = [] then m.added m.nrow
  else { rows := fieldAt b 0 8, count := fieldAt b 8 8, mag := sbyteAt b 16, ovfs := fieldAt b 18 6, ovf := bitAt (fieldAt b 17 1) 2,
         vp := bitAt (fieldAt b 17 1) 0 }

/-- Send an accumulate message of the operation in slot t to its owner, or its mirror; an absent owner without one ends it (R377). This device as the
mirror adds no message that the owner had already forwarded to it (R381). -/
def sendAcc (s : State) (t : Nat) (o : Op) (msg data : List Byte) : State :=
  let m := parseAcc msg
  match serverOf s m.dev m.reg with
  | none => endOp s t 0x12 m.dev
  | some (q, mir) =>
    let s := if mir then markDegraded s t else s
    if q = s.dev then
      match (if mir then keyOf s s.dev (ticketOf s t) else none) with
      | some hk =>
        if hk.st = .running then sendLater s t msg data
        else endOp (if hk.status < 0x10 then noteAdded s t (replySum m (hk.reply.headD (bare 0 0 0 0)).payload) else s) t hk.status 0
      | none => applyHere s t o msg data true
    else
      let k := reqHeader s o (ticketOf s t) 0x03 q (regionKey s o) 0
      sendRequest s t q (partsOf k (accPayload msg data (formOf s o))) none

/-- Does the operation add rows here: an ACC, or an RACC that this device serves? -/
def Op.addsHere (s : State) (o : Op) : Bool :=
  let m := parseAcc o.desc
  (o.opc = 0x21 || (o.opc = 0x15 && (match o.src with | .remote _ _ _ => false | _ => true)))
    && (match serverOf s m.dev m.reg with | some (q, _) => decide (q = s.dev) | none => false)

end Sys2Proof.Machine
end

