-- ==== Sys2Proof/Machine/Graph.lean ====
section
/-!
DEFINITION. The rows RACC, ACC, CLRS, SMP, GTH, COMB and SCT (spec/10). Each accepts its operation while it is issued and does its work
while it runs.
-/

namespace Sys2Proof.Machine

/-! ### RACC, ACC, CLRS -/

/-- Acceptance check of RACC and ACC (R282, R162). Stamps that it may write on this device, for itself or as an owner's mirror, are recorded
(R31), and the regions that it works on here are taken as they stand (R305). -/
def accCheck (local_ : Bool) (s : State) (o : Op) : Chk :=
  withDesc s o 64 (fun b =>
    let r := s.region o.region
    let msg := placeVar b o.var
    let m := parseAcc msg
    let data := if o.var = 0 then [storeRange (m.rowb * 64) (m.nrow * rowStride m.roww r.B) false] else []
    let here := local_ || decide (m.dev = s.dev) || decide (mirrorOf s m.dev = some s.dev)
    if !(regionOk s r) || decide (m.nrow = 0) || decide (8 < m.nrow) || decide (m.roww = 0) || decide (m.roww % r.B ≠ 0)
       || decide (1024 < m.roww) || (local_ && (decide (m.dev ≠ s.dev) || m.illegal s s.region (some r.form) (m.dataBytes r.B))) then .illegal
    else match badRanges s data with
      | some x => .bad 0x16 x
      | none =>
        match (if local_ then m.beyond s.region else none) with
        | some l => .bad 0x16 l
        | none => .ok (data ++ (if o.var = 1 ∧ here then regionRanges (s.region m.sreg) true else []))
            ((o.region, r) :: (if here then [m.reg, m.sreg].map (fun i => (i, s.region i)) else [])) msg [])

/-- Row data of a message: in the store, or with the message of a SCT. -/
def accData (s : State) (o : Op) : List Byte :=
  let m := parseAcc o.desc
  if o.isSub then o.desc.drop 64
  else match o.img o.region with
  | some r => s.stBytes (m.rowb * 64) (m.dataBytes r.B)
  | none => []

/-- What ACC does while it runs. -/
def accWork (t : Nat) (s : State) (o : Op) : State :=
  applyHere s t o o.desc (accData s o) false

/-- ACC (R282): the adds on the issuing device. -/
def execAcc (t : SlotId) (s : State) : Host.Outcome State Fault Refusal :=
  commit s (opRow s t.toNat 0x21 (fun _ _ => true) (accCheck true) (accWork t.toNat))

/-- What RACC does while it runs. -/
def raccWork (t : Nat) (s : State) (o : Op) : State :=
  if o.progress ≠ 0 then s
  else
    sendAcc (s.onOp t (fun o => { o with progress := 1 })) t { o with progress := 1 } (o.desc.take 64) (accData s o)

/-- RACC (R282): the message leaves for its owner, once; the reply ends the operation. Table 6-8 has it need a step, and R179 has remote accumulates
checked against R39 instead: one that finds no step open here ends with STEP_CLOSED, and its step is the owner's to check (DESIGN CHOICE,
notes/assumptions/63). -/
def execRacc (t : SlotId) (s : State) : Host.Outcome State Fault Refusal :=
  commit s (opRow s t.toNat 0x15 (fun _ _ => true) (accCheck false) (raccWork t.toNat))

/-- Acceptance check of CLRS (R289). -/
def clrsCheck (s : State) (o : Op) : Chk :=
  let r := s.region o.region
  if regionOk s r && r.stg then .ok (regionRanges r true) [(o.region, r)] [] [] else .illegal

/-- What CLRS does while it runs. -/
def clrsWork (t : Nat) (s : State) (o : Op) : State :=
  match o.img o.region with
  | none => s
  | some r =>
    let half := o.opA % 2
    endOp (clearHalf s t r half (targetC r.fmt (s.velvet r.velv)) (clrsStep s half % 2 ^ 32)) t 0 0

/-- CLRS (R289): clears half A[0]. -/
def execClrs (t : SlotId) (s : State) : Host.Outcome State Fault Refusal :=
  commit s (opRow s t.toNat 0x25 (fun _ _ => true) clrsCheck (clrsWork t.toNat))

/-! ### SMP -/

/-- Shards of an operation: the table that follows its descriptor. -/
def Op.shards (o : Op) (n : Nat) : List Shard := shardsOf (o.desc.drop 64) n

/-- Shards that this device serves now. -/
def localShards (s : State) (l : List Shard) : List Shard := l.filter (fun h => (serverOf s h.dev h.reg).any (fun e => e.1 = s.dev))

/-- Acceptance check of SMP (R267, R271). -/
def smpCheck (s : State) (o : Op) : Chk :=
  withDesc s o 64 (fun b =>
    let d := parseSmp b
    let r := s.region o.region
    let seeds := storeRange d.seedl (8 * d.nseed) false
    let list := storeRange d.outl (64 + 8 * d.nseed * d.tree) true
    if !(regionOk s r) || decide (r.fmt ≠ fRAW) || decide (r.raww ≠ 8) || !d.ok then .illegal
    else match badRanges s [storeRange d.shard (32 * d.nsh) false] with
      | some x => .bad 0x16 x
      | none =>
        let tb := s.stBytes d.shard (32 * d.nsh)
        let l := shardsOf tb d.nsh
        let mine := localShards s l
        let regs := mine.flatMap (fun h => [h.reg, h.aux0] ++ (if d.weighted then [h.aux1] else []))
        if !(shardsOk l) || (d.weighted && l.any (fun h => h.aux1 = 0xFFF)) then .illegal
        else match badRanges s [seeds, list] with
          | some x => .bad 0x16 x
          | none => .ok ([seeds, list] ++ (regs.dedup.flatMap (fun i => regionRanges (s.region i) false)))
              ((o.region, r) :: regs.dedup.map (fun i => (i, s.region i))) (b ++ tb) [0])

/-- Write sample entries from entry k on. -/
def putEntries (s : State) (d : SmpD) (k : Nat) (vs : List Nat) : State := s.stWrite (d.entry k) (vs.flatMap (leBytes 8))

/-- Position of the first child of the entry at position a of hop h - 1 in tree sd. -/
def SmpD.child (d : SmpD) (sd h a : Nat) : Nat := sd * d.tree + d.start h + a * d.fans.getD (h - 1) 0

/-- Entries whose children hop h draws: tree and position within hop h - 1. -/
def SmpD.parents (d : SmpD) (h : Nat) : List (Nat × Nat) :=
  (List.range d.nseed).flatMap (fun sd => (List.range (d.width (h - 1))).map (fun a => (sd, a)))

/-- The entry at position a of hop h - 1 in tree sd. -/
def smpParent (s : State) (d : SmpD) (h : Nat) (e : Nat × Nat) : Nat := entryAt s (d.entry (e.1 * d.tree + d.start (h - 1) + e.2))

/-- Record what one node's draw reports (R270, R274), with the DETAIL of an ADDR_ERROR: CLIPPED counts in the operation's first word,
and the die of the node's Antler logs a decreasing offset. -/
def noteKids (s : State) (t : Nat) (o : Op) (die : Die) (v detail : Nat) (k : Kids) : State :=
  let s1 := s.onOp t (fun p => { p with flags := p.flags ||| ((if k.empty then 2 else 0) + (if k.short then 8 else 0)),
                                        prog := p.prog.set 0 (p.prog.headD 0 + (if k.clip then 1 else 0)) })
  let s2 := if k.bad then partFails s1 t 0x16 detail else s1
  if k.dec then addLogAt s2 die 5 0x0108 o.region (ticketOf s2 t) o.stream v else s2

/-- Children of one parent of hop h drawn on this device, or absent ones where nothing is drawn (R274, R268). -/
def smpHere (s : State) (t : Nat) (o : Op) (d : SmpD) (h : Nat) (e : Nat × Nat) : State :=
  let v := smpParent s d h e
  let at_ := d.child e.1 h e.2
  let none_ := List.replicate (d.fans.getD (h - 1) 0) absentEntry
  if v = absentEntry then putEntries s d at_ none_
  else match shardFor (o.shards d.nsh) v with
    | none => putEntries s d at_ none_
    | some (_, sh) =>
      match serverOf s sh.dev sh.reg with
      | none => partFails (putEntries s d at_ none_) t 0x12 sh.dev
      | some (q, mir) =>
        if q ≠ s.dev then s
        else if adjacencyOk s (o.reg s sh.reg) (o.reg s sh.aux0) (if d.weighted then some (o.reg s sh.aux1) else none) then
          let miss := missAddr s (o.reg s sh.reg) (o.reg s sh.aux0) (if d.weighted then some (o.reg s sh.aux1) else none) (sh.loc v)
          let k := drawHere s (o.reg s) sh v (d.spec h (o.step.getD 0xFFFFFFFF) (stepKey s o.step))
          noteKids (putEntries (if mir then markDegraded s t else s) d at_ k.out) t o (drawDie s (o.reg s sh.reg) (sh.loc v)) v miss k
        else partFails (putEntries s d at_ none_) t 0x18 0

/-- Remote parts of hop h: shard number and the parents whose nodes it holds. -/
def smpParts (s : State) (o : Op) (d : SmpD) (h : Nat) : List (Nat × List (Nat × Nat)) :=
  (List.range d.nsh).filterMap (fun i =>
    let ps := (d.parents h).filter (fun e =>
      let v := smpParent s d h e
      v ≠ absentEntry && (match shardFor (o.shards d.nsh) v with
        | some (j, sh) => decide (j = i) && (serverOf s sh.dev sh.reg).any (fun q => q.1 ≠ s.dev)
        | none => false))
    if ps.isEmpty then none else some (i, ps))

/-- Send one remote part as a sub-operation (R273, R367). -/
def sendPart (s : State) (t : Nat) (o : Op) (opc hop : Nat) (sh : Shard) (entries prog : List Nat) : Option State :=
  match serverOf s sh.dev sh.reg, o.img o.region with
  | some (q, mir), some r =>
    match allocSub s t o opc 0 0 prog q with
    | none => none
    | some (s1, u) =>
      let s1 := if mir then markDegraded s1 u else s1
      let k := reqHeader s1 o (ticketOf s1 u) 0x04 q (regionKey s1 o) 0
      some (sendRequest s1 u q (partsOf k (padEntries (partDesc o hop opc sh r ++ entries.flatMap (leBytes 8)))) none)
  | _, _ => some s

/-- Send every remote part of hop h, or nothing when a slot is wanting. -/
def smpSend (s : State) (t : Nat) (o : Op) (d : SmpD) (h : Nat) : Option State :=
  (smpParts s o d h).foldl (fun acc p => match acc, (o.shards d.nsh)[p.1]? with
    | some s1, some sh => sendPart s1 t o 0x22 h sh (p.2.map (smpParent s d h)) (h :: p.2.map (fun e => d.child e.1 h e.2))
    | x, _ => x) (some s)

/-- The node whose children begin at list entry c of hop h. -/
def smpNode (s : State) (d : SmpD) (h c : Nat) : Nat :=
  smpParent s d h (c / d.tree, (c % d.tree - d.start h) / Nat.max 1 (d.fans.getD (h - 1) 0))

/-- A part that ended with a failing status drew nothing: its entries are absent (R274, R268). -/
def smpMissed (s : State) (parent sub : Nat) : State :=
  match s.op parent, s.op sub with
  | some o, some q =>
    let d := parseSmp o.desc
    let fan := d.fans.getD (q.prog.headD 1 - 1) 0
    (q.prog.drop 1).foldl (fun s c => putEntries s d c (List.replicate fan absentEntry)) s
  | _, _ => s

/-- Children of a replied part: place them and note what they report. -/
def smpReply (s : State) (parent sub : Nat) (data : List Byte) : State :=
  match s.op parent, s.op sub with
  | some o, some q =>
    let d := parseSmp o.desc
    let fan := d.fans.getD (q.prog.headD 1 - 1) 0
    (q.prog.drop 1).zipIdx.foldl (fun s e =>
      let w := data.drop (e.2 * (8 * fan + 8))
      let fl := fieldAt w (8 * fan) 8
      let k : Kids := { out := (List.range fan).map (fun j => fieldAt w (8 * j) 8), clip := bitAt fl 0, empty := bitAt fl 1, short := bitAt fl 2,
                        bad := bitAt fl 3, dec := false }
      let v := smpNode s d (q.prog.headD 1) e.1
      noteKids (putEntries s d e.1 k.out) parent o .central v v k) s
  | _, _ => s

/-- Number of present entries of a sample list. -/
def smpPresent (s : State) (d : SmpD) : Nat :=
  ((List.range (d.nseed * d.tree)).filter (fun k => leNat (s.stBytes (d.entry k) 8) ≠ absentEntry)).length

/-- The sample list is whole: header, COUNT, end (R272, R274). -/
def smpEnd (s : State) (t : Nat) (o : Op) (d : SmpD) : State :=
  let n := smpPresent s d
  let s1 := s.stWrite d.outl (leBytes 4 n ++ leBytes 4 (o.prog.headD 0) ++ List.replicate 56 0)
  endOp (s1.onOp t (fun p => { p with count := n })) t 0 o.detail

/-- What SMP does while it runs. -/
def smpWork (t : Nat) (s : State) (o : Op) : State :=
  let d := parseSmp o.desc
  if o.isSub ∨ o.subs ≠ 0 then s
  else if o.aborted then endAborted s t (o.progress * d.nseed)
  else if o.progress = 0 then
    ((List.range d.nseed).foldl (fun s sd => putEntries s d (sd * d.tree) [entryAt s (d.seedl + 8 * sd)]) s).onOp t
      (fun p => { p with progress := 1 })
  else if d.hops < o.progress then smpEnd s t o d
  else
    let s1 := (d.parents o.progress).foldl (fun s e => smpHere s t o d o.progress e) s
    match smpSend s1 t o d o.progress with
    | some s2 => s2.onOp t (fun p => { p with progress := o.progress + 1 })
    | none => s

/-- SMP (R271-R274): first the seeds, then one hop at a time, each once the parts of the hop before have replied. -/
def execSmp (t : SlotId) (s : State) : Host.Outcome State Fault Refusal :=
  commit s (opRow s t.toNat 0x22 (fun _ _ => true) smpCheck (smpWork t.toNat))

/-! ### GTH -/

/-- Does a gather project? -/
def GthD.proj (d : GthD) : Bool := decide (2 ≤ d.dkind)
/-- Does a gather deliver to a host stream? -/
def GthD.toHost (d : GthD) : Bool := decide (d.dkind % 2 = 1)

/-- Output format of a gather's records (R275, R237; notes/assumptions/18). -/
def gthOutFmt (d : GthD) (r : Region) : Nat :=
  if d.proj then (if r.fmt = fK4 then fK8 else if r.fmt = fK4U then fK8U else r.fmt) else r.fmt

/-- Elements of a record. -/
def gthOutN (d : GthD) (m : MmaD) : Nat := if d.proj then m.n else d.roww

/-- Acceptance check of GTH (R267, R275, R321, R237): what makes it ILLEGAL in what can be read comes before an address that cannot (R168). -/
def gthCheck (s : State) (o : Op) : Chk :=
  withDesc s o 64 (fun b =>
    let d := parseGth b
    let r := s.region o.region
    let mmad := if d.proj then [storeRange d.mmad 64 false] else []
    let mb := if d.proj then s.stBytes d.mmad 64 else List.replicate 64 0
    let m := parseMma mb
    let w := s.region m.wreg
    let tw := bitAt o.var 2
    let size := recordSize (gthOutFmt d r) (gthOutN d m) r.B
    let recs := if d.toHost then [] else [storeRange d.dst ((d.nidx - 1) * d.dstr + size) true]
    let trail := match d.trail with | some x => [storeRange x (16 * d.nidx) true] | none => []
    let idx := storeRange d.idxl (8 * d.nidx) false
    let strm := s.strm (d.dst % 2 ^ 20)
    let strmOk := match strm with
      | some k => decide (k.kind = 1) && decide (0 < k.rxsize) && decide ((d.nidx - 1) * d.dstr + size ≤ k.rxsize)
      | none => false
    let tb := s.stBytes d.shard (32 * d.nsh)
    let l := shardsOf tb d.nsh
    let mine := ((localShards s l).map (fun h => h.reg)).dedup
    let table := [storeRange d.shard (32 * d.nsh) false]
    let rowOk := regionOk s r && (d.proj || decide (o.var % 4 = 0)) && narrow r.fmt && !r.stg && decide (d.nidx ≠ 0) && decide (16 ≤ d.roww)
      && decide (d.roww ≤ 1024) && decide (d.roww % r.B = 0) && decide (d.dstr % 8 = 0) && (d.toHost || decide (d.dst % 8 = 0))
    let recOk := decide (size ≤ d.dstr) && (!d.toHost || strmOk)
      && (!d.proj || (weightOk s w m d.roww tw && operandPair r.fmt w.fmt && decide (m.rtlen ≠ 0) && decide (m.n ≤ m.rtlen) && decide (m.n % r.B = 0)))
    if !rowOk || ((badRanges s mmad).isNone && !recOk) || ((badRanges s table).isNone && !(shardsOk l)) then .illegal
    else match badRanges s (mmad ++ table ++ [idx] ++ recs ++ trail ++ (if d.proj then [storeRange m.rtab (4 * m.rtlen) false] else [])) with
      | some x => .bad 0x16 x
      | none => .ok ([idx] ++ recs ++ trail ++ mine.flatMap (fun i => regionRanges (s.region i) false)
            ++ (if d.proj then weightRanges w m d.roww tw else []))
          ([(o.region, r)] ++ mine.map (fun i => (i, s.region i)) ++ (if d.proj then [(m.wreg, w)] else [])) (b ++ tb ++ mb) [])

/-- MMA descriptor that a projecting gather keeps behind its shard table. -/
def Op.gthMma (o : Op) (d : GthD) : MmaD := parseMma (o.desc.drop (64 + 32 * d.nsh))

/-- A reserved shift found in a projecting gather's rescale table as it is dispatched (R124, R237). -/
def gthTableBad (s : State) (o : Op) : Bool :=
  let d := parseGth o.desc
  d.proj && !(rescaleOk s (o.gthMma d).rtab (o.gthMma d).n)

/-- Deliver record j: to the store, or to the stream's receive area under receive credits (R276, R321). -/
def gthDeliver (s : State) (t : Nat) (d : GthD) (j : Nat) (bs : List Byte) : State :=
  if d.toHost then
    let n := d.dst % 2 ^ 20
    match s.strm n with
    | some k => sendCredited s (hostMsg 0x88 k.owner n (ticketOf s t) 0 0 ((k.rxbase + j * d.dstr) % 2 ^ 52) 0 true (pad64 bs))
    | none => s
  else s.stWrite (d.dst + j * d.dstr) bs

/-- Trail record j, when the gather keeps a Trail (R277). -/
def gthTrail (s : State) (d : GthD) (j row shard lrow : Nat) (absent mirror : Bool) : State :=
  match d.trail with
  | some a => s.stWrite (a + 16 * j) (trailBytes row shard lrow absent mirror)
  | none => s

/-- Operand row of a projected row. -/
def projArow (d : GthD) (r : Region) (h : HeldRow) : List Opd :=
  h.codes.zipIdx.map (fun e => let bb := h.bbs.getD (e.2 / r.B) 0; ({ code := e.1, e := d.cd + bbL bb + bbF bb } : Opd))

/-- Output blocks of a projected row (R237): the array reads the row's blocks at E = CD + F'. -/
def projBlocks (s : State) (o : Op) (d : GthD) (r : Region) (h : HeldRow) : List BlockW :=
  let m := o.gthMma d
  match o.img m.wreg with
  | some w => projectRow s (gthOutFmt d r) r.B r.fmt (projArow d r h) w (coarseOf s o.step w) m (bitAt o.var 2) d.cd h.errs
  | none => []

/-- A record is written whole (R278). -/
def noteRecord (s : State) (t rows : Nat) : State := s.onOp t (fun p => { p with recs := p.recs + 1, count := p.count + rows })

/-- A projected row is written: its record, and what its blocks report. A void in it traps at the row's place in the gather's output, element by
element (R174; DESIGN CHOICE, notes/assumptions/18). -/
def landProjected (s : State) (t : Nat) (o : Op) (d : GthD) (r : Region) (h : HeldRow) : State :=
  let ws := projBlocks s o d r h
  let bs := ws.flatMap (fun x => packCodes (gthOutFmt d r) x.codes) ++ ws.map (fun x => x.bb)
  noteBlocks (noteRecord (gthDeliver s t d h.idx bs) t 1) t (gthOutFmt d r) (some (o.region, h.idx * (o.gthMma d).n)) ws

/-- The shadow check samples the tiles of a projected row (R260): with a sampled tile in it the row waits for the verdicts; a tile that finds the
queue full is skipped and goes unchecked (R245, R265). -/
def projectLand (s : State) (t : Nat) (o : Op) (d : GthD) (j : Nat) (r : Region) (g : GRow) : State :=
  let sm := sampleArr s ((o.gthMma d).n / r.B)
  let tiles := sm.2.take (64 - heldTiles s)
  let s1 := times bumpSkipped (sm.2.length - tiles.length) sm.1
  let h : HeldRow := { idx := j, codes := g.codes, bbs := g.bbs, tiles := tiles, errs := [] }
  if tiles = [] then landProjected s1 t o d r h else s1.onOp t (fun p => { p with heldRows := p.heldRows ++ [h] })

/-- A gathered row lands: projected where the gather projects, delivered, counted (R276, R278). -/
def gthLand (s : State) (t : Nat) (o : Op) (d : GthD) (j : Nat) (r : Region) (g : GRow) : State :=
  let s0 := if g.unf = 0 then s else countVelvet s r.velv (-128) g.unf 0 0 false
  if d.proj then projectLand s0 t o d j r g
  else
    let ovf := g.bbs.countP bbOvf
    let mag := maxInt (-128) ((List.range (d.roww / r.B)).map (fun k =>
      let bb := g.bbs.getD k 0
      codesMag r.fmt (d.cd + bbF bb) ((g.codes.drop (k * r.B)).take r.B)))
    (noteRecord (gthDeliver s0 t d j (rowBytes r.fmt g)) t 1).onOp t (fun p => { p with
      ovfcnt := p.ovfcnt + ovf, maxabs := logMax p.maxabs mag,
      flags := p.flags ||| ((if g.bbs.any bbVp then 1 else 0) + (if ovf ≠ 0 then 4 else 0)) })

/-- What gather index j does on this device; rows of other devices are left to their parts. DETAIL of an ADDR_ERROR is the
row's local address here and its logical index there (R165, Table 6-9). -/
def gthHere (s : State) (t : Nat) (o : Op) (d : GthD) (r : Region) (j : Nat) : State :=
  let v := entryAt s (d.idxl + 8 * j)
  if v = absentEntry then
    let m := o.gthMma d
    gthTrail (noteRecord (gthDeliver s t d j (List.replicate (recordSize (gthOutFmt d r) (gthOutN d m) r.B) 0)) t 0) d j (2 ^ 48 - 1) 0 0 true false
  else match shardFor (o.shards d.nsh) v with
    | none => s
    | some (i, sh) =>
      let lrow := sh.loc v
      match serverOf s sh.dev sh.reg with
      | none => partFails (gthTrail s d j v i lrow true false) t 0x12 sh.dev
      | some (q, mir) =>
        if q ≠ s.dev then s
        else
          let own := o.reg s sh.reg
          if !(regionOk s own) ∨ own.fmt ≠ r.fmt ∨ own.B ≠ r.B then partFails (gthTrail s d j v i lrow true mir) t 0x18 0
          else if own.length < lrow * d.roww + d.roww then partFails (gthTrail s d j v i lrow true mir) t 0x16 (rowAddr own d.roww lrow)
          else
            let g := gatherRow s own (coarseOf s o.step own) d.cd d.roww lrow
            let s1 := gthTrail (gthLand s t o d j r g) d j v i lrow false mir
            if mir then markDegraded s1 t else s1

/-- Remote parts of a batch of gather indices: shard number, indices. -/
def gthParts (s : State) (o : Op) (d : GthD) (js : List Nat) : List (Nat × List Nat) :=
  (List.range d.nsh).filterMap (fun i =>
    let ps := js.filter (fun j =>
      let v := entryAt s (d.idxl + 8 * j)
      v ≠ absentEntry && (match shardFor (o.shards d.nsh) v with
        | some (k, sh) => decide (k = i) && (serverOf s sh.dev sh.reg).any (fun q => q.1 ≠ s.dev)
        | none => false))
    if ps.isEmpty then none else some (i, ps))

/-- Send the remote parts of a batch, or nothing when a slot is wanting. -/
def gthSend (s : State) (t : Nat) (o : Op) (d : GthD) (js : List Nat) : Option State :=
  (gthParts s o d js).foldl (fun acc p => match acc, (o.shards d.nsh)[p.1]? with
    | some s1, some sh => sendPart s1 t o 0x23 0 sh (p.2.map (fun j => entryAt s (d.idxl + 8 * j))) p.2
    | x, _ => x) (some s)

/-- Rows of a replied part: land them and write their Trail records. -/
def gthReply (s : State) (parent sub : Nat) (data : List Byte) (mir : Bool) : State :=
  match s.op parent, s.op sub with
  | some o, some q =>
    let d := parseGth o.desc
    match o.img o.region with
    | none => s
    | some r =>
      let size := cdiv (recordSize r.fmt d.roww r.B) 8 * 8
      q.prog.zipIdx.foldl (fun s e =>
        let w := data.drop (e.2 * (8 + size))
        let hd := fieldAt w 0 8
        let v := entryAt s (d.idxl + 8 * e.1)
        match shardFor (o.shards d.nsh) v with
        | none => s
        | some (i, sh) =>
          if bitAt hd 0 then
            gthTrail (gthLand s parent o d e.1 r { parseRow r.fmt d.roww r.B (w.drop 8) with unf := hd / 2 ^ 32 }) d e.1 v i (sh.loc v) false mir
          else partFails (gthTrail s d e.1 v i (sh.loc v) true mir) parent 0x16 v) s
  | _, _ => s

/-- A part that ended with a failing status gathered none of its rows: their Trail records say so (R277). -/
def gthMissed (s : State) (parent sub : Nat) : State :=
  match s.op parent, s.op sub with
  | some o, some q =>
    let d := parseGth o.desc
    q.prog.foldl (fun s j =>
      let v := entryAt s (d.idxl + 8 * j)
      match shardFor (o.shards d.nsh) v with
      | some (i, sh) => gthTrail s d j v i (sh.loc v) true false
      | none => s) s
  | _, _ => s

/-- Does a gather for a host stream wait for room: its next k records neither leave at once nor fit the response share (R300, R321)? -/
def gthWaits (s : State) (o : Op) (d : GthD) (r : Region) (k : Nat) : Bool :=
  d.toHost && match s.strm (d.dst % 2 ^ 20) with
    | some q =>
      let units := cdiv (recordSize (gthOutFmt d r) (gthOutN d (o.gthMma d)) r.B) 64
      !(responseRoom s (k * poolBytes (64 * units)))
        && !(decide (k * Nat.max 1 (cdiv units 4) ≤ mget (fun _ => 0) s.host.rxcred q.owner) && s.host.rxwait.all (fun w => decide (w.req.toNat ≠ q.owner)))
    | none => false

/-- What GTH does while it runs. -/
def gthWork (t records : Nat) (s : State) (o : Op) : State :=
  let d := parseGth o.desc
  match o.img o.region with
  | none => s
  | some r =>
    let finish := fun (s : State) =>
      if d.proj then (let m := o.gthMma d; countArray s o.mode o.count d.roww m.n) else s
    let landed := decide (o.subs = 0) && o.heldRows.isEmpty
    if o.isSub then s
    else if o.aborted then (if landed then endAborted (finish s) t o.recs else s)
    else if o.progress = d.nidx then (if landed then endWork (finish s) t 0 o.detail else s)
    else if gthWaits s o d r (Nat.min records (d.nidx - o.progress)) then s
    else
      let js := (List.range (Nat.min records (d.nidx - o.progress))).map (fun k => o.progress + k)
      let s1 := js.foldl (fun s j => gthHere s t o d r j) s
      match gthSend s1 t o d js with
      | some s2 => s2.onOp t (fun p => { p with progress := o.progress + js.length })
      | none => s

/-- GTH (R275-R278): the next `records` gather indices; the end once every part has replied. -/
def execGth (t : SlotId) (records : Nat) (s : State) : Host.Outcome State Fault Refusal :=
  commit s (opRow s t.toNat 0x23 (fun _ _ => false) gthCheck (gthWork t.toNat records))

/-! ### COMB -/

/-- Acceptance check of COMB (R279). -/
def combCheck (s : State) (o : Op) : Chk :=
  withDesc s o 64 (fun b =>
    let d := parseComb b
    let r := s.region o.region
    let rs := [storeRange d.trail (16 * d.nidx) false, storeRange d.grad ((d.nidx - 1) * d.gstr + recordSize d.fmt d.roww r.B) false,
               storeRange d.outl (64 + d.nidx * combStride d.roww r.B) true]
    if !(regionOk s r) || !(narrow r.fmt) || r.stg || decide (d.nidx = 0) || decide (1 < d.gfmt) || decide (d.cap < d.nidx) || decide (d.gstr % 8 ≠ 0)
       || decide (d.roww < 16) || decide (1024 < d.roww) || decide (d.roww % r.B ≠ 0) then .illegal
    else match badRanges s rs with
      | some x => .bad 0x16 x
      | none => .ok rs [(o.region, r)] b [])

/-- What COMB does while it runs. -/
def combWork (t rows : Nat) (s : State) (o : Op) : State :=
  let d := parseComb o.desc
  match o.img o.region with
  | none => s
  | some r =>
    let all := distinctRows s d
    if o.aborted then endAborted s t o.progress
    else if o.progress = all.length then
      let s1 := s.stWrite d.outl (leBytes 4 all.length ++ leBytes 1 (uns 8 d.cw) ++ [0] ++ leBytes 2 d.roww ++ List.replicate 56 0)
      endWork (s1.onOp t (fun p => { p with count := all.length })) t 0 0
    else
      let next := (all.drop o.progress).take rows
      let s1 := next.zipIdx.foldl (fun s e =>
        let c := combEntry s d r.B e.1.2
        noteBlocks (s.stWrite (d.outl + 64 + combStride d.roww r.B * (o.progress + e.2)) c.1) t fK16 none c.2) s
      s1.onOp t (fun p => { p with progress := o.progress + next.length })

/-- COMB (R279, R280): the next `rows` distinct rows; the header when all are written. -/
def execComb (t : SlotId) (rows : Nat) (s : State) : Host.Outcome State Fault Refusal :=
  commit s (opRow s t.toNat 0x42 (fun _ _ => true) combCheck (combWork t.toNat rows))

/-! ### SCT -/

/-- End of the combined list at store offset a: by its header, or by what operations in flight may still write there (R162). -/
def listEnd (s : State) (a B : Nat) : Nat :=
  let hd := combHead s a
  (busySlots s).foldl (fun n e => e.2.ranges.foldl (fun n r =>
      if e.2.inFlight && r.wr && !r.remote && decide (r.lo ≤ storeBase + a) && decide (storeBase + a < r.lo + r.len)
      then Nat.max n (r.lo + r.len - storeBase) else n) n)
    (a + 64 + hd.1 * combStride hd.2.2 B)

/-- Acceptance check of SCT (R267, R281). The list's extent stands in the list, which an earlier COMB may still have to write: recorded are the
list as its header gives it and what writers in flight may write there, and once more the list when the operation is dispatched
(notes/assumptions/44). The staging regions that it adds to here are recorded whole (R162). -/
def sctCheck (s : State) (o : Op) : Chk :=
  withDesc s o 64 (fun b =>
    let d := parseSct b
    let r := s.region o.region
    let head := storeRange d.combl 64 false
    if !(regionOk s r) || !(narrow r.fmt) || r.stg || decide (d.mrows = 0) || decide (8 < d.mrows) then .illegal
    else match badRanges s [storeRange d.shard (32 * d.nsh) false] with
      | some x => .bad 0x16 x
      | none =>
        let tb := s.stBytes d.shard (32 * d.nsh)
        let l := shardsOf tb d.nsh
        let mine := (localShards s l).flatMap (fun h => [h.reg, h.aux0])
        let staged := ((localShards s l).map (fun h => h.aux0)).dedup.filter (fun i => (s.region i).stg)
        if !(shardsOk l) then .illegal
        else match badRanges s [head] with
          | some x => .bad 0x16 x
          | none => .ok (storeRange d.combl (Nat.min (listEnd s d.combl r.B) storeSize - d.combl) false
                          :: staged.flatMap (fun i => regionRanges (s.region i) true))
                      ((o.region, r) :: mine.dedup.map (fun i => (i, s.region i))) (b ++ tb) [])

/-- The combined list of a SCT as its header gives it. -/
def sctList (s : State) (o : Op) : Range :=
  let d := parseSct o.desc
  let hd := combHead s d.combl
  storeRange d.combl (64 + hd.1 * combStride hd.2.2 ((o.img o.region).map (fun r => r.B) |>.getD 16)) false

/-- What a SCT finds in its combined list as it is dispatched: a row width or a shard number outside their ranges, or a list past the
store. -/
def sctFinds (s : State) (o : Op) : Option (Nat × Nat) :=
  let d := parseSct o.desc
  let hd := combHead s d.combl
  match o.img o.region with
  | none => none
  | some r =>
    if decide (hd.2.2 % r.B ≠ 0) || decide (hd.2.2 < 16) || decide (1024 < hd.2.2) then some (0x18, 0)
    else match badRanges s [sctList s o] with
      | some x => some (0x16, x)
      | none => if (List.range hd.1).any (fun i => decide (d.nsh ≤ combShard s d.combl (combStride hd.2.2 r.B) i)) then some (0x18, 0) else none

/-- Messages of a SCT in the order in which they leave. -/
def sctMsgs (s : State) (o : Op) (d : SctD) (B : Nat) : List SctMsg :=
  let hd := combHead s d.combl
  let st := combStride hd.2.2 B
  let l := o.shards d.nsh
  sctWalk d.mrows (fun i => let n := combShard s d.combl st i; (l[n]?).map (fun h => (n, h))) (List.range hd.1) []

/-- Send one message as an RACC sub-operation; none when no slot is to be had. -/
def sctSend (s : State) (t : Nat) (o : Op) (d : SctD) (r : Region) (m : SctMsg) : Option State :=
  match (o.shards d.nsh)[m.sh]? with
  | none => some s
  | some h =>
    match allocSub s t o 0x15 0 0 [] ((serverOf s m.dev m.reg).map Prod.fst |>.getD m.dev) with
    | none => none
    | some (s1, u) =>
      match s1.op u with
      | none => none
      | some q => some (sendAcc s1 u q (sctBytes s1 d r h m) (sctData s1 d r.B m))

/-- What SCT does while it runs. -/
def sctWork (t msgs : Nat) (s : State) (o : Op) : State :=
  let d := parseSct o.desc
  match o.img o.region with
  | none => s
  | some r =>
    let all := sctMsgs s o d r.B
    if o.aborted then (if o.subs = 0 then endAborted s t o.count else s)
    else if o.progress = all.length then (if o.subs = 0 then endWork s t 0 o.detail else s)
    else
      (((all.drop o.progress).take msgs).foldl (fun acc m =>
        match acc.2, acc.1.op t with
        | true, some p =>
          match sctSend acc.1 t p d r m with
          | some s1 => (s1.onOp t (fun p => { p with progress := p.progress + 1 }), true)
          | none => (acc.1, false)
        | _, _ => (acc.1, false)) (s, true)).1

/-- SCT (R281): up to `msgs` further messages; the end once every message has completed. -/
def execSct (t : SlotId) (msgs : Nat) (s : State) : Host.Outcome State Fault Refusal :=
  commit s (opRow s t.toNat 0x24 (fun _ _ => true) sctCheck (sctWork t.toNat msgs))

end Sys2Proof.Machine
end

