-- ==== Sys2Proof/Machine/Update.lean ====
section
/-!
DEFINITION. Updates (spec/07): the descriptor and its conditions (R185, R198, R204), the read stage (R191), micro-ops (R192-R199, R212-R215), the
write stage (R200-R203), stamps, progress maps and norm records, trials and commits (R202), Antler reports (R189).
-/

namespace Sys2Proof.Machine

/-- Fields of a UPD descriptor (Table 7-4). -/
structure UpdD where
  consts : List Nat
  prog   : Nat
  nops   : Nat
  m1     : Nat
  m2     : Nat
  rm     : Nat
  st     : Nat
  g      : Nat
  roww   : Nat
  first  : Nat
  nelem  : Nat
  gmask  : Nat
  dtab   : Nat
  gtab   : Option Nat
  gshift : Nat
  wmap   : Nat
  ngrid  : Int
  aset   : Option Nat
  pmap   : Nat
  pskip  : Bool
deriving DecidableEq, Repr

/-- Read a UPD descriptor. -/
def parseUpd (b : List Byte) : UpdD :=
  let pr := fieldAt b 64 4
  let off := fun o => let v := fieldAt b o 4 % 2 ^ 24; if v = 0xFFFFFF then none else some (v * 64)
  { consts := (List.range 16).map (fun i => fieldAt b (4 * i) 4), prog := pr % 2 ^ 24 * 64, nops := bits pr 29 24, m1 := fieldAt b 68 2 % 4096,
    m2 := fieldAt b 70 2 % 4096, rm := fieldAt b 72 2 % 4096, st := fieldAt b 74 2 % 4096, g := fieldAt b 76 2 % 4096, roww := fieldAt b 78 2,
    first := fieldAt b 80 6, nelem := fieldAt b 88 6, gmask := fieldAt b 94 2, dtab := fieldAt b 96 4 % 2 ^ 24 * 64, gtab := off 100,
    gshift := fieldAt b 104 1, wmap := bits (fieldAt b 105 1) 4 0, ngrid := sext 16 (fieldAt b 106 2), aset := off 108, pmap := fieldAt b 112 8,
    pskip := bitAt (fieldAt b 120 1) 0 }

/-- A micro-op as a program word holds it (Table 7-2). -/
structure MOp where
  op  : Nat
  d   : Nat
  a   : Nat
  b   : Nat
  k   : Nat
  imm : Nat
deriving DecidableEq, Repr

/-- Read a micro-op word. -/
def parseMOp (w : Nat) : MOp :=
  { op := bits w 31 26, d := bits w 25 22, a := bits w 21 18, b := bits w 17 14, k := bits w 13 10, imm := bits w 9 0 }

/-- IMM as a signed number. -/
def MOp.simm (w : MOp) : Int := sext 10 w.imm

/-- Fields that a micro-op uses: D, A, B, K, IMM (Table 7-3); none for a reserved OP. -/
def mopFields (op : Nat) : Option (Bool × Bool × Bool × Bool × Bool) :=
  match op with
  | 0x00 => some (false, false, false, false, false)
  | 0x01 => some (true, true, false, false, false)
  | 0x02 => some (true, true, true, false, false)
  | 0x03 => some (true, true, true, false, false)
  | 0x04 => some (true, true, true, false, false)
  | 0x05 => some (true, true, false, true, false)
  | 0x06 => some (true, true, true, true, false)
  | 0x07 => some (true, true, true, true, false)
  | 0x08 => some (true, true, false, false, false)
  | 0x09 => some (true, true, false, false, false)
  | 0x0A => some (true, true, false, false, false)
  | 0x0B => some (true, true, false, false, false)
  | 0x0C => some (true, true, true, false, false)
  | 0x0D => some (true, true, true, false, false)
  | 0x0E => some (true, false, false, true, false)
  | 0x0F => some (true, true, false, false, true)
  | 0x10 => some (true, true, false, false, false)
  | 0x11 => some (true, true, false, true, false)
  | 0x12 => some (true, true, false, true, true)
  | 0x13 => some (true, true, false, true, false)
  | 0x14 => some (true, true, false, false, false)
  | 0x15 => some (true, true, false, false, false)
  | 0x16 => some (false, true, false, false, true)
  | 0x17 => some (true, true, true, false, false)
  | 0x18 => some (true, true, false, true, false)
  | _ => none

/-- No field that the micro-op leaves unused is set (R195). -/
def MOp.fieldsOk (w : MOp) : Bool :=
  match mopFields w.op with
  | some (d, a, b, k, i) => (d || decide (w.d = 0)) && (a || decide (w.a = 0)) && (b || decide (w.b = 0)) && (k || decide (w.k = 0)) && (i || decide (w.imm = 0))
  | none => false

/-- Is micro-op number i of a program free of reserved encodings (R198)? -/
def mopOk (d : UpdD) (var i : Nat) (w : MOp) : Bool :=
  w.fieldsOk
  && (!(w.op = 0x14 || w.op = 0x15) || (decide (d.roww ≠ 0) && decide (i / 8 < (d.nops - 1) / 8)))
  && (!(w.op = 0x16) || (decide (var = 3) && decide (w.imm ≤ 1)))
  && (!(w.op = 0x12) || (decide (d.st ≠ 0xFFF) && decide (w.k ≤ 3) && decide (w.imm ≤ 15)))
  && (!(w.op = 0x13) || d.gtab.isSome)
  && (!(w.op = 0x17) || (decide (w.a = 1) && decide (w.d = 1)))

/-- The program of an operation's descriptor. -/
def programAt (s : State) (d : UpdD) : List Nat := (List.range d.nops).map (fun i => leNat (s.stBytes (d.prog + 4 * i) 4))

/-- First and last group of the range (R214). -/
def UpdD.groups (d : UpdD) : Nat × Nat := (d.first / 2 ^ d.gshift, (d.first + d.nelem - 1) / 2 ^ d.gshift)

/-- Decay tables that a program uses. -/
def decayTables (prog : List Nat) : Nat := (prog.map parseMOp).foldl (fun a w => if w.op = 0x12 then Nat.max a (w.k + 1) else a) 0

/-- A named region, unless the field says none. -/
def named (i : Nat) : List Nat := if i = 0xFFF then [] else [i]

/-- A parameter format of the Tines (Table 3-10). -/
def paramFmt (fmt : Nat) : Bool := fmt = fK8 || fmt = fK16 || fmt = fL8
/-- A moment format of the Tines (Table 3-10). -/
def momentFmt (fmt : Nat) : Bool := fmt = fK8 || fmt = fK8U || fmt = fK16 || fmt = fK16U || fmt = fL8

/-- The plan whose packed output a gradient region is, for a step: the armed one, or before the opening the one that DRCTL names (R346). VAR 3 takes
its gradients as VAR 0 does (Table 7-5). -/
def planOver (s : State) (step : Option Nat) (var g : Nat) : Option PlanD :=
  if var ≠ 0 ∧ var ≠ 3 then none
  else match step with
    | none => none
    | some n =>
      match armedOf s n with
      | some a => if a.d.oreg = g then some a.d else none
      | none =>
        match stepOf s n with
        | some x => if ¬ x.opened ∧ planWanted s ∧ (planAt s).oreg = g then some (planAt s) else none
        | none => none

/-- Do the rows of the range start at multiples of the row width and lie each within one interleave unit, which serves 4,096 elements
(R185, R397)? -/
def UpdD.rowsFit (d : UpdD) : Bool :=
  decide (d.roww = 0) || (decide (d.first % d.roww = 0)
    && (List.range (cdiv d.nelem d.roww)).all (fun k => decide ((d.first + k * d.roww) / 4096 = (d.first + k * d.roww + d.roww - 1) / 4096)))

/-- Acceptance check of a UPD (R162, R185, R198, R204, R346). -/
def updCheck (s : State) (o : Op) : Chk :=
  withDesc s o 128 (fun b =>
    let d := parseUpd b
    let p := s.region o.region
    let B := p.B
    let mom := fun i => i = 0xFFF || (let r := s.region i; regionOk s r && momentFmt r.fmt && !r.comp && !r.stg && r.dram && companion s p r
                                        && decide (d.first + d.nelem ≤ r.length))
    let row := fun i => i = 0xFFF || (let r := s.region i; regionOk s r && momentFmt r.fmt && !r.comp && !r.stg && r.dram && decide (d.roww ≠ 0)
                                        && rowCompanion s p r d.roww && decide ((d.first + d.nelem) ≤ r.length * d.roww))
    let g := s.region d.g
    let gOk := if o.var = 1 then decide (d.g ≠ 0xFFF) && regionOk s g && g.stg && companion s p g && decide (d.roww = g.sroww)
      else if o.var = 2 ∨ d.g = 0xFFF then decide (d.g = 0xFFF) && decide (o.var ≠ 0)
      else regionOk s g && !g.dram && !g.stg && (g.fmt = fK8 || g.fmt = fK16 || g.fmt = fG32)
        && (match planOver s o.step o.var d.g with
            | some q => decide (d.aset = some q.aset) && decide (d.first = q.first) && decide (d.nelem = q.nelem)
            | none => decide (d.nelem ≤ g.length))
    let progR := storeRange d.prog (4 * d.nops) false
    if !(regionOk s p) || !p.dram || !(paramFmt p.fmt) || p.stg || decide (d.nops = 0) || decide (32 < d.nops)
       || decide (d.nelem = 0) || decide (d.first % B ≠ 0) || decide (d.nelem % B ≠ 0) || decide (p.length < d.first + d.nelem) || !(unitsOk s p)
       || decide (1024 < d.roww) || decide (d.roww % B ≠ 0)
       || !(d.rowsFit)
       || !(mom d.m1) || !(mom d.m2) || !(row d.rm) || !(row d.st) || !(d.st = 0xFFF || stampOk s (s.region d.st)) || !gOk
       || d.consts.any (fun c => decide (c % 65536 = 0x8000))
       || (d.gtab.isSome && (decide (2 ^ d.gshift < B) || decide (40 < d.gshift)))
       || (decide (o.var = 3) && (d.gtab.isNone || decide (d.wmap ≠ 0)))
       || (bitAt d.wmap 1 && decide (d.m1 = 0xFFF)) || (bitAt d.wmap 2 && decide (d.m2 = 0xFFF)) || (bitAt d.wmap 3 && decide (d.rm = 0xFFF))
       || (bitAt d.wmap 4 && decide (d.st = 0xFFF)) || decide (d.pmap % 64 ≠ 0) then .illegal
    else match badRanges s [progR] with
      | some x => .bad 0x16 x
      | none =>
        let prog := programAt s d
        let nb := d.nelem / B
        let gr := d.groups
        let dtab := if decayTables prog = 0 then [] else [storeRange d.dtab (576 * decayTables prog) false]
        let gtab := match d.gtab with
          | some a => if o.var = 3 then [storeRange (a + 32 * gr.1) (32 * (gr.2 + 1 - gr.1)) true]
                      else if (prog.map parseMOp).any (fun w => w.op = 0x13) then [storeRange (a + 4 * gr.1) (4 * (gr.2 + 1 - gr.1)) false] else []
          | none => []
        let aset := match d.aset with | some a => [storeRange a (cdiv (cdiv d.nelem 64) 8) false] | none => []
        let pmap := if d.pmap = 0 then [] else [rngL d.pmap (cdiv nb 8) true]
        if prog.zipIdx.any (fun e => !(mopOk d o.var e.2 (parseMOp e.1))) then .illegal
        else match badRanges s (dtab ++ gtab ++ aset ++ pmap) with
          | some x => .bad 0x16 x
          | none =>
            let grad := if d.g = 0xFFF then [] else if o.var = 1 then regionRanges g false
              else match planOver s o.step o.var d.g with
                | some _ => regionRanges g false
                | none => spanRanges g 0 d.nelem false
            let elems := fun k i => spanRanges (s.region i) d.first d.nelem (bitAt d.wmap k)
            let rows := fun k i => spanRanges (s.region i) (d.first / d.roww) (cdiv d.nelem d.roww) (bitAt d.wmap k)
            .ok (elems 0 o.region ++ (named d.m1).flatMap (elems 1) ++ (named d.m2).flatMap (elems 2)
                  ++ (named d.rm).flatMap (rows 3) ++ (named d.st).flatMap (rows 4) ++ grad ++ dtab ++ gtab ++ aset ++ pmap)
              ((o.region, p) :: ((named d.m1 ++ named d.m2 ++ named d.rm ++ named d.st ++ named d.g).map (fun i => (i, s.region i)))) b prog)

/-- A reserved constant found in the group table of a program with GRP as the UPD is dispatched (R194, R215). -/
def groupTableBad (s : State) (o : Op) : Bool :=
  let d := parseUpd o.desc
  match d.gtab with
  | some a => o.var ≠ 3 && (o.prog.map parseMOp).any (fun w => w.op = 0x13)
      && (List.range (d.groups.2 + 1 - d.groups.1)).any (fun i => leNat (s.stBytes (a + 4 * (d.groups.1 + i)) 2) = 0x8000)
  | none => false

/-! ### The division of work (R186, R205, R206) -/

/-- What an operation's units need: its descriptor and region images. -/
structure UpdCtx where
  d  : UpdD
  p  : Region
  m1 : Option Region
  m2 : Option Region
  rm : Option Region
  st : Option Region
  g  : Option Region
deriving DecidableEq, Repr

/-- The context of an accepted UPD. -/
def updCtx (o : Op) : Option UpdCtx :=
  let d := parseUpd o.desc
  let im := fun i => if i = 0xFFF then none else o.img i
  (o.img o.region).map (fun p => { d := d, p := p, m1 := im d.m1, m2 := im d.m2, rm := im d.rm, st := im d.st, g := im d.g })

/-- Blocks of a unit. -/
def UpdCtx.perUnit (c : UpdCtx) : Nat := if c.d.roww = 0 then 1 else c.d.roww / c.p.B
/-- Number of units of the range. -/
def UpdCtx.units (c : UpdCtx) : Nat := cdiv (c.d.nelem / c.p.B) c.perUnit
/-- First element offset of a unit within the parameter region. -/
def UpdCtx.elem (c : UpdCtx) (u : Nat) : Nat := c.d.first + u * c.perUnit * c.p.B
/-- Row of a unit. -/
def UpdCtx.row (c : UpdCtx) (u : Nat) : Nat := if c.d.roww = 0 then 0 else c.elem u / c.d.roww

/-- Hoof and Antler that do a unit's work, the stand-in where the stack is lost, and the Tine (R186). -/
def unitPlace (s : State) (c : UpdCtx) (u : Nat) : Nat × Nat × Nat :=
  let a := c.p.base + c.elem u * codeBits c.p.fmt / 8
  match spaceAt s a with
  | some p =>
    let l := place p a
    (standInHoof s l.hoof, l.antler, l.ch)
  | none => (0, 0, 0)

/-- Share of the staging half that holds a unit's row, and the row's slot (R205). -/
def unitSlot (s : State) (o : Op) (c : UpdCtx) (u : Nat) : Option (Share × Nat) :=
  match c.g, rowAnt s c.p (c.row u) c.d.roww with
  | some g, some a =>
    match shareOf s g a (o.step.getD 0 % 2) with
    | some h => (Share.find s h (c.row u)).map (fun k => (h, k))
    | none => none
  | _, _ => none

/-- Is gradient element e of the range selected (R205)? -/
def selected (s : State) (d : UpdD) (e : Nat) : Bool :=
  match d.aset with
  | none => true
  | some a => bitAt (leNat (s.stBytes (a + e / 64 / 8) 1)) (e / 64 % 8)

/-- Element of the gradient region that pairs with element e of the range: itself, or its place in the packed output (R346). -/
def gradElem (s : State) (o : Op) (d : UpdD) (e : Nat) : Nat :=
  match planOver s o.step o.var d.g with
  | some q => 64 * ((List.range (e / 64)).countP (fun j => bitAt (leNat (s.stBytes (q.aset + j / 8) 1)) (j % 8))) + e % 64
  | none => e

/-- Bit j of the progress map. -/
def progressBit (s : State) (d : UpdD) (j : Nat) : Bool := bitAt (localByte s (d.pmap + j / 8)).toNat (j % 8)

/-- Blocks of unit u that the sweep visits (R205, R206), as block numbers of the range. Table 7-5 makes VAR 0 alone subject to ASET. -/
def unitBlocks (s : State) (o : Op) (c : UpdCtx) (u : Nat) : List Nat :=
  let bl := ((List.range c.perUnit).map (fun k => u * c.perUnit + k)).filter (fun j => decide (j < c.d.nelem / c.p.B))
  if o.var = 1 ∧ (unitSlot s o c u).isNone then []
  else bl.filter (fun j =>
    (o.var ≠ 0 || (List.range (cdiv c.p.B 64)).any (fun k => selected s c.d (j * c.p.B + 64 * k)))
    && !(c.d.pskip && decide (c.d.pmap ≠ 0) && progressBit s c.d j))

/-- Has the sweep anything to do for unit u that it has not done? -/
def unitDue (s : State) (o : Op) (c : UpdCtx) (u : Nat) : Bool :=
  decide (u < c.units) && decide (u ∉ o.done) && !(unitBlocks s o c u).isEmpty

/-! ### The read stage (R191, R194, R210) -/

/-- Coarse scale, gain and SRB of a region's Velvet entry, captured at the opening of the step (R200). -/
def velOf (s : State) (step : Option Nat) (r : Region) : Int × Int × Nat :=
  match (step.bind (stepOf s)).bind (fun x => aget x.vel r.velv) with
  | some v => v
  | none => let v := s.velvet r.velv; (v.c, v.g, v.srb)

/-- A register of the values of one block whose exact exponent is e0. -/
def regOfVals (e0 : Int) (vals : List Num) : MReg := let r := toReg e0 vals; { x := r.1, m := r.2.1 }

/-- Exponent at which block b of a narrow region is read. -/
def blockE (s : State) (C : Int) (r : Region) (b : Nat) : Int := C + bbL (bbyteAt s r b) + bbF (bbyteAt s r b)

/-- Grid of a narrow format below its block exponent: L8 magnitudes count 2^-11. -/
def gridE (fmt : Nat) (E : Int) : Int := if fmt = fL8 then E - 11 else E

/-- Register of block b of a narrow region. -/
def narrowReg (s : State) (C : Int) (r : Region) (b : Nat) : MReg :=
  let E := blockE s C r b
  regOfVals (gridE r.fmt E) ((List.range r.B).map (fun i => decodeCode r.fmt (codeAt s r (b * r.B + i)) E))

/-- Register of a parameter block: compensated elements enter as 256 x hi + lo at E - 8 (R203). -/
def paramReg (s : State) (C : Int) (r : Region) (b : Nat) : MReg :=
  if r.comp then
    let E := blockE s C r b
    regOfVals (E - 8) ((List.range r.B).map (fun i => decodeComp (codeAt s r (b * r.B + i)) (localByte s (r.lobase + b * r.B + i)).toNat E))
  else narrowReg s C r b

/-- Exponent at which element i of a gradient or row-moment region enters a register (Table 7-1). -/
def entryExp (s : State) (C : Int) (r : Region) (i : Nat) : Int :=
  if narrow r.fmt then gridE r.fmt (blockE s C r (i / r.B))
  else if r.fmt = fG32 then (let h := leNat (rdLocal s (r.base + i / 64 * 272) 4); sext 10 h + bits h 21 16)
  else sext 10 (bwordAt s r (i / r.B))

/-- Gradient register of block j of the range (R191, R205). Where gradient blocks of different exponents pair with one parameter block,
which Table 7-1 does not settle, the register takes the least of them (DESIGN CHOICE, notes/assumptions/50). -/
def gradReg (s : State) (o : Op) (c : UpdCtx) (j : Nat) : MReg :=
  let B := c.p.B
  match c.g with
  | none => { x := 0, m := List.replicate B (some 0) }
  | some g =>
    if o.var = 1 then
      match unitSlot s o c (j / c.perUnit) with
      | some (h, k) => { x := Share.es s h, m := stgBlock s h k (j % c.perUnit) }
      | none => { x := 0, m := List.replicate B (some 0) }
    else
      let C := (velOf s o.step g).1
      let vals := (List.range B).map (fun i => let e := j * B + i; if selected s c.d e then elemVal s g C (gradElem s o c.d e) else Num.zero)
      let es := ((List.range B).filter (fun i => selected s c.d (j * B + i))).map (fun i => entryExp s C g (gradElem s o c.d (j * B + i)))
      regOfVals (match es with | [] => 0 | e :: rest => rest.foldl Min.min e) vals

/-- Constant k with its update gain: mantissa and exponent (R194). -/
def constOf (d : UpdD) (G : Int) (k : Nat) : Int × Int :=
  let w := d.consts.getD k 0
  (sext 16 w, sext 8 (w / 65536) + (if bitAt d.gmask k then G else 0))

/-- A value as State keeps it. -/
def Num.keep : Num → Option (Int × Int)
  | .void => none
  | .fin m e => some (m, e)

/-- A kept value. -/
def Num.kept : Option (Int × Int) → Num
  | none => .void
  | some (m, e) => .fin m e

/-- Block n of the row-moment region as the UPD's run has it: exact values, and the byte that the block had before the run wrote it. -/
def rowBlk (s : State) (o : Op) (r : Region) (n : Nat) : RowBlk :=
  (o.rowBlks.find? (fun x => x.blk = n)).getD
    { blk := n, old := bbyteAt s r n, vals := (elemVals s r (velOf s o.step r).1 (n * r.B) r.B).map Num.keep, sat := false }

/-- A fresh block of a unit at entry to pass 0. A row moment enters as it stood before the UPD's run wrote its block (R190, R191). -/
def entryBlock (s : State) (o : Op) (c : UpdCtx) (u j : Nat) : TBlock :=
  let b := (c.d.first + j * c.p.B) / c.p.B
  let vC := fun r => (velOf s o.step r).1
  let mom := fun (r : Option Region) k => match r with | some q => [(k, narrowReg s (vC q) q b)] | none => []
  let rm := match c.rm with
    | some q =>
      let y := rowBlk s o q (c.row u / q.B)
      [(4, regOfVals (gridE q.fmt (vC q + bbL y.old + bbF y.old)) (List.replicate c.p.B (Num.kept ((y.vals[c.row u % q.B]?).getD none))))]
    | none => []
  { idx := j, regs := [(0, gradReg s o c j), (1, paramReg s (vC c.p) c.p b)] ++ mom c.m1 2 ++ mom c.m2 3 ++ rm, next := [], sat := false, clamp := false,
    norm := [] }

/-- The unit at entry to pass 0: its gap by the stamp (R210). -/
def entryUnit (s : State) (t : Nat) (o : Op) (c : UpdCtx) (u : Nat) : Unit :=
  { slot := t, unit := u, upc := 0,
    gap := match c.st with | some r => (o.step.getD 0 + 65536 - stampOf s r (c.row u)) % 65536 | none => 0,
    blocks := (unitBlocks s o c u).map (entryBlock s o c u), held := [] }

/-! ### Micro-ops (R192-R199) -/

/-- What a micro-op of one block reads beside the registers. -/
structure MEnv where
  E    : Int
  G    : Int
  c    : Int × Int
  dec  : Nat
  phi  : Int × Int
  ngrid : Int
deriving DecidableEq, Repr

/-- A register of a block; one never set reads zero. -/
def TBlock.reg (b : TBlock) (B i : Nat) : MReg := (aget b.regs i).getD { x := 0, m := List.replicate B (some 0) }

/-- Values of a register. -/
def MReg.vals (r : MReg) : List Num := r.m.map (ofReg r.x)

/-- Result of a micro-op on a block: register, register-saturated, first element made void, exponent held by the bounds of R193. -/
structure MRes where
  r    : MReg
  sat  : Bool
  made : Option Nat
  clamp : Bool
deriving DecidableEq, Repr

/-- An exact result narrowed by R192 and R193. -/
def exactRes (e0 : Int) (vals : List Num) : MRes := 
  let x := toReg e0 vals
  { r := { x := x.1, m := x.2.1 }, sat := x.2.2, made := none, clamp := clampedX (regX e0 vals) }

/-- The result of an approximating micro-op whose values have floor(log2) `lg` and magnitude `mag X`; elements without one are void. -/
def approxRes (ins : List (Option (Int × (Int → Int)))) (made : Option Nat) (zeros : List Bool) : MRes :=
  let top := (ins.filterMap (fun o => o.map Prod.fst))
  let X := if top.isEmpty then 0 else maxInt 0 top - 30
  if X < -512 then { r := { x := -512, m := zeros.map (fun v => if v then none else some 0) }, sat := false, made := made, clamp := true }
  else { r := { x := X, m := ins.map (fun o => o.map (fun f => Max.max (-max31) (Min.min max31 (f.2 X)))) }, sat := false, made := made, clamp := false }

/-- RCP of a block: zero gives void and a trap (Table 4-9). -/
def rcpRes (vals : List Num) : MRes :=
  approxRes (vals.map (fun v => match v with
      | .fin m e => if m = 0 then none else some (rcpLg m e, fun X => m.sign * (rcpMag m e X : Int))
      | .void => none))
    (vals.zipIdx.find? (fun e => match e.1 with | .fin m _ => decide (m = 0) | .void => false) |>.map Prod.snd)
    (vals.map (fun v => !v.active))

/-- RSQ of a block of sums: zero or a negative sum gives void and a trap. -/
def rsqRes (vals : List Num) : MRes :=
  approxRes (vals.map (fun v => match v with
      | .fin m e => if m ≤ 0 then none else some (rsqLg m e, fun X => (rsqMag m e X : Int))
      | .void => none))
    (vals.zipIdx.find? (fun e => match e.1 with | .fin m _ => decide (m ≤ 0) | .void => false) |>.map Prod.snd)
    (vals.map (fun v => match v with | .fin m _ => decide (m ≤ 0) | .void => true))

/-- APL of one element (R199): the value and whether |D| was held. -/
def aplElem (E G : Int) (a u : Num) : Num × Bool :=
  match a, u.at_ (E - 16) with
  | .fin m e, some D =>
    let h := hold31 D
    (Num.sub (.fin m e) (.fin h.1 (E - 16 - G)), h.2)
  | _, _ => (.void, false)

/-- The constant as a value. -/
def cNum (c : Int × Int) : Num := .fin c.1 c.2

/-- Result of the micro-ops that give d from registers of the same block (Table 7-3). -/
def microRes (env : MEnv) (w : MOp) (a b : MReg) : MRes :=
  let va := a.vals
  let vb := b.vals
  let cx := env.c.2
  let cn := cNum env.c
  let z2 := fun (f : Num → Num → Num) => (List.zip va vb).map (fun e => f e.1 e.2)
  match w.op with
  | 0x01 => exactRes a.x va
  | 0x02 => exactRes (Min.min a.x b.x) (z2 Num.add)
  | 0x03 => exactRes (Min.min a.x b.x) (z2 Num.sub)
  | 0x04 => exactRes (a.x + b.x) (z2 Num.mul)
  | 0x05 => exactRes (a.x + cx) (va.map (fun v => Num.mul v cn))
  | 0x06 => exactRes (Min.min a.x (b.x + cx)) (z2 (fun x y => Num.add x (Num.mul y cn)))
  | 0x07 => exactRes (Min.min a.x (Min.min a.x b.x + cx)) (z2 (fun x y => Num.add x (Num.mul (Num.sub y x) cn)))
  | 0x08 => exactRes (2 * a.x) (va.map (fun v => Num.mul v v))
  | 0x09 => exactRes a.x (va.map Num.abs)
  | 0x0A => exactRes a.x (va.map Num.neg)
  | 0x0B => exactRes 0 (va.map Num.sgn)
  | 0x0C => exactRes (Min.min a.x b.x) (z2 Num.max)
  | 0x0D => exactRes (Min.min a.x b.x) (z2 Num.min)
  | 0x0E => exactRes cx (va.map (fun _ => cn))
  | 0x0F => exactRes (a.x + w.simm) (va.map (Num.scl w.simm))
  | 0x10 => rcpRes va
  | 0x11 => rsqRes (va.map (fun v => Num.add v cn))
  | 0x12 => exactRes (a.x - 93) (va.map (fun v => Num.mul v (.fin env.dec (-93))))
  | 0x13 => exactRes (a.x + env.phi.2 + cx) (va.map (fun v => Num.mul (Num.mul v (cNum env.phi)) cn))
  | 0x17 =>
    let es := z2 (fun x y => (aplElem env.E env.G x y).1)
    let held := (List.zip va vb).any (fun e => (aplElem env.E env.G e.1 e.2).2)
    let r := exactRes (Min.min a.x (env.E - 16 - env.G)) es
    { r with sat := r.sat || held }
  | 0x18 => exactRes (Min.min a.x cx) (va.map (fun v => Num.clamp v cn))
  | _ => { r := a, sat := false, made := none, clamp := false }

/-- Entries of the decay tables that a UPD's program uses, as the Antlers load them with the UPD (R184, R212). -/
def decayWords (s : State) (o : Op) : List Nat :=
  (List.range (144 * decayTables o.prog)).map (fun i => leNat (s.stBytes ((parseUpd o.desc).dtab + 4 * i) 4))

/-- Product of the three decay-table entries of a gap (R212), in units of 2^-93. -/
def decayOf (tabs : List Nat) (k gap : Nat) : Nat :=
  let e := fun i => tabs.getD (144 * k + i) 0
  e (gap % 64) * e (64 + gap / 64 % 64) * e (128 + gap / 4096 % 16)

/-- Factor of the group of block j (R215). -/
def phiOf (s : State) (c : UpdCtx) (j : Nat) : Int × Int :=
  match c.d.gtab with
  | some a => let w := leNat (s.stBytes (a + 4 * ((c.d.first + j * c.p.B) / 2 ^ c.d.gshift)) 4); (sext 16 w, sext 8 (w / 65536))
  | none => (0, 0)

/-- What micro-op w of block j of a unit with gap `gap` reads. -/
def microEnv (s : State) (o : Op) (c : UpdCtx) (gap j : Nat) (w : MOp) : MEnv :=
  let v := velOf s o.step c.p
  { E := blockE s v.1 c.p ((c.d.first + j * c.p.B) / c.p.B), G := v.2.1, c := constOf c.d v.2.1 w.k,
    dec := if w.op = 0x12 then decayOf o.tabs w.k (gap - w.imm) else 0,
    phi := if w.op = 0x13 then phiOf s c j else (0, 0), ngrid := c.d.ngrid }

/-- Row-scope reductions over the blocks of a unit (R197): one value in every element, and whether it was held (R193). The spec does not
say what they take of the blocks that ASET or PSKIP leaves out of a row: those are not read and add nothing (DESIGN CHOICE,
notes/assumptions/50). -/
def rowRes (op : Nat) (regs : List MReg) : MRes :=
  let vals := regs.flatMap MReg.vals
  exactRes ((regs.map (fun r => r.x)).foldl Min.min (2000 : Int))
    [if op = 0x14 then sumNum vals else vals.foldl (fun a x => Num.max a (Num.abs x)) Num.void]

/-- What RED adds for a block: the sum of squares on the norm grid, and whether a void was met (R214). -/
def redSum (ngrid : Int) (a : MReg) : Nat × Bool :=
  (sumNat (a.m.map (fun o => match o with | some v => (onGrid (v * v) (2 * a.x) ngrid).toNat | none => 0)), a.m.any Option.isNone)

/-- The next micro-op of a unit. The second part is the lowest offset at which it made a void, within the range. -/
def unitStep (s : State) (o : Op) (c : UpdCtx) (x : Unit) : Unit × Option Nat :=
  match o.prog[x.upc]? with
  | none => (x, none)
  | some word =>
    let w := parseMOp word
    let B := c.p.B
    let row := rowRes w.op (x.blocks.map (fun b => b.reg B w.a))
    let res := x.blocks.map (fun b =>
      if w.op = 0x00 then (b, none)
      else if w.op = 0x14 ∨ w.op = 0x15 then
        ({ b with next := aput b.next w.d { x := row.r.x, m := List.replicate B (row.r.m.headD (some 0)) }, sat := b.sat || row.sat,
                  clamp := b.clamp || row.clamp }, none)
      else if w.op = 0x16 then
        let r := redSum c.d.ngrid (b.reg B w.a)
        ({ b with norm := b.norm ++ [(w.imm % 2, r.1, r.2)] }, none)
      else
        let r := microRes (microEnv s o c x.gap b.idx w) w (b.reg B w.a) (b.reg B w.b)
        ({ b with regs := aput b.regs w.d r.r, sat := b.sat || r.sat, clamp := b.clamp || r.clamp }, r.made.map (fun i => b.idx * B + i)))
    let upc := x.upc + 1
    let bl := res.map (fun e => if upc % 8 = 0 then { e.1 with regs := e.1.next.foldl (fun m q => aput m q.1 q.2) e.1.regs, next := [] } else e.1)
    ({ x with upc := upc, blocks := bl }, (res.filterMap Prod.snd).foldl (fun a i => some (match a with | some j => Nat.min j i | none => i)) none)

/-- Unit u of the UPD in slot t as its Tine holds it, if it has started. -/
def tineUnit (s : State) (t u : Nat) : Option Unit := s.tines.find? (fun x => x.slot = t && x.unit = u)

/-- Keep a unit in its Tine. -/
def putUnit (s : State) (x : Unit) : State :=
  { s with tines := s.tines.filter (fun y => !(y.slot = x.slot && y.unit = x.unit)) ++ [x] }

/-- A unit leaves its Tine. -/
def dropUnit (s : State) (t u : Nat) : State := { s with tines := s.tines.filter (fun y => !(y.slot = t && y.unit = u)) }

/-- Note a void that a micro-op made (R193, R174). -/
def noteMade (s : State) (t : Nat) (o : Op) (c : UpdCtx) (m : Option Nat) : State :=
  match m with
  | some i => s.onOp t (fun p => { p with voids := lowerVoid p.voids (some (c.p.lbase + c.d.first + i, 2, o.region)) })
  | none => s

/-- Tine that takes a unit's blocks: the failed one's sibling under sibling service (R186, R410). -/
def unitTine (s : State) (c : UpdCtx) (u : Nat) : Nat × Nat × Nat :=
  let p := unitPlace s c u
  (p.1, p.2.1, if bitAt (fld (s.hoof p.1).hflt 31 0) p.2.2 then (if p.2.2 % 2 = 0 then p.2.2 + 1 else p.2.2 - 1) else p.2.2)

/-- Blocks in flight in a Tine; held ones wait in the shadow queue (R188, R265). -/
def tineLoad (s : State) (p : Nat × Nat × Nat) : Nat :=
  sumNat ((s.tines.filter (fun x => x.held.isEmpty && (match (s.op x.slot).bind updCtx with
    | some c => decide (unitTine s c x.unit = p) | none => false))).map (fun x => x.blocks.length))

/-- Has the UPD in slot t begun at an Antler, or nothing to begin there (R187)? -/
def begunAt (s : State) (t : Nat) (o : Op) (h a : Nat) : Bool :=
  match updCtx o with
  | none => true
  | some c =>
    let us := (List.range c.units).filter (fun u => let p := unitPlace s c u; p.1 = h && p.2.1 = a)
    o.aborted || us.any (fun u => decide (u ∈ o.done) || (tineUnit s t u).isSome) || us.all (fun u => !(unitDue s o c u))

/-- May unit u start: its Tine takes its units in ascending order and has room in its eight stages, and its Antler starts its UPDs in
dispatch order (R186-R188)? A row that is longer than eight blocks goes through a Tine that has no other block. -/
def mayStart (s : State) (t : Nat) (o : Op) (c : UpdCtx) (u : Nat) : Bool :=
  let p := unitTine s c u
  let n := tineLoad s p
  (List.range u).all (fun v => !(unitDue s o c v) || (tineUnit s t v).isSome || decide (unitTine s c v ≠ p))
  && (busySlots s).all (fun e => decide (e.2.opc ≠ 0x20) || decide (e.2.phase ≠ .running) || decide (o.dispAt ≤ e.2.dispAt)
      || begunAt s e.1 e.2 p.1 p.2.1)
  && (decide (n = 0) || decide (n + (unitBlocks s o c u).length ≤ 8))

/-- The UPD in slot t when unit u of it may advance: running, not ended, u due, started or free to start, and not held. -/
def updUnit (s : State) (t u : Nat) : Option (Op × UpdCtx × Unit) :=
  match running s t 0x20 with
  | none => none
  | some o =>
    match updCtx o with
    | none => none
    | some c =>
      match tineUnit s t u with
      | some x => if unitDue s o c u ∧ x.held = [] then some (o, c, x) else none
      | none => if unitDue s o c u ∧ ¬ o.aborted ∧ mayStart s t o c u then some (o, c, entryUnit s t o c u) else none

/-- A micro-op row: unit u executes its next micro-op when it is the one commanded. -/
def microRow (s : State) (t u op : Nat) (f : MicroF) : State :=
  match updUnit s t u with
  | none => s
  | some (o, c, x) =>
    match o.prog[x.upc]? with
    | none => s
    | some word =>
      if parseMOp word = { op := op, d := f.d.toNat, a := f.a.toNat, b := f.b.toNat, k := f.k.toNat, imm := f.imm.toNat } then
        let r := unitStep s o c x
        noteMade (putUnit s r.1) t o c r.2
      else s

/-! ### The write stage (R200-R203) -/

/-- A written quantity of one block: region, its index, block number, codes and what they report, lo codes. -/
structure QW where
  ri  : Nat
  r   : Region
  b   : Nat
  w   : BlockW
  los : List Byte
deriving DecidableEq, Repr

/-- Encode one quantity of a block (R200) over the block byte `old`: qty 0 parameter, 1 and 2 moments, 3 row moment. A compensated parameter
is rounded by R88, every other quantity stochastically; `sat` sets OVF. -/
def encodeQ (s : State) (o : Op) (ri : Nat) (r : Region) (b qty : Nat) (old : Byte) (vals : List Num) (sat : Bool) : QW :=
  let v := velOf s o.step r
  let key := stepKey s o.step
  let n := srbBits v.2.2
  let pair := r.comp && decide (qty = 0)
  let w := encBlock r.fmt r.strict (stepGuarded s o.step) v.1 old vals (fun E i x =>
    if pair then (compEnc r.strict E x).1
    else sround r.fmt r.strict E n (roundBits key (r.lbase + b * r.B + i) (o.step.getD 0xFFFFFFFF) r.velv qty n) x)
  { ri := ri, r := r, b := b, los := if pair then vals.map (fun x => BitVec.ofNat 8 (compEnc r.strict w.E x).2) else [],
    w := if sat then { w with ovf := true, bb := w.bb ||| 0x40 } else w }

/-- Write an encoded quantity, or in a trial record alone what it reports. The commit run after a trial repeats no count (R118, R202). -/
def applyQ (s : State) (t : Nat) (o : Op) (q : QW) (commit : Bool) : State :=
  let s1 := if commit then
      let a := putBB (putCodes s t q.r q.b q.w.codes) t q.r q.b q.w.bb
      if q.los = [] then a else wrLocal a t (q.r.lobase + q.b * q.r.B) q.los
    else s
  let first := !(commit && stepGuarded s o.step)
  let s2 := if first then
      countVelvet s1 q.r.velv q.w.mag (q.w.encs.countP (fun e => e.unf)) (if q.w.overflowed then 1 else 0) (q.w.encs.countP (fun e => e.edge)) q.w.pend
    else s1
  let s3 := markStep s2 o.step q.r.velv q.w.overflowed
  noteOp s3 t 0 (-128) q.w.overflowed (q.w.encs.any (fun e => e.vp)) false (firstVoid q.ri (q.r.lbase + q.b * q.r.B) q.w.encs)

/-- Largest change of the parameter's elements, as a log2 code (R189). -/
def changeMag (s : State) (o : Op) (c : UpdCtx) (b : TBlock) : Int :=
  let v := velOf s o.step c.p
  let before := (paramReg s v.1 c.p ((c.d.first + b.idx * c.p.B) / c.p.B)).vals
  logCode (maxMag ((List.zip (b.reg c.p.B 1).vals before).map (fun e => Num.sub e.1 e.2)))

/-- Quantities of a block that WMAP names. -/
def blockQs (s : State) (o : Op) (c : UpdCtx) (b : TBlock) : List QW :=
  let n := (c.d.first + b.idx * c.p.B) / c.p.B
  let q := fun (bit qty ri : Nat) (r : Option Region) => match r with
    | some r => if bitAt c.d.wmap bit then [encodeQ s o ri r n qty (bbyteAt s r n) (b.reg c.p.B (bit + 1)).vals b.sat] else []
    | none => []
  q 0 0 o.region (some c.p) ++ q 1 1 c.d.m1 c.m1 ++ q 2 2 c.d.m2 c.m2

/-- Add to a norm record (R214). -/
def addNorm (s : State) (a g ch v : Nat) (vd : Bool) : State :=
  let o := a + 32 * g
  let x := leNat (s.stBytes (o + 8 * ch) 8) + v
  let f := leNat (s.stBytes (o + 16) 1)
  let s1 := s.stWrite (o + 8 * ch) (leBytes 8 (Nat.min x (2 ^ 64 - 1)))
  s1.stWrite (o + 16) (leBytes 1 (f ||| ((if 2 ^ 64 ≤ x then 1 else 0) + (if vd then 2 else 0))))

/-- Finish one block of a unit: its quantities, with the row moment `more` where the block is the row's first, its summary, its progress bit,
its norm records. COUNT counts the block's elements also where WMAP[0] is 0 and no parameter element is written, which R189 does not settle
(DESIGN CHOICE, notes/assumptions/59); a norm sweep's is its records, set at its end, and its blocks until then. -/
def finishBlock (s : State) (t : Nat) (o : Op) (c : UpdCtx) (b : TBlock) (more : List QW) (commit : Bool) : State :=
  let qs := blockQs s o c b ++ more
  let mag := if bitAt c.d.wmap 0 then changeMag s o c b else -128
  let s1 := qs.foldl (fun s q => applyQ s t o q commit) s
  let s2 := s1.onOp t (fun p => { p with maxabs := logMax p.maxabs mag, ovfcnt := p.ovfcnt + (if qs.any (fun q => q.w.ovf) then 1 else 0),
                                         count := p.count + (if commit then c.p.B else 0) })
  let s3 := if commit ∧ c.d.pmap ≠ 0 then
      let a := c.d.pmap + b.idx / 8
      wrLocal s2 t a [localByte s2 a ||| BitVec.ofNat 8 (2 ^ (b.idx % 8))]
    else s2
  match commit && decide (o.var = 3), c.d.gtab with
  | true, some a => b.norm.foldl (fun s e => addNorm s a ((c.d.first + b.idx * c.p.B) / 2 ^ c.d.gshift) e.1 e.2.1 e.2.2) s3
  | _, _ => s3

/-- The row moment of a unit's row (R200), and its block as the run has it from then on. Rows of one block commit one by one: each commit
encodes the block afresh from the exact values of the rows committed so far and the elements as they stood, with L by R107 from the byte
before the run, so that the codes do not depend on the order of the rows (R190). Each commit writes that block, and reports it whole (R104-R106).
The spec does not say which block's register saturation marks the row's block, nor whose first element the row moment takes where ASET or PSKIP
leaves the row's first block out: any block of the row marks it, and the first block visited gives the element (DESIGN CHOICE,
notes/assumptions/50). -/
def rowMoment (s : State) (o : Op) (c : UpdCtx) (x : Unit) : List (QW × RowBlk) :=
  match c.rm, x.blocks with
  | some r, b :: _ =>
    if bitAt c.d.wmap 3 then
      let row := c.row x.unit
      let n := row / r.B
      let y := rowBlk s o r n
      let y := { y with vals := y.vals.set (row % r.B) ((b.reg c.p.B 4).vals.headD Num.zero).keep, sat := y.sat || x.blocks.any (fun b => b.sat) }
      [(encodeQ s o c.d.rm r n 3 y.old (y.vals.map Num.kept) y.sat, y)]
    else []
  | _, _ => []

/-- Keep a row-moment block in an operation. -/
def Op.keepRow (o : Op) (y : RowBlk) : Op := { o with rowBlks := o.rowBlks.filter (fun x => x.blk ≠ y.blk) ++ [y] }

/-- Zero the norm records of the groups that the range touches (R214). -/
def zeroNorms (s : State) (c : UpdCtx) : State :=
  match c.d.gtab with
  | some a => (List.range (c.d.groups.2 + 1 - c.d.groups.1)).foldl (fun s i => s.stWrite (a + 32 * (c.d.groups.1 + i)) (List.replicate 32 0)) s
  | none => s

/-- A unit whose program has run: in a trial its overflows and maxima are recorded, in a commit its writes are released together (R201, R202). -/
def finishUnit (s : State) (t : Nat) (o : Op) (c : UpdCtx) (x : Unit) : State :=
  let commit := !o.trial
  let s0 := if commit ∧ o.var = 3 ∧ o.progress = 0 then zeroNorms s c else s
  let rmq := rowMoment s0 o c x
  let s1 := x.blocks.zipIdx.foldl (fun s e => finishBlock s t o c e.1 (if e.2 = 0 then rmq.map Prod.fst else []) commit) s0
  let s2 := s1.onOp t (fun p => rmq.foldl (fun p e => p.keepRow e.2) p)
  let s3 := match c.st, commit && bitAt c.d.wmap 4 with
    | some r, true => putStamp s2 t r (c.row x.unit) (o.step.getD 0)
    | _, _ => s2
  let s4 := match o.step with
    | some n => if o.var = 3 then s3 else s3.onStep n (fun y => { y with updated := addNew y.updated o.region })
    | none => s3
  let pl := unitPlace s c x.unit
  let sib := bitAt (fld (s.hoof pl.1).hflt 31 0) pl.2.2
  dropUnit (s4.onOp t (fun p => { p with done := addNew p.done x.unit, progress := p.progress + 1, degraded := p.degraded || sib })) t x.unit

/-- Run what is left of a unit's program. -/
def finishProgram (s : State) (t : Nat) (o : Op) (c : UpdCtx) : Nat → Unit → State × Unit
  | 0, x => (s, x)
  | n + 1, x =>
    let r := unitStep s o c x
    let rest := finishProgram (noteMade s t o c r.2) t o c n r.1
    rest

/-- Sampling of the shadow check (R260): the Antler counts the unit's blocks, and takes every 2^K-th of all that it counts. -/
def sampleUpd (s : State) (h a n : Nat) : State × List Nat :=
  let k := s.hoof h
  let was := mget (fun _ => 0) k.blocks a
  (s.setHoof h { k with blocks := mput (fun _ => 0) k.blocks a (was + n) },
   if flag s.units.shdcfg 6 then samplesOf was n (2 ^ fld s.units.shdcfg 4 0) else [])

/-- Does a unit's Tine work for its failed sibling (R410)? -/
def siblingUnit (s : State) (c : UpdCtx) (u : Nat) : Bool :=
  let p := unitPlace s c u
  bitAt (fld (s.hoof p.1).hflt 31 0) p.2.2

/-- Release of unit u (R201): its program ends, the shadow check holds the sampled blocks as far as its queue has room, and every block of
sibling service; otherwise the unit finishes. Sibling service waits for room in the queue (R265, R410). -/
def releaseUnit (s : State) (t u : Nat) : State :=
  match updUnit s t u with
  | none => s
  | some (o, c, x) =>
    let r := finishProgram s t o c (c.d.nops - x.upc) x
    let pl := unitPlace s c u
    let sm := sampleUpd r.1 pl.1 pl.2.1 x.blocks.length
    let sib := siblingUnit s c u
    let want := if sib then List.range x.blocks.length else sm.2
    let room := 64 - heldTiles s
    match sm.1.op t with
    | none => s
    | some o1 =>
      if sib ∧ room < want.length then s
      else
        let s1 := times bumpSkipped (want.length - room) sm.1
        if want.take room = [] then finishUnit s1 t o1 c r.2 else putUnit s1 { r.2 with held := want.take room }

/-! ### Antler reports (R187, R189) -/

/-- Antlers that hold at least one unit of the range, as hoof * 8 + antler. -/
def updAntlers (s : State) (c : UpdCtx) : List Nat :=
  (List.range c.units).foldl (fun a u => let p := unitPlace s c u; addNew a (p.1 * 8 + p.2.1)) []

/-- Has an Antler nothing left to do of the UPD in slot t? -/
def antlerDone (s : State) (t : Nat) (o : Op) (c : UpdCtx) (n : Nat) : Bool :=
  (List.range c.units).all (fun u =>
    let p := unitPlace s c u
    decide (p.1 * 8 + p.2.1 ≠ n) || ((!(unitDue s o c u) || o.aborted) && (tineUnit s t u).isNone))

/-- Has every Antler reported? -/
def allReported (s : State) (o : Op) (c : UpdCtx) : Bool := (updAntlers s c).all (fun n => decide (n ∈ o.reports))

/-- COUNT of a norm sweep: the records written (R189). -/
def normCount (o : Op) (c : UpdCtx) : Nat := if o.var = 3 then c.d.groups.2 + 1 - c.d.groups.1 else o.count

/-- Is a UPD's work of its present run at an end: ended, or a trial that every Antler has reported (R202)? -/
def updSettled (s : State) (o : Op) : Bool :=
  match o.phase with
  | .running => o.trial && (match updCtx o with | some c => allReported s o c | none => true)
  | .issued | .waiting => false
  | _ => true

/-- An Antler's report (R189): the last one of a commit run ends the operation. -/
def antlerReport (s : State) (t h a : Nat) : State :=
  match running s t 0x20 with
  | none => s
  | some o =>
    match updCtx o with
    | none => s
    | some c =>
      let n := h * 8 + a
      if n ∈ updAntlers s c ∧ n ∉ o.reports ∧ antlerDone s t o c n then
        let o1 := { o with reports := o.reports ++ [n] }
        let s1 := s.setOp t o1
        if allReported s1 o1 c ∧ ¬ o.trial then
          if o.aborted then endAborted (s1.onOp t (fun p => { p with count := normCount o1 c })) t (o1.count / c.p.B)
          else endWork (s1.onOp t (fun p => { p with count := normCount o1 c })) t 0 0
        else if allReported s1 o1 c ∧ o.aborted then endAborted s1 t 0
        else s1
      else s

end Sys2Proof.Machine
end

