-- ==== Sys2Proof/Machine/Barrier.lean ====
section
/-!
DEFINITION. The step-close barrier (R180, R181, R382): members, contributions, barrier packets, and when a round is complete.
-/

namespace Sys2Proof.Machine

/-- GROUP, COUNT and the member entries of the barrier descriptor of a STCL. -/
structure BarD where
  group   : Nat
  members : List Nat
  list    : Nat
deriving DecidableEq, Repr

/-- Read the descriptor and the member list that follows it (R181). -/
def parseBarD (b : List Byte) : BarD :=
  let n := fieldAt b 4 2
  { group := fieldAt b 0 4, members := (List.range n).map (fun i => fieldAt b (64 + 2 * i) 2 % 4096), list := crc32 ((b.drop 64).take (2 * n)) }

/-- Barrier of an open step whose STCL is accepted. -/
def barOf (s : State) (n : Nat) : Option BarD :=
  match (stepOf s n).bind (fun x => x.stcl) with
  | some t => (s.op t).map (fun o => parseBarD o.desc)
  | none => none

/-- Members that this device regards as present: itself and those not declared absent (R181, R377). -/
def presentSet (s : State) (d : BarD) : List Nat := d.members.filter (fun m => m = s.dev || !(isAbsent s m))

/-- PRESENT digest of Table 13-6. -/
def presentDigest (s : State) (d : BarD) : Nat := crc32 (bitmapBytes 512 (presentSet s d))

/-- WISH bits of a contribution. -/
def wishByte (g m w f : Bool) : Nat := (if g then 1 else 0) + (if m then 2 else 0) + (if w then 4 else 0) + (if f then 8 else 0)

/-- Payload of a barrier packet (Table 13-6). -/
def Contrib.bytes (c : Contrib) : List Byte :=
  leBytes 4 c.group ++ leBytes 4 c.step ++ leBytes 1 c.round ++ leBytes 1 c.wish ++ leBytes 2 c.fold ++ leBytes 4 c.present ++ leBytes 2 c.count
    ++ leBytes 2 0 ++ leBytes 4 c.list ++ List.replicate 40 0 ++ bitmapBytes 512 c.ovf

/-- Read the payload of a barrier packet from device d. -/
def parseContrib (d : Nat) (b : List Byte) : Contrib :=
  { dev := d, group := fieldAt b 0 4, step := fieldAt b 4 4, round := fieldAt b 8 1, wish := fieldAt b 9 1 % 16, fold := fieldAt b 10 2,
    present := fieldAt b 12 4, count := fieldAt b 16 2, list := fieldAt b 20 4, ovf := bitmapList ((b.drop 64).take 512) }

/-- Keep a contribution in place of an earlier one of the same member, step and round. -/
def putContrib (s : State) (c : Contrib) : State :=
  { s with fab := { s.fab with contribs := s.fab.contribs.filter (fun x => !(x.dev = c.dev && x.step = c.step && x.round = c.round)) ++ [c] } }

/-- Send a contribution of this device to every other member that it regards as present. -/
def sendContrib (s : State) (d : BarD) (c : Contrib) : State :=
  ((presentSet s d).filter (fun m => m ≠ s.dev)).foldl (fun s m =>
    sendPacket s { bare 0x10 s.dev m 0 with step := BitVec.ofNat 32 c.step, payload := c.bytes }) s

/-- Join a round: keep the own contribution with the present digest, and send it. -/
def joinRound (s : State) (n round wish fold : Nat) (ovf : List Nat) : State :=
  match barOf s n with
  | none => s
  | some d =>
    let c : Contrib := { dev := s.dev, round := round, step := n, group := d.group, wish := wish, fold := fold, present := presentDigest s d,
                         count := d.members.length, list := d.list, ovf := ovf }
    sendContrib (putContrib s c) d c

/-- The present set has changed: send the own contributions again with the new digest (R382). -/
def resendContribs (s : State) : State :=
  (s.fab.contribs.filter (fun c => c.dev = s.dev)).foldl (fun s c =>
    match barOf s c.step with
    | some d =>
      let c' := { c with present := presentDigest s d }
      if c' = c then s else sendContrib (putContrib s c') d c'
    | none => s) s

/-- Contributions of one round from the members of the present set, in list order, when all match; none while one is missing. -/
def roundContribs (s : State) (n round : Nat) : Option (List Contrib) :=
  match barOf s n with
  | none => none
  | some d =>
    (presentSet s d).foldr (fun m acc =>
      match acc, s.fab.contribs.find? (fun c => c.dev = m && c.step = n && c.round = round) with
      | some l, some c =>
        if c.group = d.group ∧ c.count = d.members.length ∧ c.list = d.list ∧ c.present = presentDigest s d then some (c :: l) else none
      | _, _ => none) (some [])

/-- Does a contribution disagree with this device's own barrier (R181, R382)? -/
def mismatched (d : BarD) (c : Contrib) : Bool := decide (c.group ≠ d.group ∨ c.count ≠ d.members.length ∨ c.list ≠ d.list)

/-- Drop the contributions of a step. -/
def dropContribs (s : State) (n : Nat) : State := { s with fab := { s.fab with contribs := s.fab.contribs.filter (fun c => c.step ≠ n) } }

/-- A disagreement ends the STCL with GROUP_MISMATCH and leaves the step open (R181). -/
def endMismatch (s : State) (n : Nat) : State :=
  match (stepOf s n).bind (fun x => x.stcl) with
  | some t => endOp (dropContribs (s.onStep n (fun x => { x with stcl := none, round := .none })) n) t 0x1A 0
  | none => s

/-- A barrier contribution arrives (R382): kept, or ending the STCL with GROUP_MISMATCH, whoever sent it (R181). -/
def barArrive (s : State) (k : Packet) : State :=
  let c := parseContrib k.src.toNat k.payload
  match barOf s c.step with
  | some d => if mismatched d c then endMismatch s c.step else putContrib s c
  | none => putContrib s c

/-- Does a contribution already held disagree with the barrier of a STCL just accepted? -/
def heldMismatch (s : State) (n : Nat) : Bool :=
  match barOf s n with
  | some d => s.fab.contribs.any (fun c => decide (c.step = n) && decide (c.dev ≠ s.dev) && mismatched d c)
  | none => false

end Sys2Proof.Machine
end

