-- ==== Sys2Proof/Machine/Copy.lean ====
section
/-!
DEFINITION. The rows COPY (R322), IMPORT and EXPORT (R95-R97).
-/

namespace Sys2Proof.Machine

/-! ### COPY -/

/-- The range rules of R322 for two ranges: the first bad address. -/
def copyBad (s : State) (a b n : Nat) : Option Nat := badRanges s [rngL a n false, rngL b n true]

/-- Acceptance check of COPY. -/
def copyCheck (s : State) (o : Op) : Chk :=
  withDesc s o 64 (fun b =>
    let src := bits (fieldAt b 0 8) 51 0
    let dst := bits (fieldAt b 8 8) 51 0
    let len := fieldAt b 16 5
    if src % 64 ≠ 0 ∨ dst % 64 ≠ 0 ∨ len % 64 ≠ 0 ∨ len = 0 ∨ meets src len dst len then .illegal
    else match copyBad s src dst len with
      | some x => .bad 0x16 x
      | none => .ok [rngL src len false, rngL dst len true] [] b [])

/-- Copy n bytes from one local address to another for the operation in slot t. -/
def copyBytes (s : State) (t src dst n : Nat) : State := wrLocal s t dst (rdLocal s src n)

/-- What COPY does while it runs. -/
def copyWork (t units : Nat) (s : State) (o : Op) : State :=
  let src := bits (fieldAt o.desc 0 8) 51 0
  let dst := bits (fieldAt o.desc 8 8) 51 0
  let total := fieldAt o.desc 16 5 / 64
  if o.aborted then endAborted s t o.progress
  else
    let k := Nat.min units (total - o.progress)
    let s1 := copyBytes s t (src + 64 * o.progress) (dst + 64 * o.progress) (64 * k)
    let s2 := s1.onOp t (fun p => { p with progress := o.progress + k, count := o.progress + k })
    if o.progress + k = total then endWork s2 t 0 0 else s2

/-- COPY (R322): the next `units` 64-byte units in ascending order. -/
def execCopy (t : SlotId) (units : Nat) (s : State) : Host.Outcome State Fault Refusal :=
  commit s (opRow s t.toNat 0x10 (fun _ _ => false) copyCheck (copyWork t.toNat units))

/-! ### binary32 -/

/-- A binary32 pattern: a value, an infinity with its sign, or a NaN. -/
inductive B32 where
  | val (v : Num)
  | inf (neg : Bool)
  | nan
deriving DecidableEq, Repr

/-- Read a binary32 pattern. -/
def readB32 (w : Nat) : B32 :=
  let neg := bitAt w 31
  let x := bits w 30 23
  let f := bits w 22 0
  if x = 255 then (if f = 0 then .inf neg else .nan)
  else
    let m : Int := if x = 0 then f else f + 8388608
    .val (.fin (if neg then -m else m) ((if x = 0 then 1 else x : Nat) - 150))

/-- The value that a block's choice of F or X sees: infinities and NaNs are left out (R95). -/
def B32.num : B32 → Num
  | .val v => v
  | _ => .void

/-- Write a value toward zero as binary32: pattern, clamped, underflowed (R97). -/
def writeB32 : Num → Nat × Bool × Bool
  | .void => (0x7FC00000, false, false)
  | .fin m e =>
    if m = 0 then (0, false, false)
    else
      let sg := if m < 0 then 2 ^ 31 else 0
      let l := lg m e
      if 128 ≤ l then (sg + 0x7F7FFFFF, true, false)
      else if -126 ≤ l then (sg + ((l + 126).toNat * 2 ^ 23 + (onGrid m.natAbs e (l - 23)).toNat), false, false)
      else
        let q := (onGrid m.natAbs e (-149)).toNat
        (sg + q, false, decide (q = 0))

/-- The report of Table 3-11: infinities, NaNs, saturations, underflows as logical indices and counts. -/
def convReport (infs nans : List Nat) (sat unf : Nat) : List Byte :=
  let first := fun (l : List Nat) => match l with | i :: _ => i | [] => 0xFFFFFFFFFFFF
  leBytes 4 infs.length ++ leBytes 6 (first infs) ++ leBytes 2 0 ++ leBytes 4 nans.length ++ leBytes 6 (first nans) ++ leBytes 2 0
    ++ leBytes 4 sat ++ leBytes 4 unf

/-- Indices of the elements of a list that satisfy a test, from a base on. -/
def indicesOf {α : Type} (base : Nat) (p : α → Bool) (l : List α) : List Nat := (l.zipIdx.filter (fun e => p e.1)).map (fun e => base + e.2)

/-- Is the pattern an infinity? -/
def B32.isInf : B32 → Bool | .inf _ => true | _ => false
/-- Is the pattern a NaN? -/
def B32.isNan : B32 → Bool | .nan => true | _ => false

/-! ### IMPORT and EXPORT -/

/-- Formats that IMPORT writes (Table 3-10). -/
def importFmt (fmt : Nat) : Bool := narrow fmt || fmt = fA32
/-- Formats that EXPORT reads. -/
def exportFmt (fmt : Nat) : Bool := importFmt fmt || fmt = fWIDE || fmt = fPAIR

/-- Acceptance check of IMPORT or EXPORT with the parameters that the command carries. IMPORT writes whole blocks: an offset or a count that is no
multiple of the block size, for which the spec states no outcome, is ILLEGAL (DESIGN CHOICE, notes/assumptions/57). -/
def convCheck (imp : Bool) (p : ConvP) (s : State) (o : Op) : Chk :=
  let r := s.region o.region
  let off := p.off.toNat
  let n := p.count.toNat
  let data := storeRange p.data.toNat (4 * n) (!imp)
  let rep := storeRange p.report.toNat 32 true
  if !(regionOk s r) || r.stg || !(if imp then importFmt r.fmt else exportFmt r.fmt) || decide (n = 0) || decide (r.length < off + n)
     || (imp && (decide (off % r.B ≠ 0) || decide (n % r.B ≠ 0))) then .illegal
  else match badRanges s [data, rep] with
    | some x => .bad 0x16 x
    | none => .ok (spanRanges r off n imp ++ [data, rep]) [(o.region, r)] [] [off, n, p.data.toNat, p.report.toNat]

/-- One element of IMPORT (R95): its encoding at the block exponent. R95 writes an infinity as the largest magnitude of its sign, and an unsigned format
has none below zero: minus infinity writes 0 there, without OVF (DESIGN CHOICE, notes/assumptions/57). -/
def importEnc (fmt : Nat) (strict : Bool) (E : Int) : B32 → Enc
  | .val v => encode fmt strict E v
  | .inf neg =>
    if strict then { Enc.ok (voidCode fmt) with vp := true }
    else Enc.ok (if unsignedFmt fmt ∧ neg then 0 else signedCode fmt neg (topCode fmt))
  | .nan => if unsignedFmt fmt then Enc.ok 0 else { Enc.ok (voidCode fmt) with vp := true }

/-- One block of IMPORT: state, finite elements saturated or made void, elements that underflowed. -/
def importBlock (s : State) (t ri : Nat) (r : Region) (b : Nat) (xs : List B32) : State × Nat × Nat :=
  let vals := xs.map B32.num
  if narrow r.fmt then
    let step := opStep s t
    let w := encBlock r.fmt r.strict (stepGuarded s step) (coarseOf s step r) (bbyteAt s r b) vals (fun E i _ => importEnc r.fmt r.strict E (xs.getD i .nan))
    (putBlockW s t ri r b w false, w.encs.countP (fun e => e.ovf || e.made), w.encs.countP (fun e => e.unf))
  else
    let X := a32Exp vals
    let ys := xs.map (fun x => match x with | .inf neg => if r.strict then Num.void else Num.fin (if neg then -max31 else max31) X | .val v => v | .nan => .void)
    let unf := vals.countP (fun v => v.active && decide (v.at_ X = some 0))
    let ms := ys.map (fun v => (v.at_ X).map hold31)
    let vp := ys.any Num.isVoid
    let s1 := putCodes s t r b (ms.map (fun o => pat32 (o.map Prod.fst)))
    let s2 := wrLocal s1 t (r.bbase + 2 * b) (leBytes 2 (blockWord X false vp))
    let s3 := markStep (countVelvet s2 r.velv (logCode (maxMag vals)) unf 0 0 false) (opStep s t) r.velv false
    (noteOp s3 t ys.length (logCode (maxMag (ms.map (fun o => ofReg X (o.map Prod.fst))))) false vp false none, 0, unf)

/-- Work of IMPORT: every block, then the report. -/
def importWork (s : State) (t : Nat) (o : Op) (r : Region) : State :=
  let off := o.prog.getD 0 0
  let n := o.prog.getD 1 0
  let xs := (List.range n).map (fun i => readB32 (leNat (s.stBytes (o.prog.getD 2 0 + 4 * i) 4)))
  let res := (List.range (n / r.B)).foldl (fun acc k =>
    let x := importBlock acc.1 t o.region r (off / r.B + k) ((xs.drop (k * r.B)).take r.B)
    (x.1, acc.2.1 + x.2.1, acc.2.2 + x.2.2)) (s, 0, 0)
  let rep := convReport (indicesOf (r.lbase + off) B32.isInf xs) (indicesOf (r.lbase + off) B32.isNan xs) res.2.1 res.2.2
  endWork (res.1.stWrite (o.prog.getD 3 0) rep) t 0 0

/-- Work of EXPORT: every element, then the report. -/
def exportWork (s : State) (t : Nat) (o : Op) (r : Region) : State :=
  let off := o.prog.getD 0 0
  let n := o.prog.getD 1 0
  let vals := elemVals s r (coarseOf s o.step r) off n
  let ws := vals.map writeB32
  let s1 := s.stWrite (o.prog.getD 2 0) (ws.flatMap (fun w => leBytes 4 w.1))
  let rep := convReport (indicesOf (r.lbase + off) (fun w => w.2.1) ws) (indicesOf (r.lbase + off) Num.isVoid vals) 0 (ws.countP (fun w => w.2.2))
  let s2 := noteOp (s1.stWrite (o.prog.getD 3 0) rep) t n (logCode (maxMag vals)) false (vals.any Num.isVoid) false none
  endWork s2 t 0 0

/-- ABORT stops an IMPORT or EXPORT before its first element; the report says that nothing was met (R96). -/
def convAborted (s : State) (t : Nat) (o : Op) : State := endAborted (s.stWrite (o.prog.getD 3 0) (convReport [] [] 0 0)) t 0

/-- What IMPORT does while it runs. -/
def importRow (t : Nat) (s : State) (o : Op) : State :=
  match o.img o.region with
  | some r => if o.aborted then convAborted s t o else importWork s t o r
  | none => s

/-- IMPORT (R95, R96). -/
def execImport (t : SlotId) (p : ConvP) (s : State) : Host.Outcome State Fault Refusal :=
  commit s (opRow s t.toNat 0x11 (fun _ _ => false) (convCheck true p) (importRow t.toNat))

/-- What EXPORT does while it runs. -/
def exportRow (t : Nat) (s : State) (o : Op) : State :=
  match o.img o.region with
  | some r => if o.aborted then convAborted s t o else exportWork s t o r
  | none => s

/-- EXPORT (R96, R97). -/
def execExport (t : SlotId) (p : ConvP) (s : State) : Host.Outcome State Fault Refusal :=
  commit s (opRow s t.toNat 0x12 (fun _ _ => false) (convCheck false p) (exportRow t.toNat))

end Sys2Proof.Machine
end

