-- ==== Sys2Proof/Machine/RemoteOps.lean ====
section
/-!
DEFINITION. Requests between devices: what a target does for a request (R356, R373, R380, R283), what an originator does with a reply
(R367, R371), and the declaration of an absent device (R375-R377, R381).
-/

namespace Sys2Proof.Machine

/-! ### The region that a request reaches (R356, R373) -/

/-- Bytes from address a on that areas hold without a gap, `fuel` of them at most: one area may follow another directly. -/
def areasReach (areas : List (Nat × Nat)) : Nat → Nat → Nat
  | 0, _ => 0
  | fuel + 1, a =>
    match areas.find? (fun e => decide (e.1 ≤ a) && decide (a < e.1 + e.2)) with
    | some e => (e.1 + e.2 - a) + areasReach areas fuel (e.1 + e.2)
    | none => 0

/-- Bytes of a region from address a on. -/
def Region.reach (r : Region) (a : Nat) : Nat := areasReach r.areas r.areas.length a

/-- The lowest-numbered valid region that holds all of [a, a + n), in one area or in areas that adjoin (R356). -/
def regionHolding (s : State) (a n : Nat) : Option (Nat × Region) :=
  ((List.range 4096).find? (fun i => let r := s.region i; r.valid && decide (n ≤ r.reach a))).map (fun i => (i, s.region i))

/-- Why an access of n bytes at a local address is refused: outside the map, or not wholly within one valid region (R356). -/
def reachRefusal (s : State) (a n : Nat) : Option (Nat × Nat) :=
  match badAddr s a n with
  | some x => some (0x16, x)
  | none => if (regionHolding s a n).isSome then none else some (0x17, 0)

/-- Does a region grant its bytes to a presented tenant and key (R373)? -/
def Region.grants (r : Region) (tenant akey : Nat) : Bool := r.valid && decide (r.tenant = tenant) && decide (r.akey = akey)

/-- The same of an access that names this device itself, its key checked with its place. -/
def ownRefusal (s : State) (tenant akey a n : Nat) : Option (Nat × Nat) :=
  match reachRefusal s a n with
  | some x => some x
  | none => if (regionHolding s a n).any (fun e => e.2.grants tenant akey) then none else some (0x17, 0)

/-! ### What a target does -/

/-- A read of n bytes that `refused` does not stop (R356). -/
def serveRead (s : State) (refused : Option (Nat × Nat)) (a n : Nat) : State × Nat × Nat × List Byte :=
  match refused with
  | some (st, d) => (countDeny s st, st, d, [])
  | none => (s, 0, 0, rdLocal s a n)

/-- A write of bytes for the operation in slot t that `refused` does not stop (R357). -/
def serveWrite (s : State) (t : Nat) (refused : Option (Nat × Nat)) (a : Nat) (bs : List Byte) : State × Nat × Nat :=
  match refused with
  | some (st, d) => (countDeny s st, st, d)
  | none => (wrLocal s t a bs, 0, 0)

/-- An accumulate message that arrived from (src, ticket) and whose key has been checked: Table 10-8, R39; its reply says what was added. -/
def serveAcc (s : State) (rg : Regs) (t src ticket tag : Nat) (payload : List Byte) : State × Nat × Nat × List Byte :=
  let m := parseAcc (payload.take 64)
  let data := payloadData payload
  match m.refusal s rg (payloadForm payload) false data.length tag with
  | some (st, d) => (if st = 0x13 then logStale s ticket 0 tag else s, st, d, [])
  | none => let q := applyFiltered s rg t m data tag src ticket; (q.1, q.2.1, 0, sumBytes q.2.2)

/-- A remote part of SMP or GTH (R273, R276): its engine word, the region's place here, its form; then its entries. The die of the Antler that
meets a decreasing offset logs it (R53, R270). -/
def servePart (s : State) (rg : Regs) (t : Nat) (step : Option Nat) (payload : List Byte) : State × Nat × Nat × List Byte :=
  let h := partShard payload
  let w := partWord payload
  let r := rg h.reg
  if ¬ (w.ok && (w.opc = 0x22 || w.opc = 0x23) && decide (w.sD + w.sA + w.sB = 0) && !w.hold) then (s, 0x18, 0, [])
  else if h.dev ≠ s.dev ∧ ¬ (r.mv ∧ r.mirror = h.dev) then (s, 0x12, h.dev, [])
  else if w.opc = 0x22 then
    let d := parseSmp payload
    if ¬ adjacencyOk s r (rg h.aux0) (if d.weighted then some (rg h.aux1) else none) then (s, 0x18, 0, [])
    else
      let nodes := partEntries payload
      let x := serveSmp s rg payload nodes step
      ((List.zip nodes x.2).foldl (fun s e =>
          if e.2.dec then addLogAt s (drawDie s r (h.loc e.1)) 5 0x0108 h.reg (ticketOf s t) 0 e.1 else s) s, 0, 0, x.1)
  else if ¬ regionOk s r ∨ (r.fmt, r.bsz) ≠ partForm payload then (s, 0x18, 0, [])
  else (s, 0, 0, serveGth s rg payload (partEntries payload))

/-- Payload of the packets of a request. -/
def packetsData (ks : List Packet) : List Byte := ks.flatMap (fun k => k.payload)

/-! ### Replies at the originator (R367, R371) -/

/-- Fields of a RREAD or RWRITE descriptor (Table 13-1). -/
structure RemD where
  dev  : Nat
  addr : Nat
  loc  : Nat
  len  : Nat
  akey : Nat
deriving DecidableEq, Repr

/-- Read a RREAD or RWRITE descriptor. -/
def parseRem (b : List Byte) : RemD :=
  let a := fieldAt b 0 8
  { dev := bits a 63 52, addr := bits a 51 0, loc := bits (fieldAt b 8 8) 51 0, len := fieldAt b 16 4, akey := fieldAt b 20 4 }

/-- End a RREAD or RWRITE whose whole transfer is through: under ABORT CANCELLED with its bytes (Table 16-5). -/
def endRemote (s : State) (t : Nat) (o : Op) (st d len : Nat) : State :=
  if st < 0x10 then
    let s1 := s.onOp t (fun p => { p with count := len / 64 })
    if o.aborted then endAborted s1 t len else endOp s1 t st 0
  else endOp s t st d

/-- What data short of their length say: the range left the target's region, or the map's ranges (Table 0-4). -/
def shortRead (a : Nat) : Nat × Nat := if inDram a ∨ inStore a then (0x17, 0) else (0x16, a)

/-- Place the data of a RREAD. -/
def landRead (s : State) (t : Nat) (o : Op) (st d : Nat) (data : List Byte) : State :=
  let r := parseRem o.desc
  if 0x10 ≤ st then endRemote s t o st d 0
  else if data.length < r.len then (let x := shortRead (r.addr + data.length); endRemote s t o x.1 x.2 0)
  else endRemote (wrLocal s t r.loc (data.take r.len)) t o st 0 r.len

/-- Part of a context image that CTXR reads (R448): it joins what its parent has read, at the offset that the part carries. -/
def landImage (s : State) (parent t : Nat) (o : Op) (st d : Nat) (data : List Byte) : State :=
  let n := (parseRem o.desc).len
  if 0x10 ≤ st then endOp s t st d
  else if data.length < n then (let x := shortRead ((parseRem o.desc).addr + data.length); endOp s t x.1 x.2)
  else endOp (s.onOp parent (fun p => { p with desc := putAt p.desc (64 + o.prog.headD 0) (data.take n) })) t st 0

/-- What a complete reply does for the operation in slot t: `mir` when a mirror served it. -/
def deliver (s : State) (t : Nat) (st d : Nat) (data : List Byte) (mir : Bool) : State :=
  match s.op t with
  | none => s
  | some o =>
    if o.phase ≠ .running then s
    else
      let s := if mir then markDegraded s t else s
      match o.src, o.opc with
      | .sub parent, 0x22 => endOp (if st < 0x10 then smpReply s parent t data else smpMissed s parent t) t st d
      | .sub parent, 0x23 => endOp (if st < 0x10 then gthReply s parent t data (mir || o.degraded) else gthMissed s parent t) t st d
      | .sub parent, 0x13 => landImage s parent t o st d data
      | _, 0x13 => landRead s t o st d data
      | _, 0x14 => endRemote s t o st d (parseRem o.desc).len
      | _, _ => endOp s t st d

/-- Who serves a RREAD or RWRITE of device d at an address now (R356, R381): the device, or its mirror; this device stands in only where the
region that holds the bytes is d's mirrored one. -/
def remServer (s : State) (d a : Nat) : Option Nat :=
  match liveTarget s d true with
  | some q =>
    if q = s.dev ∧ q ≠ d ∧ ¬ ((regionHolding s a 64).any (fun e => e.2.mv && decide (e.2.mirror = d))) then none else some q
  | none => none

/-- The operation in slot t finds no device that serves it (R377). -/
def targetGone (s : State) (t d : Nat) : State := (deliver s t 0x12 d [] false).onOp t (fun o => { o with retried := true })

/-- A write of this device for an absent owner whose mirror it is: one that the owner had already forwarded here is not done twice (R381). -/
def writeOwn (s : State) (t tenant akey a : Nat) (data : List Byte) : State :=
  match keyOf s s.dev (ticketOf s t) with
  | some hk => if hk.st = .running then s.onOp t (fun p => { p with progress := 0 }) else deliver s t hk.status 0 [] true
  | none =>
    let r := serveWrite s t (ownRefusal s tenant akey a data.length) a data
    deliver r.1 t r.2.1 r.2.2 [] true

/-- A request that has moved to this device as the mirror of an absent owner (R381): served here. -/
def serveOwn (s : State) (d : Nat) (e : Orig) : State :=
  match s.op e.slot, e.packets with
  | some o, k :: _ =>
    let payload := packetsData e.packets
    let tenant := k.tenant.toNat
    let akey := k.akey.toNat
    if k.kind = 0x03 then sendAcc s e.slot o (payload.take 64) (payloadData payload)
    else if k.kind = 0x04 then
      let r := if (s.region (partShard payload).reg).grants tenant akey then servePart s s.region e.slot o.step payload
        else (countDeny s 0x17, 0x17, 0, [])
      deliver r.1 e.slot r.2.1 r.2.2.1 r.2.2.2 true
    else if remServer s d k.addr.toNat = none then targetGone s e.slot d
    else if k.kind = 0x01 then
      let n := (parseRem o.desc).len
      let r := serveRead s (ownRefusal s tenant akey k.addr.toNat n) k.addr.toNat n
      deliver r.1 e.slot r.2.1 r.2.2.1 r.2.2.2 true
    else writeOwn s e.slot tenant akey k.addr.toNat payload
  | _, _ => s

/-! ### Declaring a device absent (R375-R377, R381) -/

/-- A device declared absent leaves a request of this device without its target: redirected to the mirror, or ended (Table 13-5). -/
def redirect (s : State) (d : Nat) (e : Orig) : State :=
  let s1 := dropOrig s (fun x => x = e)
  if e.packets.any (fun k => k.kind = 0x05) then
    -- a copy to a mirror that is gone: the owner's own application stands (R380)
    endOp (markDegraded s1 e.slot) e.slot 0 0
  else match mirrorOf s d with
    | some m =>
      if m = s.dev then serveOwn s1 d e
      else if isAbsent s m then targetGone s1 e.slot d
      else sendRequest (markDegraded s1 e.slot) e.slot m (e.packets.map (fun k => { k with dst := BitVec.ofNat 12 m, retry := false })) e.fwdOf
    | none => targetGone s1 e.slot d

/-- The slot of a key that is dropped goes free: in quarantine from its completion on where the operation has completed (R160). -/
def dropSlot (s : State) (t : Nat) (o : Op) : State :=
  if o.phase = .held then leaveSlot s t o else freeSlot (strmDone s o.stream) t o.retried

/-- Is the operation in a slot that of key (src, ticket)? -/
def Op.ofKey (o : Op) (src ticket : Nat) : Bool := match o.src with | .remote a b _ => decide (a = src) && decide (b = ticket) | _ => false

/-- Free the slot of a key. -/
def freeKeySlot (s : State) (hk : HKey) : State :=
  match hk.slot.bind (fun t => (s.op t).map (fun o => (t, o))) with
  | some (t, o) => if o.ofKey hk.src hk.ticket then dropSlot s t o else s
  | none => s

/-- What a device declared absent leaves at a target (Table 13-5): a key that it held as originator is dropped; a reply that awaits its REL is, too,
but another originator's key stays held for its 576 us, so that a redirected copy is not added twice (R381). -/
def dropKey (d : Nat) (s : State) (hk : HKey) : State :=
  if hk.src = d then
    freeKeySlot { s with fab := { s.fab with keys := s.fab.keys.filter (fun k => k ≠ hk),
                                             orig := s.fab.orig.filter (fun e => e.fwdOf ≠ some (hk.src, hk.ticket)) } } hk
  else if hk.via = d ∧ hk.st = .replied then
    freeKeySlot (mapKey s (fun k => k = hk) (fun k => { k with st := .released, relAt := s.now })) hk
  else s

/-- More than half of the partners declared absent within 1 ms (R376). -/
def majorityGone (s : State) : Bool :=
  let gone := (partners s).filter (fun d => s.fab.absAt.any (fun e => e.1 = d && decide (s.now ≤ e.2 + 100000)))
  decide ((partners s).length < 2 * gone.length)

/-- Declare device d absent (R375): EXCL to every partner, the log, the majority rule, then what Table 13-5 gives. -/
def declareAbsent (s : State) (d : Nat) : State :=
  if isAbsent s d ∨ d = s.dev ∨ s.failstop then s
  else
    let excl := fun (q : Nat) => { bare 0x13 s.dev q 0 with payload := leBytes 2 d ++ List.replicate 62 0 }
    let s1 := sendAll s (((partners s) ++ (if isPartner s d then [] else [d])).map excl)
    let s2 := addLog s1 6 0x0201 0xFFFF d
    let s3 := { s2 with fab := { s2.fab with absent := s2.fab.absent ++ [d], absAt := s2.fab.absAt ++ [(d, s2.now)] } }
    if majorityGone s3 then failStop s3 .central 0xFE 0xFFFF d
    else
      let s4 := (s3.fab.orig.filter (fun e => e.dst = d)).foldl (fun s e => redirect s d e) s3
      let s5 := s4.fab.keys.foldl (dropKey d) s4
      abandonHerds (resendContribs s5) d

/-! ### Requests at a target (R367, R368, R380) -/

/-- Parts of a held request in order. -/
def HKey.parts (hk : HKey) : List Packet :=
  (List.range hk.req.length).filterMap (fun i => hk.req.find? (fun k => k.part.toNat = i))

/-- Has every part landed? -/
def HKey.whole (hk : HKey) : Bool :=
  match hk.req.find? (fun k => k.last) with
  | some k => decide (hk.parts.length = k.part.toNat + 1)
  | none => false

/-- Payload of a whole request. -/
def HKey.payload (hk : HKey) : List Byte := hk.parts.flatMap (fun k => k.payload)

/-- Does a FWD copy an accumulate? A copy of a WRREQ carries no step (DESIGN CHOICE, notes/assumptions/20). -/
def fwdIsAcc (k : Packet) : Bool := decide (k.step ≠ 0xFFFFFFFF)

/-- Is the request an accumulate? -/
def accRequest (k : Packet) : Bool := decide (k.kind = 0x03) || (decide (k.kind = 0x05) && fwdIsAcc k)

/-- Region that a whole request reaches. -/
def requestRegion (s : State) (k : Packet) (payload : List Byte) : Option Region :=
  if accRequest k then some (s.region (parseAcc (payload.take 64)).reg)
  else if k.kind = 0x04 then some (s.region (partShard payload).reg)
  else (regionHolding s k.addr.toNat 64).map Prod.snd

/-- Bytes that a RDREQ of n parts asks for: 4,096 a part, the last part ending with the region that holds it (DESIGN CHOICE 20). -/
def readLen (s : State) (a n : Nat) : Nat :=
  match regionHolding s a 64 with
  | some (_, r) => Nat.min (4096 * n) (Nat.max (4096 * (n - 1) + 64) (r.reach a))
  | none => 4096 * n

/-- Operation code under which a request holds its slot: the function it belongs to, or none of its own for a part. -/
def requestOpc (k : Packet) : Nat :=
  if accRequest k then 0x15 else if k.kind = 0x01 then 0x13 else if k.kind = 0x04 then 0 else 0x14

/-- Ranges that a request records at its target (R163, R162). -/
def requestRanges (s : State) (k : Packet) (n : Nat) (payload : List Byte) : List Range :=
  if accRequest k then
    let m := parseAcc (payload.take 64)
    if m.var = 1 then regionRanges (s.region m.sreg) true else []
  else if k.kind = 0x04 then
    let h := partShard payload
    regionRanges (s.region h.reg) false ++ (if (partWord payload).opc = 0x22 then
      regionRanges (s.region h.aux0) false ++ (if h.aux1 = 0xFFF then [] else regionRanges (s.region h.aux1) false) else [])
  else if k.kind = 0x01 then [rngL k.addr.toNat (readLen s k.addr.toNat n) false]
  else [rngL k.addr.toNat payload.length true]

/-- Regions that a request works with: their images are its own from here on (R305). -/
def requestRegs (k : Packet) (payload : List Byte) : List Nat :=
  if accRequest k then (let m := parseAcc (payload.take 64); [m.reg, m.sreg])
  else if k.kind = 0x04 then (let h := partShard payload; [h.reg, h.aux0] ++ (if h.aux1 = 0xFFF then [] else [h.aux1]))
  else []

/-- The operation of a request as it takes a slot, with its first part; a function that is not enabled refuses it (R444). -/
def requestOp (s : State) (hk : HKey) (k : Packet) (n : Nat) : Op :=
  let o := Op.fresh (.remote hk.src hk.ticket k.sstr.toNat) (parseEWord 0) 0 0 n s.car.seq
  { o with opc := requestOpc k, step := if k.step = 0xFFFFFFFF then none else some k.step.toNat,
           status := if fnRefuses s (functionsOf (requestOpc k) false) ∨ s.phase = .warmDrain then 0x10 else 0 }

/-- The operation of a request with all its parts: what it works with, records and writes (R162, R176, R305). What an accumulate writes shows as it
is added. -/
def requestWhole (s : State) (hk : HKey) (k : Packet) (o : Op) : Op :=
  let pl := hk.payload
  let rs := requestRanges s k hk.req.length pl
  let w := if k.kind = 0x04 then partWord pl else parseEWord 0
  { o with var := w.var, region := w.region, doff := w.doff, imm := w.imm, imgs := (requestRegs k pl).map (fun i => (i, s.region i)),
           ranges := recordRanges rs, writes := if accRequest k then [] else rs.filter (fun r => r.wr) }

/-- What a whole request is refused for as it lands, with its DETAIL: Table 10-8, step 1, or an address outside the map (R356). -/
def landingFinds (s : State) (k : Packet) (n : Nat) (payload : List Byte) : Nat × Nat :=
  if accRequest k then
    ((parseAcc (payload.take 64)).refusedAtOnce s s.region (payloadForm payload) false (payloadData payload).length k.step.toNat |>.getD 0, 0)
  else if k.kind = 0x04 then (0, 0)
  else match badAddr s k.addr.toNat (if k.kind = 0x01 then readLen s k.addr.toNat n else payload.length) with
    | some x => (0x16, x)
    | none => (0, 0)

/-- The region whose key a part shows, when it is the part that shows one (R373): the message's or the shard's in part 0, or the one that holds
ADDR. -/
def keyRegion (s : State) (first : Bool) (k : Packet) : Option (Option Region) :=
  if accRequest k then (if k.part = 0 then some (some (s.region (parseAcc (k.payload.take 64)).reg)) else none)
  else if k.kind = 0x04 ∧ k.addr = 0 then (if k.part = 0 then some (some (s.region (partShard k.payload).reg)) else none)
  else if first then some ((regionHolding s k.addr.toNat 64).map Prod.snd) else none

/-- Does a part fail the check of R373? An address outside the map has its own status. -/
def keyDenied (s : State) (first : Bool) (k : Packet) : Bool :=
  match keyRegion s first k with
  | some (some r) => !(r.grants k.tenant.toNat k.akey.toNat)
  | some none => (badAddr s k.addr.toNat 64).isNone
  | none => false

/-- A request whose parts have all landed enters the scheduler, or ends with the first status of what it was refused for (R168, R283). -/
def startRequest (s : State) (hk : HKey) : State :=
  match hk.parts, hk.slot with
  | k :: _, some t =>
    match s.op t with
    | some o =>
      if o.phase ≠ .issued then s
      else
        let f := landingFinds s k hk.parts.length hk.payload
        let st := statusMin o.status f.1
        let s1 := s.setOp t { requestWhole s hk k o with phase := .waiting }
        if st = 0 then s1
        else endOp (countDeny (if st = 0x13 then logStale s1 hk.ticket 0 k.step.toNat else s1) st) t st (if st = f.1 then f.2 else 0)
    | none => s
  | _, _ => s

/-- The device that a request's replies go to, where the part shows it: the originator; for a copy the owner, whom the region's MIRROR names
(R370, R380). -/
def viaOf (s : State) (k : Packet) : Option Nat :=
  if k.kind ≠ 0x05 then some k.src.toNat
  else if fwdIsAcc k ∧ k.part ≠ 0 then none
  else some (match requestRegion s k k.payload with | some r => r.mirror | none => k.src.toNat)

/-- Has a part of the key's request shown where its replies go? -/
def HKey.viaKnown (hk : HKey) : Bool := hk.req.any (fun k => !(decide (k.kind = 0x05) && fwdIsAcc k && decide (k.part ≠ 0)))

/-- PEND for a key, where it is known whom it tells. -/
def sendPend (s : State) (hk : HKey) : State :=
  let q := hk.req.headD (bare 0 0 0 0)
  if hk.viaKnown then sendPacket s { bare 0x08 hk.src hk.via hk.ticket with sstr := q.sstr, tenant := q.tenant } else s

/-- Resend the reply of a key. -/
def resendReply (s : State) (hk : HKey) : State := sendAll s (hk.reply.map (fun k => { k with retry := true, dst := BitVec.ofNat 12 hk.via }))

/-- A packet that finds no place on this device waits at the far end of its link under credit (R300, R365, R368). -/
def holdBack (s : State) (p : Nat) (k : Packet) : State := s.setFport p { s.fport p with held := (s.fport p).held ++ [k] }

/-- The key of a request from fabric port p, and its slot (Table 13-4, step 2; R163, R313); a request for which no remote stream can open is answered at
once (R317). None when no slot is free. -/
def openKey (s : State) (p : Nat) (k : Packet) : Option State :=
  let hk : HKey := { src := k.src.toNat, ticket := k.ticket.toNat, slot := none, st := .running, req := [k], reply := [], resends := 0,
                     landed := s.now, relAt := 0, pended := false, port := p, via := (viaOf s k).getD k.src.toNat }
  let s1 := { s with fab := { s.fab with keys := s.fab.keys ++ [hk] } }
  match openRemote s1 hk.src k.sstr.toNat k.tenant.toNat with
  | none => some (replyKey { s1 with sched := { s1.sched with strmcnt := bump s1.sched.strmcnt 47 32 1 } } hk.src hk.ticket 0x15 [])
  | some (s2, n) =>
    (allocOp (refillStrm s2 n) (requestOp s2 hk k n) []).map (fun e =>
      mapKey e.1 (fun x => x.src = hk.src && x.ticket = hk.ticket) (fun x => { x with slot := some e.2 }))

/-- A first copy of a part has landed: whom the replies go to, the key (R373), and the whole request where it was the last part. -/
def takePart (s : State) (first : Bool) (k : Packet) : State :=
  let mine := fun (x : HKey) => x.src = k.src.toNat && x.ticket = k.ticket.toNat
  let s1 := match viaOf s k with | some d => mapKey s mine (fun x => { x with via := d }) | none => s
  match keyOf s1 k.src.toNat k.ticket.toNat with
  | some hk =>
    let s2 := match hk.slot with
      | some t => if keyDenied s1 first k then s1.onOp t (fun o => { o with status := statusMin o.status 0x17 }) else s1
      | none => s1
    if hk.whole then startRequest s2 hk else s2
  | none => s1

/-- A part of a request whose key this device holds: a first copy joins it, and is no more than kept when the request has been answered already; a
second draws PEND or the reply (R368). A request with its slot is accepted: no context operation holds back the rest of it (R446). -/
def landAgain (s : State) (k : Packet) (hk : HKey) : State :=
  let mine := fun (x : HKey) => x.src = k.src.toNat && x.ticket = k.ticket.toNat
  if hk.req.all (fun q => q.part ≠ k.part) then
    if hk.st ≠ .running then mapKey s mine (fun x => { x with req := x.req ++ [k] })
    else takePart (mapKey s mine (fun x => { x with req := x.req ++ [k] })) false k
  else
    let hk1 := { hk with via := (viaOf s k).getD hk.via }
    let s1 := mapKey (bumpFab1 s 31 16 1) mine (fun x => { x with via := hk1.via })
    if hk.st = .running then sendPend s1 hk1 else resendReply s1 hk1

/-- A request part lands from fabric port p (Table 13-4, step 2; R368). A request that finds no key or no slot free waits under credit. -/
def landRequest (p : Nat) (s : State) (k : Packet) : State :=
  match keyOf s k.src.toNat k.ticket.toNat with
  | some hk => landAgain s k hk
  | none =>
    if 65536 ≤ s.fab.keys.length ∨ s.quiesce.isSome then holdBack s p k
    else match openKey s p k with
      | some s1 => takePart s1 true k
      | none => holdBack s p k

/-- Data of a reply: a failing one carries its DETAIL, where there is one, in its first eight bytes (DESIGN CHOICE, notes/assumptions/20). -/
def replyBytes (st detail : Nat) (data : List Byte) : List Byte := if 0x10 ≤ st ∧ detail ≠ 0 then pad64 (leBytes 8 detail) else data

/-- The mirror that a request's owner forwards it to now (R380): none for a copy, a region without mirror, or a failing status. -/
def mirrorFor (s : State) (k : Packet) (payload : List Byte) (st : Nat) : Option Nat :=
  if k.kind = 0x05 ∨ k.kind = 0x01 ∨ k.kind = 0x04 ∨ 0x10 ≤ st then none
  else match requestRegion s k payload with
    | some r => if r.mv ∧ r.mirror ≠ s.dev then some r.mirror else none
    | none => none

/-- Dispatch of a request that holds slot t (R283, R356, R380): it is performed; a mirrored one waits for the mirror's reply. -/
def serveRemote (s : State) (t : Nat) (o : Op) : State :=
  match o.src with
  | .remote src ticket _ =>
    match keyOf s src ticket with
    | none => s
    | some hk =>
      match hk.parts with
      | [] => s
      | k :: _ =>
        let pl := hk.payload
        let s0 := s.setOp t { o with phase := .running }
        let rg := o.reg s0
        let a := k.addr.toNat
        let n := readLen s0 a hk.parts.length
        let r : State × Nat × Nat × List Byte :=
          if accRequest k then serveAcc s0 rg t src ticket k.step.toNat pl
          else if k.kind = 0x04 then servePart s0 rg t o.step pl
          else if k.kind = 0x01 then serveRead s0 (reachRefusal s0 a n) a n
          else (let x := serveWrite s0 t (reachRefusal s0 a pl.length) a pl; (x.1, x.2.1, x.2.2, []))
        let s1 := mapKey r.1 (fun x => x.src = src && x.ticket = ticket) (fun x => { x with reply := replyPackets x r.2.1 (replyBytes r.2.1 r.2.2.1 r.2.2.2) })
        match mirrorFor s1 k pl r.2.1 with
        | none => endOp s1 t r.2.1 r.2.2.1
        | some m =>
          if isAbsent s1 m then endOp (markDegraded s1 t) t r.2.1 0
          else
            let copy := fun (q : Packet) => { q with kind := 0x05, dst := BitVec.ofNat 12 m, retry := false, step := if accRequest k then q.step else 0xFFFFFFFF }
            sendRequest s1 t m (hk.parts.map copy) (some (src, ticket))
  | _ => s

/-- The accumulate of another device that the operation in a slot is: its first part and its payload. -/
def remoteAcc (s : State) (o : Op) : Option (Packet × List Byte) :=
  match o.src with
  | .remote src ticket _ =>
    match keyOf s src ticket with
    | some hk => match hk.parts with | k :: _ => if accRequest k then some (k, hk.payload) else none | [] => none
    | none => none
  | _ => none

/-- Is an operation an accumulate of another device for a step that its owner does not accept now (R39)? -/
def heldStale (s : State) (o : Op) : Bool :=
  match remoteAcc s o with
  | some (k, _) => !(stepFresh s k.step.toNat)
  | none => false

/-- Completion of a request that holds slot t: its reply leaves with the final status; the slot stays until REL (Table 13-4, steps 4 to 6), which
nobody sends when the reply would go to a device declared absent (Table 13-5). -/
def completeRemote (s : State) (t : Nat) (o : Op) : State :=
  match o.src with
  | .remote src ticket _ =>
    let st := finalStatus o
    let s1 := (strmDone s o.stream).setOp t { o with phase := .held }
    let s2 := mapKey s1 (fun k => k.src = src && k.ticket = ticket) (fun k =>
      let ps := if k.reply = [] then replyPackets k st (replyBytes st o.detail []) else k.reply
      { k with st := .replied, relAt := s.now, reply := ps.map (fun q => if q.last then { q with status := BitVec.ofNat 8 st } else q) })
    match keyOf s2 src ticket with
    | some hk => if isAbsent s2 hk.via then dropKey hk.via s2 hk else sendAll s2 hk.reply
    | none => freeSlot s2 t o.retried
  | _ => s

/-- Bytes that the rest of a SCT writes on this device: those of its messages that are still to leave and that this device serves. -/
def sctBytesHere (s : State) (o : Op) : List Range :=
  let d := parseSct o.desc
  match o.img o.region with
  | none => []
  | some r =>
    (((sctMsgs s o d r.B).drop o.progress).filter (fun m => (serverOf s m.dev m.reg).any (fun e => e.1 = s.dev))).flatMap (fun m =>
      match (o.shards d.nsh)[m.sh]? with
      | some h => (parseAcc (sctBytes s d r h m)).bytes s (o.reg s) (o.step.getD 0)
      | none => [])

/-- Bytes that an operation in flight writes on this device, as far as they are known now (R176): what its descriptor gives; for a clear and for
accumulates what they will write in the staging shares as they stand. -/
def opBytes (s : State) (o : Op) : List Range :=
  if o.opc = 0x25 then (sharesOf s (o.reg s o.region) (o.opA % 2)).flatMap clearWrites
  else if o.opc = 0x24 then (if o.aborted then [] else sctBytesHere s o)
  else match remoteAcc s o with
    | some (k, pl) => (parseAcc (pl.take 64)).bytes s (o.reg s) k.step.toNat
    | none => if o.progress = 0 ∧ o.desc ≠ [] ∧ o.addsHere s then (parseAcc (o.desc.take 64)).bytes s (o.reg s) (o.step.getD 0) else o.writes

end Sys2Proof.Machine
end

