-- ==== Sys2Proof/Machine/Remote.lean ====
section
/-!
DEFINITION. Packets as they arrive (R361-R363, R366, R370, R377) and the rows of remote operations: RREAD, RWRITE, the request, response and
release packets, reissue, and the timers of Table 13-4 (R356-R372, R380, R381).
-/

namespace Sys2Proof.Machine

/-! ### Arrival (R361, R363, R370) -/

/-- A header or payload that R363 calls malformed: reserved DIR, HB beyond 8, a payload that is no whole number of units or above 64 of them,
or a field that is not zero on a kind that has none (R373 gives a PREQ an ADDR). -/
def packetMalformed (k : Packet) : Bool :=
  let kd := k.kind.toNat
  decide (k.dir = 3) || decide (8 < k.hb.toNat) || decide (k.payload.length % 64 ≠ 0) || decide (4096 < k.payload.length)
  || (decide (kd ≠ 9) && decide (k.status ≠ 0)) || (decide (8 ≤ kd) && decide (k.akey ≠ 0))
  || (!(decide (kd = 1) || decide (kd = 2) || decide (kd = 4) || decide (kd = 5)) && decide (k.addr ≠ 0))

/-- The owner that sent a copy: the region's MIRROR, which a later part of an accumulate does not show; the key's other parts may have (R370). -/
def ownerOf (s : State) (k : Packet) : Option Nat :=
  match viaOf s k with
  | some d => some d
  | none => (keyOf s k.src.toNat k.ticket.toNat).bind (fun hk => if hk.viaKnown then some hk.via else none)

/-- The end device that sent a packet, from the header as received (R370). -/
def bleatTarget (s : State) (k : Packet) : Option Nat :=
  let kd := k.kind.toNat
  if kd = 5 then ownerOf s k
  else if kd = 8 ∨ kd = 9 then (s.fab.orig.find? (fun e => e.ticket = k.ticket.toNat)).map (fun e => e.dst)
  else if kd = 12 then s.armed.getLast?.map (fun a => a.pred s.dev)
  else some k.src.toNat

/-- Ask for a packet again after an ECRC mismatch (R370, Table 13-13). -/
def sendBleat (s : State) (k : Packet) : State :=
  match bleatTarget s k with
  | some d =>
    if d = s.dev then s
    else sendPacket s { bare 0x12 s.dev d 0 with
      payload := [k.kind, 0] ++ leBytes 2 k.part.toNat ++ leBytes 2 k.ticket.toNat ++ leBytes 2 k.src.toNat ++ List.replicate 24 0
        ++ (if k.kind = 0x0C then (k.payload ++ List.replicate 32 0).take 32 else List.replicate 32 0) }
  | none => s

/-- An ECRC mismatch (R363, R370): counted and answered with a Bleat; the second on one packet is a lasting fault of the port's ingress. -/
def ecrcMismatch (s : State) (p : Nat) (k : Packet) : State :=
  let s := bumpFab0 s 63 48
  let f := s.fport p
  let key := (k.kind.toNat, k.src.toNat, k.ticket.toNat * 65536 + k.part.toNat)
  if key ∈ f.ecrcBad then portFault s p
  else sendBleat (s.setFport p { f with ecrcBad := f.ecrcBad ++ [key] }) k

/-- Pass a packet on (R359-R361, R366): HB falls; DIR is cleared where the coordinate of the arrival dimension matches. -/
def forwardPacket (s : State) (p : Nat) (k : Packet) : State :=
  if k.hb = 0 then bumpFab0 s 31 16
  else
    let k := { k with hb := k.hb - 1 }
    let k := if p < 12 ∧ coord k.dst.toNat (p / 4) = coord s.dev (p / 4) then { k with dir := 0 } else k
    depart s k (some p) s.now

/-- Does the packet come from a device declared absent (R377)? A PEND or RPLY bears its originator's number, this device's; a copy comes from the
owner of its region. -/
def fromAbsent (s : State) (k : Packet) : Bool :=
  if k.kind = 0x08 ∨ k.kind = 0x09 then false
  else if k.kind = 0x05 then (ownerOf s k).any (isAbsent s) else isAbsent s k.src.toNat

/-- A good copy of a packet that a mismatch had discarded: the retry has succeeded (R370, R407). -/
def ecrcGood (s : State) (p : Nat) (k : Packet) : State :=
  let f := s.fport p
  let key := (k.kind.toNat, k.src.toNat, k.ticket.toNat * 65536 + k.part.toNat)
  if key ∈ f.ecrcBad then transient (s.setFport p { f with ecrcBad := f.ecrcBad.filter (fun x => x ≠ key) }) .central 0x02 p k.src.toNat else s

/-- A kind of Table 13-3. -/
def packetKind (kd : Nat) : Bool := decide (kd ∈ [1, 2, 3, 4, 5, 8, 9, 10, 12, 16, 17, 18, 19])

/-- Does a packet on port p wait at the far end: its class has no room here, or another packet of its class waits before it (R300, R365)? -/
def heldBack (s : State) (p : Nat) (k : Packet) : Bool :=
  !(classRoom s p k) || (s.fport p).held.any (fun q => decide (kindClass q.kind.toNat = kindClass k.kind.toNat))

/-- A packet of a kind arrives on port p: malformed and corrupt ones are discarded, those of other devices passed on. -/
def arrive (s : State) (p : FabPort) (kind : Byte) (k : Packet) (f : State → Packet → State) : State :=
  let k := { k with kind := kind }
  if ¬ s.live ∨ ¬ portUp s p.toNat then s
  else if heldBack s p.toNat k then holdBack s p.toNat k
  else if k.ecrc.toNat ≠ ecrcOf k then ecrcMismatch s p.toNat k
  else if packetMalformed k ∨ ¬ packetKind k.kind.toNat then bumpFab0 s 63 48
  else
  let s := ecrcGood s p.toNat k
  if fromAbsent s k then bumpFab1 s 47 32 1
  else if k.dst.toNat ≠ s.dev then forwardPacket s p.toNat k
  else f s k

/-! ### RREAD and RWRITE (R357, R358) -/

/-- Acceptance check of RREAD (`rd`) or RWRITE. One that names this device, or a device whose mirror this one is, may touch bytes here: they are
recorded as local bytes too (R32). -/
def remCheck (rd : Bool) (s : State) (o : Op) : Chk :=
  withDesc s o 64 (fun b =>
    let r := parseRem b
    if r.len = 0 ∨ 268435456 < r.len ∨ r.len % 64 ≠ 0 ∨ r.addr % 64 ≠ 0 ∨ r.loc % 64 ≠ 0 then .illegal
    else match badRanges s [rngL r.loc r.len rd] with
      | some x => .bad 0x16 x
      | none => .ok ((if r.dev = s.dev ∨ mirrorOf s r.dev = some s.dev then [rngL r.addr r.len (!rd)] else []) ++ [rngL r.loc r.len rd, { lo := r.dev * 2 ^ 52 + r.addr, len := r.len, wr := !rd, remote := true }]) [] b [])

/-- The parts of a read request: 4,096 bytes each, no payload (Table 13-3). -/
def readParts (k : Packet) (len : Nat) : List Packet :=
  let n := cdiv len 4096
  (List.range n).map (fun i => { k with part := BitVec.ofNat 16 i, last := decide (i + 1 = n) })

/-- RREAD leaves once; one that names this device is served here (R356). -/
def readStep (s : State) (t : Nat) (o : Op) : State :=
  let r := parseRem o.desc
  if o.aborted ∧ o.progress = 0 then endAborted s t 0
  else if o.progress ≠ 0 then s
  else
    let s1 := s.onOp t (fun p => { p with progress := 1 })
    match remServer s r.dev r.addr with
    | none => endOp s1 t 0x12 r.dev
    | some q =>
      if q = s.dev then
        let x := serveRead s1 (ownRefusal s1 (tenantOf s o) r.akey r.addr r.len) r.addr r.len
        deliver x.1 t x.2.1 x.2.2.1 x.2.2.2 (decide (q ≠ r.dev))
      else sendRequest (if q = r.dev then s1 else markDegraded s1 t) t q (readParts (reqHeader s o (ticketOf s t) 0x01 q r.akey r.addr) r.len) none

/-- RWRITE leaves once; one that names this device is written here, and forwarded when its region is mirrored (R356, R380). -/
def writeStep (s : State) (t : Nat) (o : Op) : State :=
  let r := parseRem o.desc
  let data := rdLocal s r.loc r.len
  if o.aborted ∧ o.progress = 0 then endAborted s t 0
  else if o.progress ≠ 0 then s
  else
    let s1 := s.onOp t (fun p => { p with progress := 1 })
    match remServer s r.dev r.addr with
    | none => endOp s1 t 0x12 r.dev
    | some q =>
      let hdr := fun kind (d : Nat) => reqHeader s o (ticketOf s t) kind d r.akey r.addr
      if q = s.dev ∧ q ≠ r.dev then writeOwn s1 t (tenantOf s o) r.akey r.addr data
      else if q = s.dev then
        let x := serveWrite s1 t (ownRefusal s1 (tenantOf s o) r.akey r.addr r.len) r.addr data
        match mirrorFor x.1 (hdr 0x02 q) data x.2.1 with
        | none => deliver x.1 t x.2.1 x.2.2 [] false
        | some m =>
          if isAbsent s m then deliver x.1 t x.2.1 x.2.2 [] true
          else sendRequest x.1 t m (partsOf { hdr 0x05 m with step := 0xFFFFFFFF } data) none
      else sendRequest (if q = r.dev then s1 else markDegraded s1 t) t q (partsOf (hdr 0x02 q) data) none

/-- RREAD (R357). -/
def execRread (t : SlotId) (s : State) : Host.Outcome State Fault Refusal :=
  commit s (opRow s t.toNat 0x13 (fun _ _ => false) (remCheck true) (fun s o => if o.isSub then s else readStep s t.toNat o))

/-- RWRITE (R357). -/
def execRwrite (t : SlotId) (s : State) : Host.Outcome State Fault Refusal :=
  commit s (opRow s t.toNat 0x14 (fun _ _ => false) (remCheck false) (fun s o => if o.isSub then s else writeStep s t.toNat o))

/-! ### Requests that arrive (R367, R283, R380) -/

/-- RDREQ. -/
def execRdreq (p : FabPort) (k : Packet) (s : State) : Host.Outcome State Fault Refusal := commit s (arrive s p 0x01 k (landRequest p.toNat))
/-- WRREQ. -/
def execWrreq (p : FabPort) (k : Packet) (s : State) : Host.Outcome State Fault Refusal := commit s (arrive s p 0x02 k (landRequest p.toNat))
/-- ACCM. -/
def execAccm (p : FabPort) (k : Packet) (s : State) : Host.Outcome State Fault Refusal := commit s (arrive s p 0x03 k (landRequest p.toNat))
/-- PREQ. -/
def execPreq (p : FabPort) (k : Packet) (s : State) : Host.Outcome State Fault Refusal := commit s (arrive s p 0x04 k (landRequest p.toNat))
/-- FWD. -/
def execFwd (p : FabPort) (k : Packet) (s : State) : Host.Outcome State Fault Refusal := commit s (arrive s p 0x05 k (landRequest p.toNat))

/-! ### Responses and releases -/

/-- The request that a response answers, its operation in flight under exactly that ticket (R159). -/
def answered (s : State) (k : Packet) : Option Orig :=
  s.fab.orig.find? (fun e => e.ticket = k.ticket.toNat && (s.op e.slot).isSome
    && (match e.fwdOf with | none => decide (k.src.toNat = s.dev) && decide (slotOfTicket s e.ticket = some e.slot) | some f => decide (f = (k.src.toNat, k.ticket.toNat))))

/-- PEND (R369): from here on the originator waits without a timeout; a stale one is dropped (R371). -/
def pendArrive (s : State) (k : Packet) : State :=
  match answered s k with
  | some e => mapOrig s (fun x => x = e) (fun x => { x with pend := true })
  | none => bumpStale s

/-- REL for a ticket towards a device, noted as sent there (R372). -/
def sendRel (s : State) (k : Packet) (dst : Nat) : State :=
  noteSent (sendPacket s { bare 0x0A k.src.toNat dst k.ticket.toNat with sstr := k.sstr, tenant := k.tenant }) dst k.src.toNat k.ticket.toNat

/-- Data of the parts of a reply in order, when all have come. -/
def Orig.replyData (e : Orig) : Option (List Byte) :=
  match e.lastPart with
  | some n => if (List.range (n + 1)).all (fun i => e.parts.any (fun q => q.1 = i)) then some ((List.range (n + 1)).flatMap (fun i => (aget e.parts i).getD [])) else none
  | none => none

/-- What the reply to an accumulate says it added joins the operation's summary (R169, R281). -/
def noteReply (s : State) (e : Orig) (st : Nat) (data : List Byte) : State :=
  match e.packets with
  | k :: _ => if k.kind = 0x03 ∧ st < 0x10 then noteAdded s e.slot (replySum (parseAcc (k.payload.take 64)) data) else s
  | [] => s

/-- RPLY (Table 13-4, step 5): parts gather; the last one completes the request and sends REL. A reply to nothing in flight is dropped and still
answered with REL, towards the device that its key was last sent to (R371). -/
def rplyArrive (s : State) (k : Packet) : State :=
  match answered s k with
  | none =>
    let s1 := bumpStale s
    match (s.fab.sent.filter (fun e => e.ticket = k.ticket.toNat && e.src = k.src.toNat)).getLast? with
    | some e => sendRel s1 k e.dst
    | none => s1
  | some e =>
    let e' := { e with parts := if e.parts.any (fun q => q.1 = k.part.toNat) then e.parts else e.parts ++ [(k.part.toNat, k.payload)],
                       lastPart := if k.last then some k.part.toNat else e.lastPart, status := if k.last then k.status.toNat else e.status }
    let s1 := if k.retry then s.onOp e.slot (fun o => { o with retried := true }) else s
    match e'.replyData with
    | none => mapOrig s1 (fun x => x = e) (fun _ => e')
    | some data =>
      let s2 := sendRel (dropOrig s1 (fun x => x = e)) k e.dst
      deliver (noteReply (if e.retried then transient s2 .central 0x02 0xFFFF e.dst else s2) e e'.status data) e.slot e'.status
        (if e'.status < 0x10 then 0 else if data = [] then (if e'.status = 0x12 then e.dst else 0) else fieldAt data 0 8)
        (if e'.status < 0x10 then data else []) false

/-- REL (Table 13-4, step 6): the slot goes free, the key stays 576 us more. One whose ticket awaits no release is stale (R159). -/
def relArrive (s : State) (k : Packet) : State :=
  match keyOf s k.src.toNat k.ticket.toNat with
  | some hk =>
    if hk.st = .replied then
      freeKeySlot (mapKey s (fun x => x = hk) (fun x => { x with st := .released, relAt := s.now })) hk
    else bumpStale s
  | none => bumpStale s

/-- PEND. -/
def execPend (p : FabPort) (k : Packet) (s : State) : Host.Outcome State Fault Refusal := commit s (arrive s p 0x08 k pendArrive)
/-- RPLY. -/
def execRply (p : FabPort) (k : Packet) (s : State) : Host.Outcome State Fault Refusal := commit s (arrive s p 0x09 k rplyArrive)
/-- REL. -/
def execRel (p : FabPort) (k : Packet) (s : State) : Host.Outcome State Fault Refusal := commit s (arrive s p 0x0A k relArrive)

/-! ### Timers (R369, Table 13-4) -/

/-- RTO in ticks: FABCFG.RTO counts 16 us. -/
def rtoTicks (s : State) : Nat := fld s.sched.fabcfg 3 0 * 1600

/-- A request with neither PEND nor RPLY. -/
def Orig.silent (e : Orig) : Bool := !e.pend && e.parts.isEmpty

/-- REISSUE (R369): RTO has passed; every part goes once more with RETRY, and the slot will enter quarantine. -/
def reissueSlot (s : State) (t : Nat) : State :=
  match s.fab.orig.find? (fun e => e.slot = t && e.silent && !e.retried) with
  | none => s
  | some e =>
    let s1 := s.atLeast (e.sentAt + rtoTicks s)
    let s2 := (mapOrig (bumpFab1 s1 15 0 1) (fun x => x = e) (fun x => { x with retried := true, sentAt := s1.now })).onOp t (fun o => { o with retried := true })
    noteSent (sendAll s2 (e.packets.map (fun k => { k with retry := true }))) e.dst ((e.fwdOf.map Prod.fst).getD s.dev) e.ticket

/-- REISSUE. -/
def execReissue (t : SlotId) (s : State) : Host.Outcome State Fault Refusal := commit s (if s.live then reissueSlot s t.toNat else s)

/-- REISSUE_SILENCE (R369): 1.1 ms after the reissue the target is declared absent. -/
def execReissueSilence (t : SlotId) (s : State) : Host.Outcome State Fault Refusal :=
  commit s (match s.fab.orig.find? (fun e => e.slot = t.toNat && e.silent && e.retried) with
    | some e => if s.live then declareAbsent (s.atLeast (e.sentAt + 110000)) e.dst else s
    | none => s)

/-- PEND_TIMER (Table 13-4, step 3): no RPLY within 16 us of landing. -/
def execPendTimer (src : DevId) (ticket : BitVec 16) (s : State) : Host.Outcome State Fault Refusal :=
  commit s (match keyOf s src.toNat ticket.toNat with
    | some hk =>
      if s.live ∧ hk.st = .running ∧ ¬ hk.pended ∧ hk.viaKnown then
        mapKey (sendPend (s.atLeast (hk.landed + 1600)) hk) (fun x => x = hk) (fun x => { x with pended := true })
      else s
    | none => s)

/-- RPLY_RESEND (Table 13-4, step 7): no REL within RTO; up to four times. -/
def execRplyResend (src : DevId) (ticket : BitVec 16) (s : State) : Host.Outcome State Fault Refusal :=
  commit s (match keyOf s src.toNat ticket.toNat with
    | some hk =>
      if s.live ∧ hk.st = .replied ∧ hk.resends < 4 then
        let s1 := s.atLeast (hk.relAt + rtoTicks s)
        resendReply (mapKey s1 (fun x => x = hk) (fun x => { x with resends := x.resends + 1, relAt := s1.now })) hk
      else s
    | none => s)

/-- ORIGINATOR_SILENCE (R369): 1.1 ms after the fourth resent RPLY the originator is declared absent. -/
def execOriginatorSilence (src : DevId) (ticket : BitVec 16) (s : State) : Host.Outcome State Fault Refusal :=
  commit s (match keyOf s src.toNat ticket.toNat with
    | some hk => if s.live ∧ hk.st = .replied ∧ hk.resends = 4 ∧ hk.viaKnown then declareAbsent (s.atLeast (hk.relAt + 110000)) hk.via else s
    | none => s)

/-- HELD_KEY_EXPIRY (Table 13-4, step 6): 576 us after REL. -/
def execHeldKeyExpiry (src : DevId) (ticket : BitVec 16) (s : State) : Host.Outcome State Fault Refusal :=
  commit s (match keyOf s src.toNat ticket.toNat with
    | some hk =>
      if s.live ∧ hk.st = .released then
        let s1 := s.atLeast (hk.relAt + 57600)
        { s1 with fab := { s1.fab with keys := s1.fab.keys.filter (fun k => k ≠ hk) } }
      else s
    | none => s)

/-- FILTER_ENTRY_EXPIRY (R284): an entry leaves a Hoof's duplicate filter 576 us of the Hoof's local time after its message was applied. That time stands still without HAON or its reference (R57). -/
def execFilterEntryExpiry (h : HoofId) (src : DevId) (ticket : BitVec 16) (s : State) : Host.Outcome State Fault Refusal :=
  commit s (
    let k := s.hoof h.val
    match k.filter.find? (fun e => e.src = src.toNat && e.ticket = ticket.toNat) with
    | some e => if ¬ k.haon ∨ ¬ k.refclk then s else s.setHoof h.val { k with ltime := Nat.max k.ltime (e.at_ + 57600), filter := k.filter.filter (fun x => x ≠ e) }
    | none => s)

/-- REMOTE_STREAM_IDLE_CLOSE (R317): a remote stream with nothing in flight for 10 ms. -/
def execRemoteStreamIdleClose (st : StreamId) (s : State) : Host.Outcome State Fault Refusal :=
  commit s (match s.strm st.toNat with
    | some k =>
      if s.live ∧ k.kind = 2 ∧ k.infl = 0 then
        let s1 := s.atLeast (k.last + 1000000)
        { s1 with strms := adel s1.strms st.toNat }
      else s
    | none => s)

end Sys2Proof.Machine
end

