-- ==== Sys2Proof/Machine/Steps.lean ====
section
/-!
DEFINITION. Steps: STOP, the opening, STCL and the rounds of its barrier, the close, FENC (R108-R120, R130, R177-R181, R288).
-/

namespace Sys2Proof.Machine

/-! ### STOP (R178) -/

/-- May a STOP open step n now (R178)? -/
def stopAllowed (s : State) (n : Nat) : Bool :=
  match s.steps with
  | [] => true
  | [x] => x.stcl.isSome && decide (n = (x.num + 1) % 2 ^ 32)
  | _ => false

/-- A step whose STOP is accepted and whose opening has not taken effect. -/
def StepSt.fresh (n q : Nat) : StepSt :=
  { num := n, at_ := q, opened := false, stcl := none, guarded := false, mfirst := false, mAny := false, round := .none, key := 0, classes := [], passes := 0, vel := [],
    ovf := [], merged := [], wrote := [], updated := [], seedmis := false, pass := [], todo := [], again := false }

/-- STOP (R178): opens step A[31:0], or ends with STEP_ORDER. -/
def execStop (t : SlotId) (s : State) : Host.Outcome State Fault Refusal :=
  commit s (if isIssued s t.toNat 0x01 ∧ acceptTurn s t.toNat then
      match s.op t.toNat with
      | some o =>
        let n := o.opA % 2 ^ 32
        let p : Op := { o with step := (newestStep s).map (fun x => x.num) }
        if stopAllowed s n then endOp ({ s with steps := s.steps ++ [StepSt.fresh n o.seq] }.setOp t.toNat p) t.toNat 0 0
        else endOp (s.setOp t.toNat p) t.toNat 0x19 0
      | none => s
    else s)

/-! ### The opening (R178, R108-R116, R120, R130, R37) -/

/-- This device's own guarded wishes for a step that no barrier precedes (R116). -/
def ownGuarded (s : State) : Bool := flag s.sched.scalepol 32 || decide (fld s.sched.scalepol 31 16 ≠ 0)

/-- Guarded and measure-first as merged at the barrier before, or as this device wishes where none has closed (R116, R120). -/
def openWishes (s : State) : Bool × Bool :=
  if s.car.closedOnce then (s.car.wishG || (s.car.wishS && !s.car.lastCommit), s.car.wishM) else (ownGuarded s, false)

/-- Classes of the valid regions (R37). -/
def classesNow (s : State) : List (Nat × Bool) :=
  ((List.range 4096).filter (fun i => (s.rawRegion i).valid)).map (fun i => (i, (s.rawRegion i).sparse))

/-- Velvet entries that a step names whose history the close pushes by R111; the push of a staging region's is R288's. -/
def namedEntries (regs : List (Nat × Region)) : List Nat :=
  (velEntries regs).filter (fun j => match velOwner regs j with | some e => !e.2.stg | none => false)

/-- Accumulates of other devices that this device has held while no step was open: it checks each at the opening (R39). -/
def checkHeld (s : State) : State :=
  (busySlots s).foldl (fun s e => if e.2.phase = .waiting ∧ heldStale s e.2 then serveRemote s e.1 e.2 else s) s

/-- Velvet state that operations of a step use: C, G, SRB of each entry (R200). -/
def captureVel (s : State) (regs : List (Nat × Region)) : List (Nat × (Int × Int × Nat)) :=
  (velEntries regs).map (fun j => let v := s.velvet j; (j, (v.c, v.g, v.srb)))

/-- Regions that the opening of a step sweeps: those of a carry, and those of a persistent entry whose history moves it (R108, R113). -/
def sweptRegions (s : State) (regs : List (Nat × Region)) : List (Nat × Region) :=
  (velEntries regs).flatMap (fun j => match velOwner regs j with
    | some own =>
      let v := s.velvet j
      if v.ok && ((v.carryPend && !(carryRefused v)) || (!own.2.perStep && decide (4 ≤ (targetC own.2.fmt v - v.c).natAbs))) then regionsOf regs j else []
    | none => [])

/-- Does an operation that the scoreboard puts before a sweep of the opening still use a region to be swept (R32, R108)? Those are the
operations at work, and the ones that were accepted before the step's STOP. -/
def sweepWaits (s : State) (x : StepSt) : Bool :=
  let rs := (sweptRegions s (velRegions s)).flatMap (fun e => regionRanges e.2 true)
  (busySlots s).any (fun e => (match e.2.phase with | .running | .ended => true | .waiting => decide (e.2.seq < x.at_) | _ => false)
    && e.2.ranges.any (fun a => rs.any (fun b => Range.conflicts a b)))

/-- The opening of the oldest step takes effect: Velvet, the seed latch, class capture, the regime, held accumulates, the bucket plan. It
waits for operations that the scoreboard puts before its sweeps. -/
def stepOpening (s : State) : State :=
  match s.steps with
  | x :: _ =>
    if x.opened ∨ ¬ s.live ∨ sweepWaits s x then s
    else
      let regs := velRegions s
      let s1 := (velEntries regs).foldl (fun s j => openEntry s x.num regs s.car.skipMap j) s
      let w := openWishes s1
      let mf := w.2 || (velEntries regs).any (fun j => decide ((s1.velvet j).hcount = 0))
      let s2 := { s1 with sched := { s1.sched with drxkey := s1.sched.drxseed, scalepol := setFlag (setFlag s1.sched.scalepol 33 mf) 34 (w.1 || mf) } }
      let early := (s2.car.early.filter (fun e => e.1 = x.num)).map Prod.snd
      let earlyW := (s2.car.earlyW.filter (fun e => e.1 = x.num)).map Prod.snd
      let s3 := s2.onStep x.num (fun y => { y with opened := true, guarded := w.1 || mf, mfirst := mf, key := s2.sched.drxseed, classes := classesNow s2,
                                                    vel := captureVel s2 regs, ovf := early.foldl addNew y.ovf, wrote := earlyW })
      let late := fun (e : Nat × Nat) => decide (e.1 ≠ x.num)
      let s4 := { s3 with car := { s3.car with lastOpened := x.num, anyOpened := true, skipMap := [],
                                               early := s3.car.early.filter late, earlyW := s3.car.earlyW.filter late } }
      checkHeld (retryRings (if planWanted s4 then armPlan s4 x.num else s4))
  | [] => s

/-- STEP_OPENING: the STOP is accepted and the STCL of the step before has completed. -/
def execStepOpening (s : State) : Host.Outcome State Fault Refusal := commit s (stepOpening s)

/-! ### STCL (R180, R181) -/

/-- A barrier list without reserved encodings (R181). -/
def barrierOk (s : State) (d : BarD) : Bool :=
  decide (1 ≤ d.members.length) && decide (d.members.length ≤ 4096) && decide (d.members.Pairwise (· < ·)) && decide (s.dev ∈ d.members)

/-- STCL is accepted (R168, R179-R181, R333): tagged with the newest open step, it triggers the buckets of its step that have not triggered, and
a contribution already held that disagrees ends it. A reserved member count is found before the list is read. -/
def stclAccept (s : State) (t : Nat) (o : Op) : State :=
  let n := o.opA % 2 ^ 32
  let p : Op := { o with step := (newestStep s).map (fun x => x.num) }
  let s := s.setOp t p
  match badAddr s (storeBase + o.doff * 64) 64 with
  | some x => endOp s t 0x16 x
  | none =>
    let m := fieldAt (descAt s o.doff 64) 4 2
    if m = 0 ∨ 4096 < m then endIllegal s t
    else
    let b := descAt s o.doff (64 + 2 * m)
    match badAddr s (storeBase + o.doff * 64) b.length with
    | some x => endOp s t 0x16 x
    | none =>
      if ¬ barrierOk s (parseBarD b) then endIllegal s t
      else match stepOf s n with
        | none => endOp s t 0x19 0
        | some x =>
          if x.stcl.isSome then endOp s t 0x19 0
          else
            let s1 := (s.setOp t { p with desc := b, phase := .running }).onStep n (fun y => { y with stcl := some t })
            let s2 := s1.onArmed n (fun a => { a with flushed := true })
            if heldMismatch s2 n then endMismatch s2 n else s2

/-- STCL. -/
def execStcl (t : SlotId) (s : State) : Host.Outcome State Fault Refusal :=
  commit s (if isIssued s t.toNat 0x02 ∧ acceptTurn s t.toNat then (match s.op t.toNat with | some o => stclAccept s t.toNat o | none => s) else s)

/-- Has step 1 of R180 come: every operation of the step other than UPD has completed, those of other devices too, and its buckets? -/
def stepIdle (s : State) (n : Nat) (stcl : Nat) : Bool :=
  (busySlots s).all (fun e => decide (e.1 = stcl) || decide (e.2.step ≠ some n) || decide (e.2.opc = 0x20) || !e.2.inFlight)
  && s.armed.all (fun a => decide (a.step ≠ n) || a.over)

/-- ROUND_A (R180, step 2): this device joins round A of the oldest step. -/
def execRoundA (n : W32) (s : State) : Host.Outcome State Fault Refusal :=
  commit s (match s.steps with
    | x :: _ =>
      match x.stcl with
      | some t =>
        if s.live ∧ x.num = n.toNat ∧ x.opened ∧ x.round = .none ∧ stepIdle s x.num t then
          joinRound (s.onStep x.num (fun y => { y with round := .aSent })) x.num 0 (wishByte false false false x.mfirst) 0 []
        else s
      | none => s
    | [] => s)

/-- Release the UPDs of a step: as trials when it runs guarded or the round-A flag is set (R180, step 3). -/
def releaseUpds (s : State) (n : Nat) (trial : Bool) : State :=
  (busySlots s).foldl (fun s e =>
    if e.2.opc = 0x20 ∧ e.2.step = some n then s.onOp e.1 (fun o => { o with rel := true, trial := if o.phase = .waiting then trial else o.trial }) else s) s

/-- The open step is measure-first for every member once round A has merged it (R120, R121): SCALEPOL.MFIRST reads 1 here too. -/
def noteMeasure (s : State) (m : Bool) : State :=
  if m then { s with sched := { s.sched with scalepol := setFlag s.sched.scalepol 33 true } } else s

/-- ROUND_A_DONE (R180, steps 2 and 3; R351): round A is complete. -/
def execRoundADone (n : W32) (s : State) : Host.Outcome State Fault Refusal :=
  commit s (match stepOf s n.toNat with
    | some x =>
      if s.live ∧ x.round = .aSent then
        match roundContribs s x.num 0 with
        | some cs =>
          let m := cs.any (fun c => bitAt c.wish 3)
          clearBitmap (releaseUpds (noteMeasure (s.onStep x.num (fun y => { y with round := .aDone, mAny := m })) m) x.num (x.guarded || m)) x.num cs.length
        | none => s
      else s
    | none => s)

/-- Has every UPD of the step finished its trial, or completed (R180, step 4)? Of two trials of one region in a guarded step the second waits for
the first by R32, and the first for the second's trial by R180 and R202: the spec gives no way out, and in the model neither ends (DESIGN CHOICE,
notes/assumptions/60). -/
def updsSettled (s : State) (n : Nat) : Bool :=
  (busySlots s).all (fun e => decide (e.2.opc ≠ 0x20) || decide (e.2.step ≠ some n) || (if e.2.trial then updSettled s e.2 else !e.2.inFlight))

/-- Has every UPD of the step completed? -/
def updsDone (s : State) (n : Nat) : Bool := (busySlots s).all (fun e => decide (e.2.opc ≠ 0x20) || decide (e.2.step ≠ some n) || !e.2.inFlight)

/-- Will a region that the step names still have HCOUNT = 0 after its close (R120)? -/
def measureWish (s : State) (x : StepSt) : Bool :=
  !x.mfirst && (namedEntries (velRegions s)).any (fun j => decide ((s.velvet j).hcount = 0) && decide (j ∉ x.wrote))

/-- The trial UPDs of a step: run again, as trials or as commits, or ended with nothing written (R118, R120, R202). -/
def rerunTrials (s : State) (n : Nat) (trial : Bool) : State :=
  (busySlots s).foldl (fun s e =>
    if e.2.opc = 0x20 ∧ e.2.step = some n ∧ e.2.trial ∧ e.2.phase = .running then
      s.onOp e.1 (fun o => { o with trial := trial, done := [], reports := [], rowBlks := [], progress := 0, count := 0, ovfcnt := 0,
                                    maxabs := -128, flags := 0, voids := none })
    else s) s

/-- The history push of a close (R111, R120): the entries that the step wrote, those whose region is valid no longer among them, or all of
them in a measure-first step, which also sets C. -/
def pushAll (s : State) (regs : List (Nat × Region)) (x : StepSt) : State :=
  ((namedEntries regs).filter (fun j => x.mfirst || decide (j ∈ x.wrote)) ++ x.wrote.filter (fun j => (velOwner regs j).isNone)).foldl (fun s j =>
    match velOwner regs j with
    | none => s.onVelvet j (fun v => pushHist v x.num)
    | some own =>
      let s1 := s.onVelvet j (fun v => pushHist v x.num)
      if x.mfirst ∧ own.2.perStep then s1.onVelvet j (fun v => { v with c := targetC own.2.fmt v }) else s1) s

/-- Does a measure pass repeat (R120, item 3): a per-step region overflowed in it, and fewer than MPASS passes have run? -/
def passRepeats (s : State) (x : StepSt) : Bool :=
  x.mfirst && decide (x.passes + 1 < fld s.sched.scalepol 51 48)
    && x.ovf.any (fun j => match velOwner (velRegions s) j with | some own => own.2.perStep | none => false)

/-- An operation of a pass as the block runs it again: as it was accepted, for itself alone (R120). -/
def Op.anew (o : Op) : Op :=
  { o with src := .again, phase := .waiting, crec := false, hold := false, fb := false, status := 0, maxabs := -128, count := 0, ovfcnt := 0,
           flags := 0, detail := 0, voids := none, trapped := false, retried := false, degraded := false, aborted := false, progress := 0,
           done := [], reports := [], subs := 0, subst := [], rowBlks := [], recs := 0, heldRows := [], doneAt := 0 }

/-- Does a repeated pass run the operation again: one that writes regions of this device, under this step? An accumulate is added once, whatever
passes run, and what leaves the device leaves it once (DEDUCED, notes/assumptions/32). -/
def Op.repeats (o : Op) : Bool :=
  decide (o.opc ∈ [0x10, 0x11, 0x22, 0x23, 0x30, 0x40, 0x41, 0x42]) && decide (finalStatus o < 0x10)
    && (match o.src with | .core _ _ => true | .host _ => decide (o.opc ≠ 0x23) | .again => true | _ => false)

/-- A complete operation of a measure-first step is kept for the pass's repeat (R120). -/
def keepPass (s : State) (o : Op) : State :=
  match o.step.bind (stepOf s) with
  | some x => if x.mfirst ∧ o.repeats ∧ x.round ≠ .closed then s.onStep x.num (fun y => { y with pass := y.pass ++ [o] }) else s
  | none => s

/-- An UPD of a repeated pass waits once more, for the pass's other operations. -/
def Op.trialAnew (o : Op) : Op :=
  { o with phase := .waiting, rel := false, done := [], reports := [], rowBlks := [], progress := 0, count := 0, ovfcnt := 0, maxabs := -128,
           flags := 0, voids := none }

/-- Has the trial UPD of a step run in the pass that ends? -/
def passTrial (n : Nat) (o : Op) : Bool :=
  decide (o.opc = 0x20) && decide (o.step = some n) && o.trial && decide (o.phase = .running) && !o.aborted

/-- The end of a measure pass that repeats (R120): the history push, C of each per-step region, and the pass from its first operation. -/
def nextPass (s : State) (x : StepSt) : State :=
  let regs := velRegions s
  let s1 := pushAll s regs x
  let s2 := s1.onStep x.num (fun y => { y with passes := y.passes + 1, ovf := [], wrote := [], vel := captureVel s1 regs,
                                               todo := y.pass, pass := [], again := true })
  (busySlots s2).foldl (fun s e => if passTrial x.num e.2 then s.setOp e.1 e.2.trialAnew else s) s2

/-- The next operation of a repeated pass takes a slot, under its place in the order of arrival (R32, R33). -/
def startAgain (n : Nat) (s : State) : State :=
  match (stepOf s n).map (fun x => x.todo) with
  | some (o :: rest) =>
    match allocOp s o.anew [] with
    | some (s1, t) => (s1.onOp t (fun p => { p with seq := o.seq })).onStep n (fun y => { y with todo := rest })
    | none => s
  | _ => s

/-- Has every operation of a repeated pass but its updates completed? -/
def passRun (s : State) (x : StepSt) : Bool :=
  x.todo.isEmpty && (busySlots s).all (fun e => decide (e.2.src ≠ .again) || decide (e.2.step ≠ some x.num) || !e.2.inFlight)

/-- A repeated pass goes on: its operations start, and after the last of them its updates run as trials (R120). -/
def runAgain (s : State) (x : StepSt) : State :=
  if passRun s x then releaseUpds (s.onStep x.num (fun y => { y with again := false })) x.num true
  else times (startAgain x.num) x.todo.length s

/-- ROUND_B (R180, step 4; R116): the wishes are read as the contribution leaves. A measure pass that repeats comes before it, and each command
starts of its operations what finds a slot (R120). -/
def execRoundB (n : W32) (s : State) : Host.Outcome State Fault Refusal :=
  commit s (match stepOf s n.toNat with
    | some x =>
      if s.live ∧ x.round = .aDone ∧ x.again then runAgain s x
      else if s.live ∧ x.round = .aDone ∧ updsSettled s x.num then
        if passRepeats s x then nextPass s x
        else
        let gl := fld s.sched.scalepol 31 16
        let trial := x.guarded || x.mAny
        let g := flag s.sched.scalepol 32 || decide (1 < gl) || (decide (gl = 1) && !trial)
        let w := decide (gl = 1) && trial
        joinRound (s.onStep x.num (fun y => { y with round := .bSent })) x.num 1 (wishByte g (measureWish s x) w false) (keyFold x.key.toNat) x.ovf
      else s
    | none => s)

/-! ### The end of round B and the close -/

/-- The trial UPDs of a step: run again as commits, or ended with nothing written, CANCELLED where ABORT reached them (R202, R206). -/
def resolveTrials (s : State) (n : Nat) (commit : Bool) : State :=
  if commit then rerunTrials s n false
  else (busySlots s).foldl (fun s e =>
    if e.2.opc = 0x20 ∧ e.2.step = some n ∧ e.2.trial ∧ e.2.phase = .running then
      let s1 := s.onOp e.1 (fun o => { o with count := 0 })
      if e.2.aborted then endAborted s1 e.1 0 else endWork s1 e.1 0 0
    else s) s

/-- What a skipped step does to the entries of the merged map (R118, step 4). -/
def skipEntries (s : State) (regs : List (Nat × Region)) (x : StepSt) (merged : List Nat) : State :=
  merged.foldl (fun s j =>
    match velOwner regs j with
    | none => s
    | some own =>
      let upd := regs.any (fun e => decide (e.2.velv = j) && decide (e.1 ∈ x.updated))
      let s1 := if upd then halveGain s j own.1 else s
      s1.onVelvet j (fun v => { v with skip := satAdd 16 v.skip 1, clean := 0 })) s

/-- What a committed guarded step does: GLEFT falls, updated regions count clean steps (R118, step 5). -/
def commitEntries (s : State) (regs : List (Nat × Region)) (x : StepSt) : State :=
  let gl := fld s.sched.scalepol 31 16
  let s1 := { s with sched := { s.sched with scalepol := setFld s.sched.scalepol 31 16 (gl - 1) } }
  let js := (velEntries regs).filter (fun j => regs.any (fun e => decide (e.2.velv = j) && decide (e.1 ∈ x.updated)))
  js.foldl (fun s j => match velOwner regs j with | some own => regrow s j own.2.gain | none => s) s1

/-- The staging halves of a step are prepared for the step after the next (R288). -/
def prepareHalves (s : State) (t : Nat) (regs : List (Nat × Region)) (n : Nat) (skipMap : List Nat) : State :=
  (regs.filter (fun e => e.2.stg)).foldl (fun s e => prepareHalf s t e.2 n (decide (e.2.velv ∈ skipMap))) s

/-- Did the step commit nothing because the merged map was not empty (R118)? -/
def StepSt.skipped (x : StepSt) : Bool := (x.guarded || x.mAny) && !x.mAny && !x.merged.isEmpty

/-- Summary flags of STCL (Table 6-11). OVF stands for an overflow of the operation's own writes: the chapter's worked summary of a close with
three regions in the merged map has it clear (06_instruction_set.md, the second of its two programs). -/
def closeFlags (x : StepSt) : Nat :=
  (if x.mAny then 32 else 0) + (if x.seedmis then 64 else 0) + (if x.skipped then 128 else 0)

/-- Step 6 of R180, after step 5: history, halves, the wishes of the next step; STCL's work ends, and the step stays open until STCL has
completed (R179). -/
def closeStep (s : State) (x : StepSt) (t : Nat) (cs : List Contrib) (d : BarD) : State :=
  let regs := velRegions s
  let sm := if x.skipped then x.merged else []
  let s1 := if x.skipped then skipEntries s regs x x.merged else if (x.guarded || x.mAny) && !x.mAny then commitEntries s regs x else s
  let s2 := prepareHalves (pushAll s1 regs x) t regs x.num sm
  let wish := fun i => cs.any (fun c => bitAt c.wish i)
  let gone := d.members.filter (fun m => decide (m ∉ presentSet s d))
  let s3 := { dropContribs s2 x.num with
    steps := s2.steps.map (fun (y : StepSt) => if y.num = x.num then { y with round := .closed } else y)
    sched := { s2.sched with scalepol := setFlag s2.sched.scalepol 33 false }
    car := { s2.car with closedOnce := true, wishG := wish 0 || x.mAny, wishS := wish 2, wishM := wish 1,
                         lastCommit := !(x.skipped || x.mAny), skipMap := sm } }
  let s4 := s3.onOp t (fun o => { o with count := if gone.isEmpty then 0 else cs.length, ovfcnt := x.merged.length, flags := closeFlags x })
  if gone.isEmpty then endOp s4 t 0 0 else endOp s4 t 0x12 (gone.foldl Nat.min 4095)

/-- The close, once every UPD of the step has completed. -/
def tryClose (s : State) (n : Nat) : State :=
  match stepOf s n, barOf s n with
  | some x, some d =>
    match x.stcl with
    | some t =>
      if x.round = .bDone ∧ updsDone s n then
        closeStep s x t (s.fab.contribs.filter (fun c => c.step = n && c.round = 1 && decide (c.dev ∈ presentSet s d))) d
      else s
    | none => s
  | _, _ => s

/-- Round B is complete: the merged map, the seed check, the trials' end (R116, R137, R180, step 5). -/
def mergeB (s : State) (x : StepSt) (cs : List Contrib) : State :=
  let merged := cs.foldl (fun a c => c.ovf.foldl addNew a) []
  let mis := match cs with | c :: rest => rest.any (fun e => e.fold ≠ c.fold) | [] => false
  let s1 := if mis then addLog s 5 0x0104 0xFFFF x.num else s
  let s2 := s1.onStep x.num (fun y => { y with round := .bDone, merged := merged, seedmis := mis })
  resolveTrials s2 x.num (merged.isEmpty && !x.mAny)

/-- ROUND_B_DONE (R180, steps 4 to 6): round B is complete; the step closes as soon as its UPDs have completed. -/
def execRoundBDone (n : W32) (s : State) : Host.Outcome State Fault Refusal :=
  commit s (match stepOf s n.toNat with
    | some x =>
      if ¬ s.live then s
      else if x.round = .bSent then
        match roundContribs s x.num 1 with
        | some cs => tryClose (mergeB s x cs) x.num
        | none => s
      else tryClose s x.num
    | none => s)

/-! ### FENC (R177) -/

/-- FENC. -/
def execFenc (t : SlotId) (s : State) : Host.Outcome State Fault Refusal :=
  commit s (if isIssued s t.toNat 0x03 then acceptOp s t.toNat (fun _ _ => false) (fun _ _ => .ok [] [] [] [])
    else match s.op t.toNat with
      | some o => if o.opc = 0x03 ∧ (o.phase = .waiting ∨ o.phase = .running) ∧ s.live ∧ streamClear s o then endOp s t.toNat 0 0 else s
      | none => s)

end Sys2Proof.Machine
end

