-- ==== Sys2Proof/Machine/Vector.lean ====
section
/-!
DEFINITION. The vector engine (spec/09): register contexts, the VOP descriptor and its checks, the lane, tile and wide operations of
Table 9-6 over one context.
-/

namespace Sys2Proof.Machine

/-! ### Registers of a context (R241, R243) -/

/-- A register of zeros with X = 0. -/
def VReg.zero : VReg := { m := [], x := [], sat := [] }

/-- A context at the start of an operation. -/
def VCtx.fresh (slot vl : Nat) : VCtx := { slot := slot, v := [], t := [], vl := vl, iter := 0, sumc := false, at_ := 0 }

/-- Vector register d. -/
def VCtx.reg (x : VCtx) (d : Nat) : VReg := mget (fun _ => VReg.zero) x.v (d % 32)
/-- Replace vector register d. -/
def VCtx.setReg (x : VCtx) (d : Nat) (r : VReg) : VCtx := { x with v := mput (fun _ => VReg.zero) x.v (d % 32) r }
/-- Tile d. -/
def VCtx.tile (x : VCtx) (d : Nat) : VReg := mget (fun _ => VReg.zero) x.t (d % 8)
/-- Replace tile d. -/
def VCtx.setTile (x : VCtx) (d : Nat) (r : VReg) : VCtx := { x with t := mput (fun _ => VReg.zero) x.t (d % 8) r }

namespace VReg

/-- Exponent of a group of 64 elements, or of a tile row. -/
def exp (r : VReg) (g : Nat) : Int := mget (fun _ => 0) r.x g
/-- 32-bit word of element i. -/
def word (r : VReg) (i : Nat) : W32 := mget (fun _ => 0) r.m i
/-- Value of element i; element 64 r + c of a tile is row r, column c. -/
def lane (r : VReg) (i : Nat) : Num := ofReg (r.exp (i / 64)) (el32 (r.word i).toNat)

/-- Put raw words at elements. -/
def setWords (r : VReg) : List (Nat × Nat) → VReg
  | [] => r
  | (i, w) :: l => setWords { r with m := mput (fun _ => 0) r.m i (BitVec.ofNat 32 w) } l

/-- Write the 64 values of a group in register form (R192, R243): X, mantissas, the saturated mark. -/
def putGroup (r : VReg) (g : Nat) (e0 : Int) (vals : List Num) : VReg :=
  let q := toReg e0 vals
  let r := r.setWords (q.2.1.zipIdx.map (fun e => (64 * g + e.2, pat32 e.1)))
  { r with x := mput (fun _ => 0) r.x g q.1, sat := if q.2.2 then addNew r.sat g else r.sat.filter (fun h => h ≠ g) }

/-- Write the elements below n that `act` marks with values `val`; the others keep theirs. `e0 g` is the exponent of the exact result of
group g (R192); kept elements count with the exponent they have (DEDUCED, notes/assumptions/21). -/
def putLanes (r : VReg) (n : Nat) (act : Nat → Bool) (val : Nat → Num) (e0 : Nat → Int) : VReg :=
  (List.range (cdiv n 64)).foldl (fun (acc : VReg) g =>
    let idx := (List.range 64).map (fun k => 64 * g + k)
    let on := fun i => decide (i < n) && act i
    if idx.any on then
      let kept := idx.any (fun i => !(on i) && (acc.lane i).active)
      acc.putGroup g (if kept then Min.min (e0 g) (r.exp g) else e0 g) (idx.map (fun i => if on i then val i else r.lane i))
    else acc) r

/-- The register with element values in group 0 from the list, everything else zero. -/
def ofGroup0 (e0 : Int) (vals : List Num) : VReg :=
  VReg.zero.putGroup 0 e0 (vals ++ List.replicate (64 - vals.length) Num.zero)

end VReg

/-- Is element i active for an instruction (R244)? -/
def VCtx.active (x : VCtx) (f : VecF) (i : Nat) : Bool := !f.men || ((x.reg f.msk.toNat).lane i).active

/-! ### Wide registers -/

/-- Wide pattern in the register pair d of element i. -/
def VCtx.wideBits (x : VCtx) (d i : Nat) : Nat := ((x.reg d).word i).toNat + 2 ^ 32 * ((x.reg (d + 1)).word i).toNat
/-- Wide number of element i. -/
def VCtx.wide (x : VCtx) (d i : Nat) : Num := ofWide (x.wideBits d i)
/-- Pair of element i. -/
def VCtx.pair (x : VCtx) (d i : Nat) : Num := ofPair (x.wideBits d i) (x.wideBits (d + 2) i)

/-- Put wide patterns at elements of the register pair d; the exponents of the registers stay. -/
def VCtx.putWide (x : VCtx) (d : Nat) (l : List (Nat × Nat)) : VCtx :=
  let x := x.setReg d ((x.reg d).setWords (l.map (fun e => (e.1, e.2 % 2 ^ 32))))
  x.setReg (d + 1) ((x.reg (d + 1)).setWords (l.map (fun e => (e.1, e.2 / 2 ^ 32))))

/-- What a wide instruction leaves beside its results: saturated, underflow count (R84). -/
structure WideNote where
  sat : Bool
  unf : Nat
deriving DecidableEq, Repr

/-- The wide path's saturation flag and underflow count (R84). The spec gives neither a register nor a clearing: both run on until a reset,
and the count has no end (DESIGN CHOICE, notes/assumptions/55). -/
def noteWide (s : State) (w : WideNote) : State :=
  { s with units := { s.units with wsat := s.units.wsat || w.sat, wunf := s.units.wunf + w.unf } }

/-! ### The VOP descriptor (Tables 9-3, 9-4) -/

/-- A binding. -/
structure Bind where
  reg  : Nat
  off  : Nat
  step : Int
  span : Nat
deriving DecidableEq, Repr

/-- Binding k of a descriptor. -/
def bindAt (desc : List Byte) (k : Nat) : Bind :=
  let o := 64 + 16 * k
  { reg := fieldAt desc o 2 % 4096, off := fieldAt desc (o + 2) 6, step := sext 32 (fieldAt desc (o + 8) 4), span := fieldAt desc (o + 12) 4 }

/-- Element offset of a binding at an iteration. -/
def Bind.at_ (b : Bind) (k : Nat) : Int := (b.off : Int) + (k : Int) * b.step

/-- Number of instructions, program offset, initial vl, iterations, dropout threshold and tag of a descriptor. -/
def vopNins (d : List Byte) : Nat := fieldAt d 4 2
/-- PROG -/
def vopProg (d : List Byte) : Nat := fieldAt d 0 3
/-- VL0 -/
def vopVl0 (d : List Byte) : Nat := fieldAt d 6 2
/-- ITER -/
def vopIter (d : List Byte) : Nat := fieldAt d 8 4
/-- DTHR -/
def vopDthr (d : List Byte) : Nat := fieldAt d 12 4
/-- The 40-bit dropout tag (R246, R251). -/
def vopTag (o : Op) : Nat := fieldAt o.desc 3 1 * 2 ^ 32 + o.imm

/-! ### Instruction words (R248) -/

/-- OP of an instruction word. -/
def vecOp (w : Nat) : Nat := w % 256

/-- Fields of an instruction word (Table 9-5). -/
def vecFields (w : Nat) : VecF :=
  { fn := BitVec.ofNat 8 (bits w 15 8), vd := BitVec.ofNat 5 (bits w 20 16), va := BitVec.ofNat 5 (bits w 25 21),
    vb := BitVec.ofNat 5 (bits w 30 26), msk := BitVec.ofNat 5 (bits w 35 31), men := bitAt w 36,
    bnd := BitVec.ofNat 2 (bits w 38 37), imm := BitVec.ofNat 16 (bits w 63 48) }

/-- IMM as a signed number. -/
def vimm (f : VecF) : Int := sext 16 f.imm.toNat
/-- BC: b is element 0 of vb. -/
def vbc (f : VecF) : Bool := bitAt f.fn.toNat 7

/-- Is the constant of VCON free of a reserved encoding (R194)? -/
def constOk (w : Nat) : Bool := decide (w % 65536 ≠ 0x8000)

/-- Is the instruction free of reserved encodings (R248, Table 9-6)? `a` and `b` are the operands of the VOP. For TGV and TPV the spec gives no
refusal of a row or column IMM outside 0 to 63: it is a reserved encoding here (DESIGN CHOICE, notes/assumptions/62). -/
def vecOk (a b op : Nat) (f : VecF) : Bool :=
  let fn := f.fn.toNat
  let vd := f.vd.toNat
  let va := f.va.toNat
  let vb := f.vb.toNat
  let bc := decide (fn = 0 ∨ fn = 128)
  if op = 0x01 ∨ op = 0x08 ∨ op = 0x09 ∨ op = 0x0F ∨ op = 0x12 ∨ op = 0x13 ∨ op = 0x31 then decide (fn = 0)
  else if op = 0x02 then decide (fn = 0) && !f.men
  else if op = 0x03 ∨ op = 0x04 ∨ op = 0x05 ∨ op = 0x06 ∨ op = 0x07 ∨ op = 0x0B then bc
  else if op = 0x0A then decide (fn = 0) && decide (-512 ≤ vimm f ∧ vimm f ≤ 511)
  else if op = 0x0C then decide (fn = 0) && constOk (a % 2 ^ 32) || decide (fn = 1) && constOk (b % 2 ^ 32)
  else if op = 0x0D then decide (fn % 128 ≤ 3)
  else if op = 0x0E then decide (fn = 0) && f.men
  else if op = 0x10 then decide (fn ≤ 7)
  else if op = 0x11 then decide (fn ≤ 15) && decide (va < 8)
  else if op = 0x18 then decide (fn = 0) && decide (1 ≤ vimm f) && decide (vd < 8)
  else if op = 0x19 then decide (fn = 0) && decide (1 ≤ vimm f) && decide (va < 8)
  else if op = 0x1A then decide (fn = 0) && decide (vd < 8) && decide (va < 8)
  else if op = 0x1B then
    decide (fn % 16 ≤ 4) && decide (fn / 16 ≤ 2) && decide (vd < 8) && decide (va < 8) && (decide (fn / 16 ≠ 0) || decide (vb < 8))
  else if op = 0x1C then decide (fn ≤ 1) && decide (va < 8) && decide (0 ≤ vimm f ∧ vimm f ≤ 63)
  else if op = 0x1D then decide (fn ≤ 1) && decide (vd < 8) && decide (0 ≤ vimm f ∧ vimm f ≤ 63)
  else if op = 0x20 then decide (fn = 0) && decide (vd % 2 = 0)
  else if op = 0x21 then decide (fn % 128 ≤ 6) && decide (vd % 2 = 0 ∧ va % 2 = 0 ∧ (vb % 2 = 0 ∨ 5 ≤ fn % 128))
  else if op = 0x22 then decide (fn ≤ 7) && decide (vd % 2 = 0 ∧ va % 2 = 0 ∧ (vb % 2 = 0 ∨ fn ≠ 7))
  else if op = 0x23 then decide (fn = 0) && decide (vd % 4 = 0 ∧ va % 2 = 0)
  else if op = 0x24 then decide (fn ≤ 1) && decide (vd % 4 = 0 ∧ va % 4 = 0 ∧ vb % 4 = 0)
  else if op = 0x25 then decide (fn = 0) && decide (vd % 4 = 0 ∧ va % 4 = 0 ∧ vb % 4 = 0)
  else if op = 0x26 then decide (fn ≤ 1) && decide (vd % 4 = 0 ∧ va % (if fn = 0 then 2 else 4) = 0)
  else if op = 0x27 then decide (fn ≤ 1) && decide (va % (if fn = 0 then 2 else 4) = 0)
  else if op = 0x30 then (decide (fn = 0) && decide (0 ≤ vimm f ∧ vimm f ≤ 1024)) || (decide (fn = 1) && decide (a ≤ 1024))
  else false

/-- vl after an instruction. -/
def vlAfter (a vl op : Nat) (f : VecF) : Nat :=
  if op = 0x30 then (if f.fn = 0 then (vimm f).toNat else a) else vl

/-- Does the instruction load or store through its binding? -/
def vecAccess (op : Nat) : Bool := op = 0x01 || op = 0x02 || op = 0x18 || op = 0x19
/-- Does the instruction name its binding: access, or address for dropout? -/
def vecNames (op : Nat) : Bool := vecAccess op || op = 0x0F

/-- Formats of the lanes (R91, Table 3-10). -/
def laneFmt (fmt : Nat) : Bool := narrow fmt || fmt = fA32 || fmt = fG32

/-- Formats of the wide path in the store (R86, R91). -/
def wideFmt (fmt : Nat) : Bool := fmt = fWIDE || fmt = fPAIR

/-- Block size of a binding's region; wide numbers and pairs have no blocks. -/
def bindB (r : Region) : Nat := if wideFmt r.fmt then 1 else r.B

/-- The register that an access fills or stores: any vector register, a pair for wide numbers, four for pairs (R242, R86). VLD and VST are the moves of
R86 (DEDUCED, notes/assumptions/55). -/
def accessReg (r : Region) (d : Nat) : Bool := if r.fmt = fWIDE then d % 2 = 0 else if r.fmt = fPAIR then d % 4 = 0 else true

/-- Is an instruction's use of its binding sound at a vl (R247, R249)? -/
def accessOk (s : State) (desc : List Byte) (vl op : Nat) (f : VecF) : Bool :=
  if !vecNames op then true
  else
    let b := bindAt desc f.bnd.toNat
    let r := s.region b.reg
    if b.reg = 0xFFF then false
    else if op = 0x0F then true
    else if op = 0x18 ∨ op = 0x19 then
      !(wideFmt r.fmt) && decide (64 % r.B = 0) && decide ((64 * vimm f) % r.B = 0) && decide (64 * vimm f * 63 + 64 ≤ b.span)
    else accessReg r (if op = 0x01 then f.vd.toNat else f.va.toNat) && decide (((b.off : Int) + 64 * vimm f) % bindB r = 0)
      && (decide (vl = 0) || decide (64 * vimm f + (cdiv vl (bindB r) * bindB r : Nat) ≤ b.span))

/-- Check a program from a vl on; the vl that it leaves, if it is sound. -/
def progOk (s : State) (desc : List Byte) (a b : Nat) : Nat → List Nat → Option Nat
  | vl, [] => some vl
  | vl, w :: ws =>
    let f := vecFields w
    if vecOk a b (vecOp w) f && decide (bits w 47 39 = 0) && accessOk s desc vl (vecOp w) f
    then progOk s desc a b (vlAfter a vl (vecOp w) f) ws else none

/-- How far a program reaches below binding k's offset by a negative IMM. R247 refuses an access beyond OFF + SPAN alone: one below OFF runs as long
as it stays in the region (DESIGN CHOICE, notes/assumptions/55). -/
def lowReach (ws : List Nat) (k : Nat) : Int :=
  (ws.filter (fun w => vecNames (vecOp w) && decide ((vecFields w).bnd.toNat = k))).foldl (fun a w => Min.min a (64 * vimm (vecFields w))) 0

/-- A binding in use: its region sound for the lanes or the wide path and its offsets within the region at every iteration; `low` is the reach below
the offset. -/
def bindOk (s : State) (iters : Nat) (b : Bind) (low : Int) : Bool :=
  let r := s.region b.reg
  let last := b.at_ (iters - 1)
  regionOk s r && (laneFmt r.fmt || wideFmt r.fmt) && !r.stg && decide (b.off % bindB r = 0) && decide (b.step % bindB r = 0)
  && decide (b.off + b.span ≤ r.length) && decide (0 ≤ last + low ∧ 0 ≤ b.off + low ∧ last + b.span ≤ r.length)

/-- Range of a binding over every iteration. -/
def bindRanges (s : State) (iters : Nat) (b : Bind) (low : Int) (wr : Bool) : List Range :=
  let lo := Min.min (b.off : Int) (b.at_ (iters - 1)) + low
  let hi := Max.max (b.off : Int) (b.at_ (iters - 1)) + b.span
  spanRanges (s.region b.reg) lo.toNat (hi - lo).toNat wr

/-- Program words of a descriptor. -/
def vopWords (s : State) (d : List Byte) : List Nat :=
  let bs := s.stBytes (vopProg d * 64) (8 * vopNins d)
  (List.range (vopNins d)).map (fun k => fieldAt bs (8 * k) 8)

/-- Does a VOP need a step: its program drops (R251, Table 6-8)? -/
def vopNeeds (s : State) (o : Op) : Bool :=
  let d := descAt s o.doff 128
  decide (vopNins d ≤ 4096) && (vopWords s d).any (fun w => vecOp w = 0x0F)

/-- Acceptance check of a VOP (R246, R247). -/
def vopCheck (s : State) (o : Op) : Chk :=
  withDesc s o 128 (fun d =>
    if vopNins d = 0 ∨ 4096 < vopNins d ∨ 1024 < vopVl0 d ∨ vopIter d = 0 then .illegal
    else match badAddr s (storeBase + vopProg d * 64) (8 * vopNins d) with
      | some x => .bad 0x16 x
      | none =>
        let ws := vopWords s d
        let a := o.opA
        let b := o.opB
        let used := fun k (p : Nat → Bool) => ws.any (fun w => p (vecOp w) && decide ((vecFields w).bnd.toNat = k))
        let ks := (List.range 4).filter (fun k => used k vecNames)
        let redK := (List.range 4).filter (fun k => ws.any (fun w => (vecOp w = 0x10 || vecOp w = 0x11) && decide ((vecFields w).fn.toNat % 8 = 0)
          && decide ((vecFields w).bnd.toNat = k)) && decide ((bindAt d k).reg ≠ 0xFFF))
        let n := vopIter d
        let sound := match progOk s d a b (vopVl0 d) ws with
          | some vl => decide (n = 1) || (progOk s d a b vl ws).isSome
          | none => false
        if !sound || !(ks.all (fun k => bindOk s n (bindAt d k) (lowReach ws k))) || !(redK.all (fun k => regionOk s (s.region (bindAt d k).reg))) then .illegal
        else .ok (ks.flatMap (fun k => bindRanges s n (bindAt d k) (lowReach ws k) (used k (fun op => op = 0x02 || op = 0x19))))
          ((ks ++ redK).map (fun k => ((bindAt d k).reg, s.region (bindAt d k).reg))) d ws)

/-! ### Context access -/

/-- Context of slot t. -/
def ctxOf (s : State) (t : Nat) : Option (Nat × VCtx) := s.ctxs.find? (fun e => e.2.slot = t)

/-- Lowest free context number (R241). -/
def freeCtxNo (s : State) : Option Nat := (List.range 8).find? (fun x => s.ctxs.all (fun e => e.1 ≠ x))

/-- Replace context x. -/
def setCtx (s : State) (x : Nat) (c : VCtx) : State := { s with ctxs := s.ctxs.map (fun e => if e.1 = x then (x, c) else e) }

/-- PERM_RANGE in the summary and in VECSTAT (R255). -/
def notePerm (s : State) (t : Nat) : State :=
  let s := s.onOp t (fun o => { o with flags := o.flags ||| 16 })
  { s with units := { s.units with vecstat := setFlag s.units.vecstat 16 true } }

/-- EMPTY in the summary and in VECSTAT (R253). -/
def noteEmpty (s : State) (t : Nat) : State :=
  let s := s.onOp t (fun o => { o with flags := o.flags ||| 2 })
  { s with units := { s.units with vecstat := setFlag s.units.vecstat 17 true } }

/-- A void that a wide function makes from non-void operands (R258, R259); a register element has no logical index (DEDUCED,
notes/assumptions/21). -/
def noteVoid (s : State) (t : Nat) : State :=
  s.onOp t (fun o => { o with flags := o.flags ||| 1, voids := lowerVoid o.voids (some (0xFFFFFFFFFFFF, 2, 0xFFF)) })

/-- What an instruction works on: the slot, its operation, the context and its number. -/
structure VEnv where
  t : Nat
  o : Op
  n : Nat
  x : VCtx
deriving DecidableEq, Repr

/-- The VOP that works in context n. -/
def vopAt (s : State) (n : Nat) : Option VEnv :=
  match s.ctxs.find? (fun e => e.1 = n) with
  | some (_, x) => (running s x.slot 0x40).map (fun o => { t := x.slot, o := o, n := n, x := x })
  | none => none

/-- Binding of an instruction. -/
def VEnv.bind (e : VEnv) (f : VecF) : Bind := bindAt e.o.desc f.bnd.toNat

/-- Region image of a binding. -/
def VEnv.reg (e : VEnv) (f : VecF) : Option Region := if (e.bind f).reg = 0xFFF then none else e.o.img (e.bind f).reg

/-- Element offset that the binding has in the current iteration. -/
def VEnv.off (e : VEnv) (f : VecF) : Int := (e.bind f).at_ e.x.iter

/-- A lane instruction: element values, the exponent of each group's exact result. -/
def VEnv.lanes (e : VEnv) (f : VecF) (val : Nat → Num) (e0 : Nat → Int) : VCtx :=
  e.x.setReg f.vd.toNat ((e.x.reg f.vd.toNat).putLanes e.x.vl (e.x.active f) val e0)

/-- The two operands of a lane instruction at element i. -/
def VEnv.a (e : VEnv) (f : VecF) (i : Nat) : Num := (e.x.reg f.va.toNat).lane i
/-- b: element i of vb, or its element 0 with BC. -/
def VEnv.b (e : VEnv) (f : VecF) (i : Nat) : Num := (e.x.reg f.vb.toNat).lane (if vbc f then 0 else i)
/-- Exponent of va's group. -/
def VEnv.ea (e : VEnv) (f : VecF) (g : Nat) : Int := (e.x.reg f.va.toNat).exp g
/-- Exponent of b's group. -/
def VEnv.eb (e : VEnv) (f : VecF) (g : Nat) : Int := (e.x.reg f.vb.toNat).exp (if vbc f then 0 else g)

/-! ### Loads and stores (R249) -/

/-- Exponent at which a list of values is read exactly: the smallest of its non-void values (R191). -/
def readExp (vals : List Num) : Int :=
  match vals.filter (fun v => !v.isVoid) with
  | [] => 0
  | v :: vs => vs.foldl (fun a w => match w with | .fin _ e => Min.min a e | .void => a) (match v with | .fin _ e => e | .void => 0)

/-- Pattern of word `half` of a wide element in the store: a wide number, or hi or lo of a pair (R83, R85). -/
def wideAt (s : State) (r : Region) (i half : Nat) : Nat :=
  leNat (rdLocal s (r.base + (if r.fmt = fPAIR then 16 else 8) * i + 8 * half) 8)

/-- VLD of wide numbers or pairs: their patterns into the registers. -/
def wideLoad (s : State) (e : VEnv) (f : VecF) (r : Region) (base : Nat) : VCtx :=
  let is := (List.range e.x.vl).filter (e.x.active f)
  let put := fun (x : VCtx) half => x.putWide (f.vd.toNat + 2 * half) (is.map (fun i => (i, wideAt s r (base + i) half)))
  if r.fmt = fPAIR then put (put e.x 0) 1 else put e.x 0

/-- VLD. -/
def vecLoad (s : State) (e : VEnv) (f : VecF) : VCtx :=
  match e.reg f with
  | none => e.x
  | some r =>
    let C := coarseOf s e.o.step r
    let base := (e.off f + 64 * vimm f).toNat
    let val := fun i => elemVal s r C (base + i)
    if wideFmt r.fmt then wideLoad s e f r base
    else e.lanes f val (fun g => readExp ((List.range (Nat.min 64 (e.x.vl - 64 * g))).map (fun k => val (64 * g + k))))

/-- Write a G32 block with a fresh header (R89, R340): EXP as IMPORT takes an exponent, ESC 0, its own checksum, CONTRIB 1. -/
def putG32 (s : State) (t : Nat) (r : Region) (b : Nat) (vals : List Num) (force : Bool) : State :=
  let X := a32Exp vals
  let ms := vals.map (fun v => (v.at_ X).map hold31)
  let el := ms.map (fun o => o.map Prod.fst)
  let ovf := force || ms.any (fun o => match o with | some (_, h) => h | none => false)
  let vp := vals.any Num.isVoid
  let g : G32 := { exp := X, esc := 0, sat := ovf, voidp := vp, escm := false, csum := csum el, block := b % 2 ^ 32, contrib := 1, el := el }
  let s1 := wrLocal s t (r.base + b * 272) (g32Bytes g)
  let s2 := markStep (countVelvet s1 r.velv (logCode (maxMag vals)) 0 (if ovf then 1 else 0) 0 false) (opStep s t) r.velv ovf
  noteOp s2 t vals.length (logCode (maxMag (el.map (ofReg X)))) ovf vp ovf none

/-- What pair results note. -/
def pairNote (l : List Num) : WideNote := { sat := l.any (fun v => (toPair v).2.2.1), unf := l.countP (fun v => (toPair v).2.2.2) }

/-- What writing wide numbers, or pairs, notes (R84). -/
def formNote (pair : Bool) (l : List Num) : WideNote :=
  if pair then pairNote l else { sat := l.any (fun v => (toWide v).sat), unf := l.countP (fun v => (toWide v).unf) }

/-- VST of wide numbers or pairs from element `base`, in the forms that the wide path writes (R83, R85), what that notes (R84),
and what it reports. -/
def wideStore (s : State) (e : VEnv) (f : VecF) (r : Region) (base : Nat) : State :=
  let vals := (List.range e.x.vl).map (fun i => if r.fmt = fPAIR then e.x.pair f.va.toNat i else e.x.wide f.va.toNat i)
  let bytes := vals.flatMap (fun v => if r.fmt = fPAIR then leBytes 8 (toPair v).1 ++ leBytes 8 (toPair v).2.1 else leBytes 8 (toWide v).w)
  noteOp (noteWide (wrLocal s e.t (r.base + (if r.fmt = fPAIR then 16 else 8) * base) bytes) (formNote (r.fmt = fPAIR) vals)) e.t vals.length (logCode (maxMag vals)) false
    (vals.any Num.isVoid) false none

/-- Store one block; a block that a saturated group writes has OVF set and counts as an overflow (R243). In a compensated region it writes the hi
codes alone (R87; DESIGN CHOICE, notes/assumptions/41). -/
def vecBlock (s : State) (t ri : Nat) (r : Region) (b : Nat) (vals : List Num) (force : Bool) : State :=
  if narrow r.fmt then
    let step := opStep s t
    let w := encBlock r.fmt r.strict (stepGuarded s step) (coarseOf s step r) (bbyteAt s r b) vals (fun E _ v => encode r.fmt r.strict E v)
    putBlockW s t ri r b (if force then { w with ovf := true, bb := w.bb ||| 0x40 } else w) true
  else if r.fmt = fG32 then putG32 s t r b vals force
  else putA32 s t r b vals force

/-- Store n blocks from element `base` of the region, taking values and saturated marks from a register. -/
def vecBlocks (s : State) (e : VEnv) (ri : Nat) (r : Region) (base : Nat) (q : VReg) (first vl n : Nat) : State :=
  (List.range n).foldl (fun s k =>
    let idx := (List.range r.B).map (fun i => first + k * r.B + i)
    let live := idx.filter (fun i => i < first + vl)
    vecBlock s e.t ri r (base / r.B + k) (idx.map (fun i => if i < first + vl then q.lane i else Num.zero)) (live.any (fun i => i / 64 ∈ q.sat))) s

/-- Keep COUNT at what SUMC set (R259). -/
def keepCount (e : VEnv) (s : State) : State :=
  if e.x.sumc then s.onOp e.t (fun o => { o with count := e.o.count }) else s

/-- VST. -/
def vecStore (s : State) (e : VEnv) (f : VecF) : State :=
  match e.reg f with
  | none => s
  | some r =>
    if wideFmt r.fmt then keepCount e (wideStore s e f r (e.off f + 64 * vimm f).toNat)
    else keepCount e (vecBlocks s e (e.bind f).reg r (e.off f + 64 * vimm f).toNat (e.x.reg f.va.toNat) 0 e.x.vl (cdiv e.x.vl r.B))

/-- TLD. -/
def tileLoad (s : State) (e : VEnv) (f : VecF) : VCtx :=
  match e.reg f with
  | none => e.x
  | some r =>
    let C := coarseOf s e.o.step r
    e.x.setTile f.vd.toNat ((List.range 64).foldl (fun (q : VReg) (row : Nat) =>
      let vals := elemVals s r C (e.off f + 64 * vimm f * (row : Int)).toNat 64
      q.putGroup row (readExp vals) vals) VReg.zero)

/-- TST. -/
def tileStore (s : State) (e : VEnv) (f : VecF) : State :=
  match e.reg f with
  | none => s
  | some r => keepCount e ((List.range 64).foldl (fun s (row : Nat) =>
      vecBlocks s e (e.bind f).reg r (e.off f + 64 * vimm f * (row : Int)).toNat (e.x.tile f.va.toNat) (64 * row) 64 (64 / r.B)) s)

/-! ### Reductions (R252-R254) -/

/-- An element of a reduction: its index, the exponent of its group, its value. -/
structure RedEl where
  i : Nat
  x : Int
  v : Num
deriving DecidableEq, Repr

/-- The exact sum of R252 on the grid 2^(Xm - 20), divided by `n` toward zero. -/
def sumGrid (l : List RedEl) (n : Nat) : Num × Int :=
  let g := (maxInt 0 (l.map (fun e => e.x))) - 20
  if l.any (fun e => e.v.isVoid) then (.void, g)
  else (.fin (Int.tdiv (l.foldl (fun a e => a + (match e.v with | .fin m x => onGrid m x g | .void => 0)) 0) n) g, g)

/-- First element that no other one beats. -/
def bestEl (gt : Num → Num → Bool) : List RedEl → Option RedEl
  | [] => none
  | e :: l => some (l.foldl (fun b y => if gt y.v b.v then y else b) e)

/-- The smallest exponent among the groups of the operand that take part: the exponent of a MAX, MIN or MAXABS before normalization (R192, R243). -/
def leastX : List RedEl → Int
  | [] => 0
  | e :: l => l.foldl (fun a y => Min.min a y.x) e.x

/-- Reduction of kind k (Table 9-7): value, exponent of the exact result, empty. `C` is the exponent of an empty sum. -/
def reduceEls (k : Nat) (C : Int) (l : List RedEl) : Num × Int × Bool :=
  let live := l.filter (fun e => !e.v.isVoid)
  let pick := fun (o : Option RedEl) => (match o with | some e => e.v | none => Num.void)
  if l.isEmpty then
    ((if k = 0 then .fin 0 C else if k = 1 then Num.zero else if 6 ≤ k then .fin (-1) 0 else .void), (if k = 0 then C else 0), true)
  else if k = 0 then ((sumGrid l 1).1, (sumGrid l 1).2, false)
  else if k = 1 then (.fin live.length 0, 0, false)
  else if k = 2 then (pick (bestEl (fun a b => Num.lt b a) live), leastX l, false)
  else if k = 3 then (pick (bestEl Num.lt live), leastX l, false)
  else if k = 4 then (pick (bestEl (fun a b => Num.lt b a) (live.map (fun e => { e with v := Num.abs e.v }))), leastX l, false)
  else if k = 5 then ((sumGrid l l.length).1, (sumGrid l l.length).2, false)
  else
    match bestEl (if k = 6 then (fun a b => Num.lt b a) else Num.lt) live with
    | some e => (.fin e.i 0, 0, false)
    | none => (.fin (-1) 0, 0, false)

/-- X of an empty sum: C of the region that BND names. -/
def VEnv.emptyC (s : State) (e : VEnv) (f : VecF) : Int :=
  match e.reg f with | some r => coarseOf s e.o.step r | none => 0

/-- VRED: the context, and whether the reduction was empty. -/
def vecReduce (s : State) (e : VEnv) (f : VecF) : VCtx × Bool :=
  let q := e.x.reg f.va.toNat
  let l := ((List.range e.x.vl).filter (e.x.active f)).map (fun i => ({ i := i, x := q.exp (i / 64), v := q.lane i } : RedEl))
  let r := reduceEls (f.fn.toNat % 8) (e.emptyC s f) l
  (e.x.setReg f.vd.toNat (VReg.ofGroup0 r.2.1 [r.1]), r.2.2)

/-- TRED: the context, and whether any result was empty; with vl = 0 every one is (R244). -/
def tileReduce (s : State) (e : VEnv) (f : VecF) : VCtx × Bool :=
  let q := e.x.tile f.va.toNat
  let part := (List.range 64).filter (fun k => decide (e.x.vl ≠ 0) && (!f.men || ((e.x.reg f.msk.toNat).lane k).active))
  let el := fun r c => ({ i := (if bitAt f.fn.toNat 3 then r else c), x := q.exp r, v := q.lane (64 * r + c) } : RedEl)
  let rs := (List.range 64).map (fun j => reduceEls (f.fn.toNat % 8) (e.emptyC s f)
    (part.map (fun k => if bitAt f.fn.toNat 3 then el k j else el j k)))
  let e0 := rs.foldl (fun a r => Min.min a r.2.1) (match rs with | r :: _ => r.2.1 | [] => 0)
  (e.x.setReg f.vd.toNat (VReg.ofGroup0 e0 (rs.map (fun r => r.1))), rs.any (fun r => r.2.2))

/-! ### Lane arithmetic -/

/-- A binary lane instruction: exponent of the exact result by R192. -/
def laneBin (e : VEnv) (f : VecF) (op : Num → Num → Num) (mulExp : Bool) : VCtx :=
  e.lanes f (fun i => op (e.a f i) (e.b f i)) (fun g => if mulExp then e.ea f g + e.eb f g else Min.min (e.ea f g) (e.eb f g))

/-- A unary lane instruction, `k` added to the exponent. -/
def laneUn (e : VEnv) (f : VecF) (op : Num → Num) (k : Int) : VCtx :=
  e.lanes f (fun i => op (e.a f i)) (fun g => e.ea f g + k)

/-- VCMP: 1 where the comparison holds, 0 where it fails or an operand is void. -/
def cmpVal (k : Nat) (a b : Num) : Num :=
  let ok := !a.isVoid && !b.isVoid
  let h := if k = 0 then Num.eqv a b else if k = 1 then !(Num.eqv a b) else if k = 2 then Num.lt a b else !(Num.lt a b)
  if ok && h then .fin 1 0 else Num.zero

/-- VSEL: every element below vl (R248). -/
def laneSel (e : VEnv) (f : VecF) : VCtx :=
  let on := fun i => ((e.x.reg f.msk.toNat).lane i).active
  e.x.setReg f.vd.toNat ((e.x.reg f.vd.toNat).putLanes e.x.vl (fun _ => true)
    (fun i => if on i then (e.x.reg f.va.toNat).lane i else (e.x.reg f.vb.toNat).lane i)
    (fun g => Min.min ((e.x.reg f.va.toNat).exp g) ((e.x.reg f.vb.toNat).exp g)))

/-- VDRP (R251): does dropout drop element i? -/
def dropped (s : State) (e : VEnv) (f : VecF) (i : Nat) : Bool :=
  match e.reg f with
  | none => false
  | some r =>
    let idx := ((r.lbase : Int) + e.off f + 64 * vimm f + i).toNat
    decide (drxY0 (dritex (stepKey s e.o.step) (drxCtr idx (e.o.step.getD 0) 2 (vopTag e.o))) < vopDthr e.o.desc)

/-- VPRM (R255): index that element i names, when it is in range. -/
def permIdx (e : VEnv) (f : VecF) (i : Nat) : Option Nat :=
  match Num.trunc ((e.x.reg f.vb.toNat).lane i) with
  | some j => if 0 ≤ j ∧ j < e.x.vl then some j.toNat else none
  | none => none

/-- Smallest exponent of the groups below vl of va, for values moved across groups. -/
def minExp (q : VReg) (vl : Nat) : Int :=
  (List.range (cdiv vl 64)).foldl (fun a g => Min.min a (q.exp g)) (q.exp 0)

/-- VPRM: the context, and whether an active element named an index out of range. -/
def vecPermute (e : VEnv) (f : VecF) : VCtx × Bool :=
  let q := e.x.reg f.va.toNat
  (e.lanes f (fun i => match permIdx e f i with | some j => q.lane j | none => Num.zero) (fun _ => minExp q e.x.vl),
   (List.range e.x.vl).any (fun i => e.x.active f i && (permIdx e f i).isNone))

/-! ### Tiles -/

/-- Write a whole tile, row by row. -/
def tileOf (val : Nat → Nat → Num) (e0 : Nat → Int) : VReg :=
  (List.range 64).foldl (fun (q : VReg) r => q.putGroup r (e0 r) ((List.range 64).map (fun c => val r c))) VReg.zero

/-- TTR. -/
def tileTranspose (e : VEnv) (f : VecF) : VCtx :=
  let q := e.x.tile f.va.toNat
  e.x.setTile f.vd.toNat (tileOf (fun r c => q.lane (64 * c + r)) (fun _ => minExp q 4096))

/-- TOP. -/
def tileBin (e : VEnv) (f : VecF) : VCtx :=
  let q := e.x.tile f.va.toNat
  let k := f.fn.toNat % 8
  let src := f.fn.toNat / 16
  let tb := e.x.tile f.vb.toNat
  let vb := e.x.reg f.vb.toNat
  let b := fun r c => if src = 0 then tb.lane (64 * r + c) else if src = 1 then vb.lane r else vb.lane c
  let eb := fun r => if src = 0 then tb.exp r else vb.exp 0
  let op := fun (a b : Num) => if k = 0 then Num.add a b else if k = 1 then Num.sub a b else if k = 2 then Num.mul a b
    else if k = 3 then Num.max a b else Num.min a b
  e.x.setTile f.vd.toNat (tileOf (fun r c => op (q.lane (64 * r + c)) (b r c)) (fun r => if k = 2 then q.exp r + eb r else Min.min (q.exp r) (eb r)))

/-- TGV: row or column IMM of a tile to elements 0 to 63. -/
def tileGet (e : VEnv) (f : VecF) : VCtx :=
  let q := e.x.tile f.va.toNat
  let k := (vimm f).toNat % 64
  let col := decide (f.fn = 1)
  let vals := (List.range 64).map (fun i => if col then q.lane (64 * i + k) else q.lane (64 * k + i))
  e.x.setReg f.vd.toNat ((e.x.reg f.vd.toNat).putGroup 0 (if col then minExp q 4096 else q.exp k) vals)

/-- TPV: elements 0 to 63 of va to row or column IMM of a tile. -/
def tilePut (e : VEnv) (f : VecF) : VCtx :=
  let q := e.x.tile f.vd.toNat
  let a := e.x.reg f.va.toNat
  let k := (vimm f).toNat % 64
  if f.fn = 1 then
    e.x.setTile f.vd.toNat ((List.range 64).foldl (fun (q : VReg) r =>
      q.putGroup r (Min.min (q.exp r) (a.exp 0)) ((List.range 64).map (fun c => if c = k then a.lane r else q.lane (64 * r + c)))) q)
  else e.x.setTile f.vd.toNat (q.putGroup k (a.exp 0) ((List.range 64).map a.lane))

/-! ### The wide path (R256-R258) -/

/-- Active elements below vl. -/
def VEnv.actives (e : VEnv) (f : VecF) : List Nat := (List.range e.x.vl).filter (e.x.active f)

/-- A wide element-wise instruction. -/
def wideMap (e : VEnv) (f : VecF) (val : Nat → WideRes) : VCtx × WideNote :=
  let rs := (e.actives f).map (fun i => (i, val i))
  (e.x.putWide f.vd.toNat (rs.map (fun r => (r.1, r.2.w))),
   { sat := rs.any (fun r => r.2.sat), unf := rs.countP (fun r => r.2.unf) })

/-- PCV: hi of the pair is the wide number in the form that the wide path writes (R83), lo zero; what the writing of hi notes (R84). -/
def pairFrom (e : VEnv) (f : VecF) : VCtx × WideNote :=
  let r := wideMap e f (fun i => toWide (e.x.wide f.va.toNat i))
  (r.1.putWide (f.vd.toNat + 2) ((e.actives f).map (fun i => (i, 0))), r.2)

/-- WOP. -/
def wideOp (k : Nat) (a b : Num) : Num :=
  if k = 0 then Num.add a b else if k = 1 then Num.sub a b else if k = 2 then Num.mul a b else if k = 3 then Num.max a b
  else if k = 4 then Num.min a b else if k = 5 then Num.abs a else Num.neg a

/-- Is the value an integer, and is that integer odd? -/
def intParity (v : Num) : Option Bool :=
  match v with
  | .fin m e => if exactOn m e 0 then some (decide ((onGrid m e 0) % 2 = 1)) else none
  | .void => none

/-- The same magnitude below zero. -/
def WideRes.negated (r : WideRes) : WideRes := if r.unf then r else { toWide (Num.neg (ofWide r.w)) with sat := r.sat }

/-- A wide function (Table 9-8, Table 4-9): the result, and whether a domain error made a void. -/
def wideFn (k : Nat) (a y : Num) : WideRes × Bool :=
  match a with
  | .void => (WideRes.void, false)
  | .fin m e =>
    if k = 0 then
      if m = 0 then (WideRes.void, true) else (let X := rcpLg m e - 46; (WideRes.of (decide (m < 0)) (rcpMag m e X) X, false))
    else if k = 1 then
      if m < 0 then (WideRes.void, true) else if m = 0 then (WideRes.of false 0 0, false)
      else (let X := sqrtLg m e - 46; (WideRes.of false (sqrtMag m e X) X, false))
    else if k = 2 then
      if m ≤ 0 then (WideRes.void, true) else (let X := rsqLg m e - 46; (WideRes.of false (rsqMag m e X) X, false))
    else if k = 3 then (exp2Res m e, false)
    else if k = 4 ∨ k = 6 then
      if m < 0 then (WideRes.void, true) else if m = 0 then (WideRes.top true, false) else (logRes k m e, false)
    else if k = 5 then (expRes m e, false)
    else
      match y with
      | .void => (WideRes.void, false)
      | .fin m2 e2 =>
        if m = 0 then
          (if m2 = 0 then toWide (.fin 1 0) else if 0 < m2 then WideRes.of false 0 0 else WideRes.top false, false)
        else if m < 0 ∧ intParity y = none then (WideRes.void, true)
        else (let r := powMag m e m2 e2; if decide (m < 0) && intParity y == some true then r.negated else r, false)

/-- WFN: the context, what the wide path notes, whether a domain error made a void. -/
def wideFunc (e : VEnv) (f : VecF) : VCtx × WideNote × Bool :=
  let res := fun i => wideFn f.fn.toNat (e.x.wide f.va.toNat i) (e.x.wide f.vb.toNat i)
  let r := wideMap e f (fun i => (res i).1)
  (r.1, r.2, (e.actives f).any (fun i => (res i).2))

/-- Put a pair at an element. -/
def VCtx.putPair (x : VCtx) (d : Nat) (l : List (Nat × Num)) : VCtx :=
  (x.putWide d (l.map (fun e => (e.1, (toPair e.2).1)))).putWide (d + 2) (l.map (fun e => (e.1, (toPair e.2).2.1)))

/-- A pair element-wise instruction. -/
def pairMap (e : VEnv) (f : VecF) (val : Nat → Num) : VCtx × WideNote :=
  let l := (e.actives f).map (fun i => (i, val i))
  (e.x.putPair f.vd.toNat l, pairNote (l.map Prod.snd))

/-- One pair addition (R85): value and what it notes. -/
def pairAdd (a b : Num × WideNote) : Num × WideNote :=
  let p := toPair (Num.add a.1 b.1)
  (ofPair p.1 p.2.1, { sat := a.2.sat || b.2.sat || p.2.2.1, unf := a.2.unf + b.2.unf + (if p.2.2.2 then 1 else 0) })

/-- WSUM's order (R257): within each group by index, then the groups. -/
def pairSum (l : List (Nat × Num)) : Num × WideNote :=
  let z : Num × WideNote := (Num.zero, { sat := false, unf := 0 })
  (List.range 16).foldl (fun acc g =>
    pairAdd acc ((l.filter (fun e => e.1 / 64 = g)).foldl (fun (a : Num × WideNote) e => pairAdd a (e.2, { sat := false, unf := 0 })) z)) z

/-- WSUM: the context, what it notes, whether it was empty. -/
def wideSum (e : VEnv) (f : VecF) : VCtx × WideNote × Bool :=
  let l := (e.actives f).map (fun i => (i, if f.fn = 0 then e.x.wide f.va.toNat i else e.x.pair f.va.toNat i))
  let r := pairSum l
  let d := f.vd.toNat
  let x := (List.range 4).foldl (fun (x : VCtx) k => x.setReg (d + k) { (x.reg (d + k)) with m := [] }) e.x
  (x.putPair d [(0, r.1)], r.2, l.isEmpty)

/-- WNR: the 31-bit rule alone sets X (R256). -/
def wideNarrow (e : VEnv) (f : VecF) : VCtx :=
  let val := fun i => if f.fn = 0 then e.x.wide f.va.toNat i else e.x.pair f.va.toNat i
  let low := fun g => (List.range 64).any (fun k => decide (64 * g + k < e.x.vl) && e.x.active f (64 * g + k) && (val (64 * g + k)).active)
  e.lanes f val (fun g => if low g then -100000 else 0)

/-! ### Control -/

/-- COUNT that SUMC sets (R259). -/
def sumCount (v : Num) : Nat := match Num.trunc v with | some k => (Max.max 0 (Min.min (2 ^ 32 - 1) k)).toNat | none => 0

end Sys2Proof.Machine
end

