-- ==== Sys2Proof/Machine/Sched.lean ====
section
/-!
DEFINITION. The scheduler's own rows: DISPATCH (R32-R34, R177, R178, R184, R241, R433, R446), COMPLETION (R165, R166, R401), the second look
at a full queue (R319), and the end of a quarantine (R160).
-/

namespace Sys2Proof.Machine

/-! ### What an operation waits for -/

/-- Does an operation work in the array: an MMA, or a gather that projects? -/
def Op.arrayOp (o : Op) : Bool := (o.opc = 0x30 || (o.opc = 0x23 && gthProj o.desc)) && !o.isSub

/-- Does an operation occupy a context of the vector engine (R241)? -/
def Op.vectorOp (o : Op) : Bool := decide (o.opc ∈ [0x11, 0x12, 0x24, 0x40, 0x41, 0x42, 0x50]) && !o.isSub

/-- Does the array run in half or pair mode: ARRCFG.HALF, or a half retired (R222, R412)? -/
def arrayHalf (s : State) : Bool := flag s.units.arrcfg 0 || decide (fld s.mgmt.fltstat 21 20 ≠ 0)

/-- Inner length and channels of an array operation. -/
def Op.arrayKN (o : Op) : Nat × Nat :=
  if o.opc = 0x30 then ((parseMma o.desc).k, (parseMma o.desc).n)
  else ((parseGth o.desc).roww, (o.gthMma (parseGth o.desc)).n)

/-- Domains of the array that a mode needs (R222, R412, R433). -/
def modeDomains (s : State) (mode : Nat) : List Domain :=
  if mode ≤ 1 then [.arra, .arrb] else if flag s.mgmt.fltstat 20 then [.arrb] else [.arra]

/-- Is the operation a remote part, of a sampling or a gather, that the Antlers of this device run (R273, R276)? -/
def Op.isPart (o : Op) : Bool := decide (o.opc = 0) && (match o.src with | .remote _ _ _ => true | _ => false)

/-- Hoofs whose Tines an operation needs: those of its region, or of the shard that a remote part works on. -/
def Op.tineHoofs (s : State) (o : Op) : List HoofId :=
  let on := fun (r : Region) => (hoofIds s).filter (fun h => bitAt r.hset h.val && !(lostStack s h.val))
  if o.opc = 0x20 ∨ o.opc = 0x22 ∨ o.opc = 0x23 then (match o.img o.region with | some r => on r | none => [])
  else if o.isPart then (match o.imgs with | e :: _ => on e.2 | [] => [])
  else []

/-- Mode of an array operation: the one that its dispatch chose, or the one that it would take now (R222). -/
def Op.modeNow (s : State) (o : Op) : Nat := if o.phase = .running then o.mode else arrayMode (arrayHalf s) o.arrayKN.1 o.arrayKN.2

/-- Power domains that an operation needs (R433). -/
def opDomains (s : State) (o : Op) : List Domain :=
  (if o.arrayOp then modeDomains s (o.modeNow s) else [])
    ++ (if o.vectorOp then [.vec] else []) ++ (o.tineHoofs s).map Domain.htine

/-- Domains are in use now (R430). -/
def noteUse (s : State) (ds : List Domain) : State :=
  { s with mgmt := { s.mgmt with usedAt := ds.foldl (fun l d => aput l d s.now) s.mgmt.usedAt } }

/-- Does an operation touch the DRAM window (R442)? -/
def Op.touchesDram (o : Op) : Bool := o.ranges.any (fun r => !r.remote && inDram r.lo) || o.imgs.any (fun e => e.2.dram)

/-- Does an earlier operation of its stream still wait in the scheduler (R33)? -/
def streamBehind (s : State) (o : Op) : Bool :=
  (busySlots s).any (fun e => e.2.stream = o.stream && decide (e.2.seq < o.seq) && decide (e.2.phase = .issued ∨ e.2.phase = .waiting)
    && (match e.2.src with | .plan => false | .sub _ => false | .again => false | _ => true))

/-- May an accumulate of another device be decided now: a step is open here, and it is stale (R39) or its Hoofs' filters have room for it or hold its
key (R284)? -/
def accumulateReady (s : State) (o : Op) : Bool :=
  match o.src, remoteAcc s o with
  | .remote src ticket _, some (k, pl) =>
    (match oldestStep s with | some x => x.opened | none => false)
      && (!(stepFresh s k.step.toNat) || filterRoom s (o.reg s) (parseAcc (pl.take 64)) src ticket)
  | _, _ => true

/-- UPDs that an Antler holds. -/
def antlerLoad (s : State) (n : Nat) : Nat :=
  (busySlots s).countP (fun e => decide (e.2.opc = 0x20) && decide (e.2.phase = .running)
    && (match updCtx e.2 with | some c => decide (n ∈ updAntlers s c) | none => false))

/-- Has R180 released a UPD, and has every Antler of its range room for it (R184, R187)? -/
def updReady (s : State) (o : Op) : Bool :=
  o.opc ≠ 0x20 || (o.rel && (match updCtx o with | some c => (updAntlers s c).all (fun n => decide (antlerLoad s n < 16)) | none => true))

/-- Is the array free (R34)? -/
def arrayFree (s : State) : Bool := (busySlots s).all (fun e => !(e.2.arrayOp && decide (e.2.phase = .running)))

/-- Is the operation alone: every other operation has completed (R446)? -/
def alone (s : State) (t : Nat) : Bool := (busySlots s).all (fun e => decide (e.1 = t) || (match e.2.phase with | .waiting | .running | .ended => false | _ => !e.2.landing))

/-- May the operation in slot t be dispatched now? FENC never is: it waits in the scheduler, so that later operations of its stream wait behind it
(R177). A part of another device that names a step open here waits for that step's opening, whose key it draws under (R130). -/
def dispatchable (s : State) (t : Nat) (o : Op) : Bool :=
  decide (o.phase = .waiting) && s.live && decide (o.src ≠ .plan) && decide (o.opc ≠ 0x03)
  && (!(streamBehind s o) && (!o.fb || streamClear s o) && !(rangeBlocked s o) && (stepReady s o || (remoteAcc s o).isSome)
  && accumulateReady s o && updReady s o && (!o.arrayOp || arrayFree s) && (!o.vectorOp || (freeCtxNo s).isSome)
  && (opDomains s o).all (powered s) && (!o.touchesDram || s.dramUp) && !(awaitsMove s o)
  && ((o.opc ≠ 0x60 && o.opc ≠ 0x61) || (match o.src with | .remote _ _ _ => true | _ => alone s t)))

/-- What an operation finds at dispatch in tables and lists that earlier operations may have written: a status that ends it, with its
DETAIL (notes/assumptions/44). -/
def startFinds (s : State) (o : Op) : Option (Nat × Nat) :=
  match o.opc with
  | 0x20 => if groupTableBad s o then some (0x18, 0) else none
  | 0x23 => if gthTableBad s o then some (0x18, 0) else none
  | 0x24 => sctFinds s o
  | 0x30 => if mmaTableBad s o then some (0x18, 0) else none
  | _ => none

/-- Ranges of an operation from its dispatch on (R162). -/
def startRanges (s : State) (o : Op) : List Range := if o.opc = 0x24 then recordRanges (sctList s o :: o.ranges) else o.ranges

/-- Dispatch to the target: the array takes a mode, the vector engine a context, the Antlers an UPD's place in their order and its decay tables
(R184, R187, R212, R222, R241). -/
def dispatchOp (s : State) (t : Nat) (o : Op) : State :=
  match o.src with
  | .remote _ _ _ => serveRemote s t o
  | _ =>
    match startFinds s o with
    | some f => if f.1 = 0x18 then endIllegal s t else endOp s t f.1 f.2
    | none =>
    let o1 := { o with phase := .running, ranges := startRanges s o, prog := if o.arrayOp then [arrayMode (arrayHalf s) o.arrayKN.1 o.arrayKN.2 + 1] else o.prog,
                       tabs := if o.opc = 0x20 then decayWords s o else [], dispAt := s.car.seq }
    let s1 := { s.setOp t o1 with car := { s.car with seq := s.car.seq + 1 } }
    if o.vectorOp then
      match freeCtxNo s with
      | some x => { s1 with ctxs := s1.ctxs ++ [(x, VCtx.fresh t (if o.opc = 0x40 then vopVl0 o.desc else 0))] }
      | none => s1
    else s1

/-- DISPATCH (R32-R34). -/
def execDispatch (t : SlotId) (s : State) : Host.Outcome State Fault Refusal :=
  commit s (match s.op t.toNat with
    | some o => if dispatchable s t.toNat o then dispatchOp s t.toNat o else s
    | none => s)

/-! ### Completion -/

/-- Does the operation still wait for parity writes that it caused (R401)? -/
def parityHeld (s : State) (t : Nat) : Bool := s.deltas.any (fun e => e.slot = t) || s.fulls.any (fun e => e.slot = t)

/-- Does the copy of a stream's next record find no place on its way to the requester (R300, R320)? -/
def pushHeld (s : State) (n : Nat) : Bool :=
  match s.strm n with | some q => q.push && decide (q.kind = 1) && !(sendRoom s q.owner 1) | none => false

/-- Do records of a gather still wait for the requester's receive credits (R321), or has the copy of the operation's record no place to wait? -/
def deliveryHeld (s : State) (t : Nat) (o : Op) : Bool :=
  (o.opc = 0x23 && s.host.rxwait.any (fun m => m.ticket.toNat = ticketOf s t)) || (o.reportsHere && o.crec && pushHeld s o.stream)

/-- The completion of an operation's work on steps: a step whose close is done ends with its STCL (R179, R180). -/
def endStep (s : State) (t : Nat) (o : Op) : State :=
  if o.opc ≠ 0x02 then s
  else match s.steps.find? (fun x => decide (x.stcl = some t) && decide (x.round = .closed)) with
    | some x => { s with steps := s.steps.filter (fun y => y.num ≠ x.num), car := { s.car with lastClosed := some x.num } }
    | none => s

/-- COMPLETION of the operation in slot t: its status settles and it reports to whoever issued it (R165, R166, R408); a core that waits on its ticket
learns of it, whoever issued it (R164). -/
def completeOp (s : State) (t : Nat) : State :=
  match s.op t with
  | none => s
  | some o =>
    if o.phase ≠ .ended ∨ s.failstop ∨ parityHeld s t ∨ deliveryHeld s t o then s
    else
      let o := { o with degraded := o.degraded || touchesPatched s o || onMasking s o, doneAt := s.now }
      let s := endStep { noteUse (s.setOp t o) (opDomains s o) with quiesce := if s.quiesce = some t then none else s.quiesce } t o
      match o.src with
      | .sub p => freeSlot (strmDone (subReport (wakeWaiters s t o) p o) o.stream) t o.retried
      | .remote _ _ _ => completeRemote (wakeWaiters s t o) t o
      | .plan => freeSlot (wakeWaiters s t o) t o.retried
      | .again => freeSlot (strmDone (keepPass (wakeWaiters s t o) o) o.stream) t o.retried
      | _ => completeHere (keepPass s o) t o

/-- COMPLETION. -/
def execCompletion (t : SlotId) (s : State) : Host.Outcome State Fault Refusal := commit s (completeOp s t.toNat)

/-- Write the oldest held record of a stream whose queue has room (R319). A spilled stream is refilled first (R313). -/
def releaseRecord (s : State) (n : Nat) : State :=
  match s.strm n with
  | none => s
  | some q =>
    match q.heldRecs with
    | [] => s
    | t :: rest =>
      if cqFull s q ∨ s.failstop ∨ !q.resident ∨ pushHeld s n then s
      else
        let s1 := s.setStrm n { q with heldRecs := rest }
        match s.op t with
        | some o => releaseSlot (writeRecord s1 n { q with heldRecs := rest } (recordBytes s1 t o)) t o
        | none => s1

/-- CQ_HEAD_RECHECK (R319): HEAD is read again; records are written in order while there is room. -/
def execCqHeadRecheck (st : StreamId) (s : State) : Host.Outcome State Fault Refusal :=
  commit s (times (fun s => releaseRecord s st.toNat) (match s.strm st.toNat with | some q => q.heldRecs.length | none => 0) s)

/-- QUARANTINE_END (R160): 1.024 ms after the completion the slot is free. -/
def execQuarantineEnd (t : SlotId) (s : State) : Host.Outcome State Fault Refusal :=
  commit s (match (s.slot t.toNat).st with
    | .quarantine at_ =>
      if s.failstop then s
      else
        let s1 := s.atLeast (at_ + 102400)
        { s1.setSlot t.toNat { s1.slot t.toNat with st := .free } with freeq := s1.freeq ++ [t.toNat] }
    | _ => s)

end Sys2Proof.Machine
end

