-- ==== Sys2Proof/Machine/Fabric.lean ====
section
/-!
DEFINITION. The fabric's other rows: ring, barrier and control packets (R350, R370, R374-R376, R382), forwarding and discards (R359-R361, R363,
R366), links and their modules (R364, R419, R456).
-/

namespace Sys2Proof.Machine

/-! ### Ring and barrier -/

/-- RING (R350). -/
def execRing (p : FabPort) (k : Packet) (s : State) : Host.Outcome State Fault Refusal :=
  commit s (arrive s p 0x0C k (fun s k => ringTake s p.toNat k))

/-- A barrier payload without reserved values (Table 13-6): its length, ROUND, WISH, its reserved bytes (R363). -/
def barPayloadOk (b : List Byte) : Bool :=
  decide (b.length = 576) && decide (fieldAt b 8 1 ≤ 1) && decide (fieldAt b 9 1 < 16) && decide (fieldAt b 18 2 = 0) && decide (fieldAt b 24 40 = 0)
  && (if fieldAt b 8 1 = 0 then decide (fieldAt b 9 1 % 8 = 0) else decide (fieldAt b 9 1 < 8))

/-- A BAR packet for this device (R382). -/
def barTake (s : State) (k : Packet) : State := if barPayloadOk k.payload then barArrive s k else bumpFab0 s 63 48

/-- BAR (R382). -/
def execBar (p : FabPort) (k : Packet) (s : State) : Host.Outcome State Fault Refusal := commit s (arrive s p 0x10 k barTake)

/-! ### Presence (R374-R376) -/

/-- Note a beacon of device d (Table 13-9). -/
def noteBeacon (s : State) (d : Nat) : State := { s with fab := { s.fab with lastB := aput s.fab.lastB d s.now } }

/-- Does a packet reach this device whole, whoever sent it? -/
def reaches (s : State) (p : Nat) (k : Packet) : Bool :=
  s.live && portUp s p && !(heldBack s p k) && decide (k.ecrc.toNat = ecrcOf k) && !(packetMalformed k) && decide (k.dst.toNat = s.dev)

/-- A beacon arrives: one of an absent partner is discarded too, but heard (Table 13-5). -/
def beacIn (s : State) (p : FabPort) (k : Packet) : State :=
  let k := { k with kind := 0x11 }
  let s1 := arrive s p 0x11 k (fun s _ => s)
  if reaches s p.toNat k then noteBeacon s1 k.src.toNat else s1

/-- BEAC (R374). -/
def execBeac (p : FabPort) (k : Packet) (s : State) : Host.Outcome State Fault Refusal := commit s (beacIn s p k)

/-- EXCL (R375, R376): this device excluded goes fail-stop; a present partner's word declares the device that it names absent. -/
def exclArrive (s : State) (k : Packet) : State :=
  let d := fieldAt k.payload 0 2 % 4096
  if d = s.dev then failStop s .central 0xFF 0xFFFF k.src.toNat
  else if isPartner s k.src.toNat ∧ isPartner s d then declareAbsent s d
  else s

/-- An EXCL for this device: its payload is 64 bytes, of which all but [11:0] is reserved (Table 13-3, R363). -/
def exclTake (s : State) (k : Packet) : State :=
  if k.payload.length = 64 ∧ fieldAt k.payload 0 64 < 4096 then exclArrive s k else bumpFab0 s 63 48

/-- EXCL. -/
def execExcl (p : FabPort) (k : Packet) (s : State) : Host.Outcome State Fault Refusal := commit s (arrive s p 0x13 k exclTake)

/-- Step of a beacon: the newest open step (Table 13-3). -/
def beaconStep (s : State) : W32 := match newestStep s with | some x => BitVec.ofNat 32 x.num | none => 0xFFFFFFFF

/-- A beacon to each partner, 100 us or more after the last (R374). -/
def sendBeacons (s : State) : State :=
  let s1 := s.atLeast (s.fab.beaconAt + 10000)
  sendAll { s1 with fab := { s1.fab with beaconAt := s1.now } } ((partners s).map (fun d => { bare 0x11 s.dev d 0 with step := beaconStep s }))

/-- BEACON_SEND (R374): a beacon to each partner while the fabric is enabled. -/
def execBeaconSend (s : State) : Host.Outcome State Fault Refusal :=
  commit s (if s.live ∧ flag s.sched.fabcfg 8 then sendBeacons s else s)

/-- BEACON_SILENCE (R375): 350 us without a beacon of a partner. -/
def execBeaconSilence (d : DevId) (s : State) : Host.Outcome State Fault Refusal :=
  commit s (if s.live ∧ flag s.sched.fabcfg 8 ∧ isPartner s d.toNat ∧ ¬ isAbsent s d.toNat then
      declareAbsent (s.atLeast ((aget s.fab.lastB d.toNat).getD 0 + 35000)) d.toNat
    else s)

/-! ### Bleats (R370) -/

/-- Resend a request part as its originator, or a copy as the owner that forwarded it. -/
def bleatRequest (s : State) (kind part ticket src : Nat) : State :=
  let mine := fun (e : Orig) => e.ticket = ticket && (match e.fwdOf with | none => decide (src = s.dev) | some f => decide (f = (src, ticket)))
  match s.fab.orig.find? mine with
  | none => s
  | some e =>
    match e.packets.find? (fun q => q.kind.toNat = kind && q.part.toNat = part) with
    | some q => noteSent (sendPacket (s.onOp e.slot (fun o => { o with retried := true })) { q with retry := true }) e.dst src ticket
    | none => s

/-- A reply of a key as the target reads its data again (R370). -/
def rereadReply (s : State) (hk : HKey) : List Packet :=
  match hk.parts with
  | [] => hk.reply
  | k :: _ =>
    let rg : Regs := match hk.slot.bind s.op with | some o => o.reg s | none => s.region
    let step := if k.step = 0xFFFFFFFF then none else some k.step.toNat
    if 0x10 ≤ hk.status then hk.reply
    else if k.kind = 0x01 then replyPackets hk hk.status (rdLocal s k.addr.toNat (sumNat (hk.reply.map (fun q => q.payload.length))))
    else if k.kind = 0x04 then replyPackets hk hk.status (servePart s rg (hk.slot.getD 0) step hk.payload).2.2.2
    else hk.reply

/-- Resend a reply part as the target: it reads the data again. -/
def bleatReply (s : State) (part ticket src : Nat) : State :=
  match keyOf s src ticket with
  | some hk =>
    if hk.st = .replied then
      match (rereadReply s hk).find? (fun q => q.part.toNat = part) with
      | some q => sendPacket s { q with retry := true }
      | none => s
    else s
  | none => s

/-- Ring packets of an armed step with a given header. -/
def Armed.sentAs (a : Armed) (hdr : List Byte) : Option Packet := (a.buckets.flatMap (fun b => b.sentPk)).find? (fun q => q.payload.take 32 = hdr)

/-- Resend a ring packet as the predecessor; the retry served a part of the step's reduction (R353). -/
def bleatRingPk (s : State) (hdr : List Byte) : State :=
  match s.armed.findSome? (fun a => (a.sentAs hdr).map (fun q => (a.step, q))) with
  | some (n, q) => sendPacket (s.onArmed n (fun a => { a with retried := true })) { q with retry := true }
  | none => s

/-- BLEAT: the packet named goes again; one that is not held is ignored. -/
def bleatArrive (s : State) (k : Packet) : State :=
  let b := k.payload
  let kind := fieldAt b 0 1
  let part := fieldAt b 2 2
  let ticket := fieldAt b 4 2
  let src := fieldAt b 6 2 % 4096
  if 1 ≤ kind ∧ kind ≤ 5 then bleatRequest s kind part ticket src
  else if kind = 9 then bleatReply s part ticket src
  else if kind = 12 then bleatRingPk s ((b.drop 32).take 32)
  else s

/-- A BLEAT for this device: 64 bytes whose reserved fields are zero (Table 13-13, R363). -/
def bleatTake (s : State) (k : Packet) : State :=
  let b := k.payload
  if b.length = 64 ∧ fieldAt b 1 1 = 0 ∧ fieldAt b 6 2 < 4096 ∧ fieldAt b 8 24 = 0 then bleatArrive s k else bumpFab0 s 63 48

/-- BLEAT. -/
def execBleat (p : FabPort) (k : Packet) (s : State) : Host.Outcome State Fault Refusal := commit s (arrive s p 0x12 k bleatTake)

/-! ### Forwarding and discards -/

/-- PACKET_FORWARD (R359-R361): a packet for another device passes on. -/
def execPacketForward (p : FabPort) (k : Packet) (s : State) : Host.Outcome State Fault Refusal :=
  commit s (arrive s p k.kind k (fun s _ => s))

/-- MALFORMED_PACKET (R363). -/
def execMalformedPacket (p : FabPort) (s : State) : Host.Outcome State Fault Refusal :=
  commit s (if s.live ∧ portUp s p.toNat then bumpFab0 s 63 48 else s)

/-- RESIDENCY_DISCARD (R366): a forwarded packet that has rested here for more than 64 us since it landed is discarded. -/
def execResidencyDiscard (i : Nat) (s : State) : Host.Outcome State Fault Refusal :=
  commit s (match s.fab.egress[i]? with
    | some e =>
      if e.from_.isSome ∧ s.live ∧ s.mgmt.refclk then
        let s1 := s.atLeast (e.at_ + 6401)
        bumpFab0 { s1 with fab := { s1.fab with egress := s1.fab.egress.eraseIdx i } } 15 0
      else s
    | none => s)

/-! ### Links (R364, R419, R456) -/

/-- Drop the last n entries that satisfy a test. -/
def dropLast {α : Type} (p : α → Bool) (n : Nat) (l : List α) : List α :=
  (l.foldr (fun x (acc : List α × Nat) => if p x ∧ 0 < acc.2 then (acc.1, acc.2 - 1) else (x :: acc.1, acc.2)) ([], n)).1

/-- A fabric link goes down: LSTAT; the last `lost` packets that the port took are lost in its buffers, and what the far end held back goes
elsewhere. -/
def linkDown (s : State) (p lost : Nat) : State :=
  let f := s.fport p
  if flag f.lstat 0 then
    let s1 := s.setFport p { f with lstat := lstatDown f.lstat, downAt := s.now, held := [] }
    let waiting := s1.fab.egress.countP (fun e => decide (e.port = p))
    { s1 with fab := { s1.fab with egress := dropLast (fun e => decide (e.port = p)) lost s1.fab.egress,
                                   wire := dropLast (fun e => decide (e.1 = p)) (lost - waiting) s1.fab.wire } }
  else s

/-- FABRIC_LINK_DOWN (R364). -/
def execFabricLinkDown (p : FabPort) (lost : Nat) (s : State) : Host.Outcome State Fault Refusal := commit s (linkDown s p.toNat lost)

/-- LINK_REPLAY (R364): replays of one flit fail before one succeeds; the eighth failure takes the link down, and at least that flit's packet is lost
with it. -/
def execLinkReplay (p : FabPort) (r : Replays) (s : State) : Host.Outcome State Fault Refusal :=
  commit s (
    let f := s.fport p.toNat
    if ¬ s.live ∨ ¬ portUp s p.toNat then s
    else
      let s1 := s.setFport p.toNat { f with lstat := bump f.lstat 31 16 (Nat.min (r.fails + 1) 8) }
      if 8 ≤ r.fails then linkDown s1 p.toNat (Nat.max 1 r.lost) else transient s1 .central 0x01 p.toNat r.fails)

/-- Power domain of a fabric port. -/
def fabDomain (p : Nat) : Domain := if p < 8 then .fabp0 else .fabp1

/-- FABRIC_LINK_UP (R364): the ends exchange device numbers; a torus link with the wrong far end stays down and its port is retired (Table 15-2). -/
def execFabricLinkUp (p : FabPort) (far : DevId) (s : State) : Host.Outcome State Fault Refusal :=
  commit s (
    let n := p.toNat
    let f := s.fport n
    if ¬ s.live ∨ ¬ flag s.sched.fabcfg 8 ∨ flag s.mgmt.fltstat (40 + n) ∨ ¬ powered s (fabDomain n) ∨ flag f.lstat 0 ∨ f.mods = 0 then s
    else
      let w := setFld f.lstat 15 4 far.toNat
      if n < 12 ∧ far.toNat ≠ neighbour s.dev (n / 2) then
        portFault (addLog (s.setFport n { f with lstat := setFlag w 1 true }) 6 0x0202 n far.toNat) n
      else s.setFport n { f with lstat := setFlag w 0 true })

/-- FABRIC_PORT_RETIRE (Table 15-2, code 0x06): a fabric link that has been down for more than 1 ms. -/
def execFabricPortRetire (p : FabPort) (s : State) : Host.Outcome State Fault Refusal :=
  commit s (
    let f := s.fport p.toNat
    if s.live ∧ flag s.sched.fabcfg 8 ∧ powered s (fabDomain p.toNat) ∧ ¬ flag f.lstat 0 ∧ f.downAt ≠ 0 then
      portFault (s.atLeast (f.downAt + 100001)) p.toNat
    else s)

/-- A module of a host port is down (Table 15-2, code 0x07). -/
def hostModuleDown (s : State) (p : Nat) : State :=
  let h := s.hport p
  if h.mods = 0 then s
  else
    let s1 := s.setHport p { h with mods := h.mods - 1 }
    if h.mods - 1 < 4 then hostPortLost s1 p else maskFault s1 .central 0x07 p (h.mods - 1) (fun s => s)

/-- A module of a Hoof link is down (Table 15-2, code 0x05). -/
def hoofModuleDown (s : State) (h : Nat) : State :=
  let k := s.hoof h
  let n := fld k.hlstat 3 1
  if n = 0 then s
  else
    let s1 := s.setHoof h { k with hlstat := setFld k.hlstat 3 1 (n - 1) }
    if n - 1 < 3 then stackFault s1 h else maskFault s1 .central 0x05 h (n - 1) (fun s => s)

/-- A module of a fabric port is down: the port runs on the other, or its link is down. -/
def fabricModuleDown (s : State) (p lost : Nat) : State :=
  let f := s.fport p
  let s1 := s.setFport p { f with mods := f.mods - 1 }
  if f.mods ≤ 1 then linkDown s1 p lost else s1

/-- A module of a link is down (R456). -/
def linkModuleDown (s : State) (l : Link) (lost : Nat) : State :=
  match l with
  | .host p => hostModuleDown s p.toNat
  | .hoof h => if h.val < s.part.hoofs then hoofModuleDown s h.val else s
  | .fabric p => fabricModuleDown s p.toNat lost

/-- MODULE_DOWN (R456), and with it the other units whose failures Tables 15-1 and 15-2 list and for which the table has no row of their own (DESIGN
CHOICE, notes/assumptions/64). -/
def execModuleDown (l : UnitFault) (s : State) : Host.Outcome State Fault Refusal :=
  commit s (if ¬ s.live then s
    else match l.unit with
    | .module k lost => linkModuleDown s k lost
    | u => unitFault s u l.lasting l.slot.toNat)

/-! ### Packets held back, and packets that wait to leave (R300, R365) -/

/-- A packet that the far end of port p held back is presented again. -/
def presentAgain (p : FabPort) (s : State) (k : Packet) : State :=
  match k.kind.toNat with
  | 0x08 => arrive s p k.kind k pendArrive
  | 0x09 => arrive s p k.kind k rplyArrive
  | 0x0A => arrive s p k.kind k relArrive
  | 0x0C => arrive s p k.kind k (fun s k => ringTake s p.toNat k)
  | 0x10 => arrive s p k.kind k barTake
  | 0x11 => beacIn s p k
  | 0x12 => arrive s p k.kind k bleatTake
  | 0x13 => arrive s p k.kind k exclTake
  | _ => arrive s p k.kind k (landRequest p.toNat)

/-- Every packet held back on port p is presented again, oldest first. -/
def retryPort (s : State) (p : Nat) : State :=
  (s.fport p).held.foldl (presentAgain (BitVec.ofNat 4 p)) (s.setFport p { s.fport p with held := [] })

/-- What the fabric ports do of themselves when nothing else happens: waiting packets leave, and what was held back is presented again. -/
def fabricTurn (s : State) : State := (List.range 16).foldl retryPort (sendWaiting s)

end Sys2Proof.Machine
end

