-- ==== Sys2Proof/Machine/CsrOps.lean ====
section
/-!
DEFINITION. CSR space (R15-R18, R469-R472): what each register reads as, what a read clears, and what a write does, half by half.
-/

namespace Sys2Proof.Machine

/-! ### Offsets of the sub-blocks (Table 17-12) -/

/-- SCHED -/
def bSCHED : Nat := 0x0100000
/-- STORE -/
def bSTORE : Nat := 0x0200000
/-- ARRAY -/
def bARRAY : Nat := 0x0300000
/-- VEC -/
def bVEC : Nat := 0x0400000
/-- HOST -/
def bHOST : Nat := 0x0500000
/-- FAB -/
def bFAB : Nat := 0x0600000
/-- HOOF 0 -/
def bHOOF : Nat := 0x1000000

/-! ### Derived registers -/

/-- Slots in flight, held ones included (Table 6-14). -/
def inflight (s : State) : Nat := s.slots.countP (fun e => match e.2.st with | .busy _ => true | _ => false)
/-- Slots in quarantine. -/
def quarantined (s : State) : Nat := s.slots.countP (fun e => match e.2.st with | .quarantine _ => true | _ => false)

/-- CORECTL n (Table 6-6). -/
def readCorectl (s : State) (c : Nat) : Nat :=
  let k := s.core c
  k.bootpc.toNat * 4 + (if k.running then 2 ^ 32 else 2 ^ 33) + (if k.dfault then 2 ^ 35 else 0)

/-- MGMT_ID (Table 17-14). -/
def mgmtId (s : State) : Nat := 0x7E1D + (match s.part with | .rlu12 => 0x0C | .rlu8 => 0x08) * 2 ^ 16 + s.stepping.toNat * 2 ^ 24

/-- SOCC (Table 11-11). -/
def readSocc (s : State) : Nat := Nat.min (tpuse s) (2 ^ 18 - 1) + Nat.min (Nat.max s.units.tppeak (tpuse s)) (2 ^ 18 - 1) * 2 ^ 32

/-- The operation that holds the array: slot and mode (R34, Table 8-6). -/
def arrayOp (s : State) : Option (Nat × Nat) :=
  ((busySlots s).find? (fun e => decide (e.2.phase = .running)
    && (decide (e.2.opc = 0x30) || (decide (e.2.opc = 0x23) && gthProj e.2.desc)))).map (fun e => (e.1, e.2.prog.headD 1 - 1))

/-- ARRSTAT (Table 8-6). -/
def readArrstat (s : State) : Nat :=
  match arrayOp s with
  | some (t, m) => 1 + m % 4 * 2 + ticketOf s t * 2 ^ 16
  | none => 0

/-- VECSTAT (Table 9-11). The wide path's work of a moment lies inside one command, so WBUSY shows shadow tiles that wait for a verdict. -/
def readVecstat (s : State) : Nat :=
  Nat.min s.ctxs.length 8 + (if heldTiles s = 0 then 0 else 16) + bits s.units.vecstat.toNat 17 16 * 2 ^ 16

/-- DRSTAT (Table 12-9). -/
def readDrstat (s : State) : Nat :=
  let live := s.armed.any (fun a => a.buckets.any (fun b => b.st ≠ .complete))
  let last := s.armed.getLast?
  (if live then 1 else 0) + (if flag s.units.drstat 1 then 2 else 0)
  + (match last with
     | some a => a.base % 64 * 2 ^ 8 + a.buckets.countP (fun b => b.st ≠ .waiting) % 65536 * 2 ^ 16
                 + a.buckets.countP (fun b => b.st = .complete) % 65536 * 2 ^ 32
     | none => 0)

/-- HPSTAT p (Table 17-8). -/
def readHpstat (s : State) (p : Nat) : Nat :=
  let k := s.hport p
  (if k.up then 1 else 0) + k.mods % 16 * 2 + k.retrain % 65536 * 2 ^ 16 + k.refuse % 65536 * 2 ^ 32

/-- HPATCH (Table 15-10). -/
def readHpatch (h : Hoof) : Nat := h.patches.countP (fun q => q.state = 1) + h.patches.countP (fun q => q.state = 2) * 2 ^ 32

/-- FABPRES (Table 13-9). -/
def readFabpres (s : State) : Nat :=
  let d := s.sched.fabsel.toNat
  let last := mget (fun _ => 0) s.fab.lastB d
  let heard := s.fab.lastB.any (fun e => e.1 = d) && decide (s.now < last + 35000)
  d + (if isAbsent s d then 2 ^ 12 else 0) + (if heard then 2 ^ 13 else 0) + last % 2 ^ 48 * 2 ^ 16

/-- RATE as it reads: CLR is write-only. -/
def readRate (r : W64) : Nat := bits r.toNat 48 0

/-! ### Reads -/

/-- MGMT, with the log at 0x1_0000 (R425). -/
def readMgmt (s : State) (o : Nat) : Nat :=
  let m := s.mgmt
  if o = 0 then mgmtId s else if o = 8 then alsrc s
  else if o = 0x100 then m.ltime else if o = 0x108 then readRate m.rate else if o = 0x110 then m.ratelim.toNat
  else if o = 0x200 then m.fltstat.toNat else if o = 0x210 then m.fltcnt.toNat else if o = 0x218 then m.mlogptr.toNat
  else if o = 0x300 then m.pwrctl.toNat else if o = 0x308 then m.pwrstat.toNat else if o = 0x310 then m.therm.toNat
  else if 0x10000 ≤ o ∧ o < 0x20000 then
    match aget m.log ((o - 0x10000) / 32) with
    | some e => fieldAt (logBytes e) ((o - 0x10000) % 32) 8
    | none => 0
  else 0

/-- SCHED. -/
def readSched (s : State) (o : Nat) : Nat :=
  let r := s.sched
  if o = 0x200 then r.scalepol.toNat else if o = 0x210 then r.drxseed.toNat else if o = 0x218 then r.drxkey.toNat
  else if o = 0x220 then r.tkey.toNat else if o = 0x228 then r.tctr0.toNat else if o = 0x230 then r.tctr1.toNat
  else if o = 0x238 then r.tout0.toNat else if o = 0x240 then r.tout1.toNat
  else if 0x300 ≤ o ∧ o < 0x380 then readCorectl s ((o - 0x300) / 8)
  else if o = 0x400 then inflight s + quarantined s * 2 ^ 16 + r.stale.toNat * 2 ^ 32
  else if o = 0x500 then residents s + spilled s * 2 ^ 16 + r.rtrapc.toNat * 2 ^ 52
  else if o = 0x508 then r.strmcnt.toNat else if o = 0x510 then r.strmcmd.toNat
  else if o = 0x600 then r.fabcfg.toNat else if o = 0x608 then r.fabpset.toNat else if o = 0x610 then r.fabmir.toNat
  else if o = 0x620 then readFabpres s else if o = 0x628 then r.fabcnt0.toNat else if o = 0x630 then r.fabcnt1.toNat
  else if 0x800 ≤ o ∧ o < 0xC00 then (if o % 16 = 0 then dspca r ((o - 0x800) / 16) else dspcb r ((o - 0x800) / 16)).toNat
  else if o = 0xC00 then r.fnctl.toNat else if o = 0xC08 then r.fnstat.toNat
  else 0

/-- STORE, ARRAY and VEC. -/
def readUnits (s : State) (off : Nat) : Nat :=
  let u := s.units
  if off = bSTORE then u.slay0.toNat else if off = bSTORE + 8 then u.slay1.toNat else if off = bSTORE + 0x10 then u.slay2.toNat
  else if off = bSTORE + 0x18 then readSocc s else if off = bSTORE + 0x20 then u.shold.toNat
  else if off = bARRAY then u.arrcfg.toNat else if off = bARRAY + 8 then readArrstat s
  else if off = bARRAY + 0x10 then u.arrhs.toNat else if off = bARRAY + 0x18 then u.arrmac.toNat
  else if off = bVEC then readVecstat s else if off = bVEC + 0x100 then u.shdcfg.toNat
  else if off = bVEC + 0x110 then u.shdcnt0.toNat else if off = bVEC + 0x118 then u.shdcnt1.toNat
  else if off = bVEC + 0x200 then u.drctl.toNat else if off = bVEC + 0x208 then readDrstat s
  else if off = bVEC + 0x210 then u.drcnt.toNat
  else 0

/-- HOOF n. -/
def readHoof (s : State) (n o : Nat) : Nat :=
  let h := s.hoof n
  if o = 0x100 then h.ltime else if o = 0x108 then readRate h.rate else if o = 0x110 then h.ratelim.toNat
  else if o = 0x200 then h.grcnt.toNat else if o = 0x300 then h.hmem.toNat else if o = 0x308 then h.hecc.toNat
  else if o = 0x310 then h.href.toNat else if o = 0x318 then h.parcnt.toNat else if o = 0x400 then h.hflt.toNat
  else if o = 0x408 then h.hresv.toNat else if o = 0x410 then readHpatch h else if o = 0x500 then h.hlstat.toNat
  else 0

/-- Is the HOOF n sub-block there: a Hoof of the configuration (R7) whose stack is not lost (R418)? -/
def hoofThere (s : State) (n : Nat) : Bool := decide (n < s.part.hoofs) && !(lostStack s n)

/-- What the register at CSR offset `off` reads as; an address that nothing defines reads zero (R18). -/
def csrRead (s : State) (off : Nat) : Nat :=
  if off < bSCHED then readMgmt s off
  else if off < bSTORE then readSched s (off - bSCHED)
  else if off < bHOST then readUnits s off
  else if off < bFAB then
    let o := off - bHOST
    if o = 0 then s.host.hostcfg.toNat else if 0x100 ≤ o ∧ o < 0x120 then readHpstat s ((o - 0x100) / 8) else 0
  else if off < bFAB + 0x100000 then
    if (off - bFAB) % 0x10000 = 0 then (s.fport ((off - bFAB) / 0x10000)).lstat.toNat else 0
  else if bHOOF ≤ off ∧ off < bHOOF + 12 * 0x100000 then
    let n := (off - bHOOF) / 0x100000
    if hoofThere s n then readHoof s n ((off - bHOOF) % 0x100000) else 0
  else 0

/-! ### What a read clears -/

/-- Clear the fields of a register that lie in the halves read; a field that spans no half boundary. -/
def clearRC (w : W64) (lo hi : Bool) (fs : List (Nat × Nat)) : W64 :=
  fs.foldl (fun w f => if (if f.1 < 32 then lo else if 32 ≤ f.2 then hi else lo && hi) then setFld w f.1 f.2 0 else w) w

/-- The state after a read of the register at `off`, of its low half, its high half, or both (R469). -/
def csrReadFx (s : State) (off : Nat) (lo hi : Bool) : State :=
  let c := fun (w : W64) fs => clearRC w lo hi fs
  if off = 0x210 then { s with mgmt := { s.mgmt with fltcnt := c s.mgmt.fltcnt [(31, 0), (47, 32)] } }
  else if off = bSCHED + 0x238 ∨ off = bSCHED + 0x240 then { s with sched := { s.sched with tbusy := false } }
  else if off = bSCHED + 0x400 then (if hi then { s with sched := { s.sched with stale := 0 } } else s)
  else if off = bSCHED + 0x508 then { s with sched := { s.sched with strmcnt := c s.sched.strmcnt [(31, 0), (47, 32), (63, 48)] } }
  else if off = bSCHED + 0x628 then
    { s with sched := { s.sched with fabcnt0 := c s.sched.fabcnt0 [(15, 0), (31, 16), (47, 32), (63, 48)] } }
  else if off = bSCHED + 0x630 then
    { s with sched := { s.sched with fabcnt1 := c s.sched.fabcnt1 [(15, 0), (31, 16), (47, 32), (63, 48)] } }
  else if off = bSTORE + 0x20 then { s with units := { s.units with shold := c s.units.shold [(31, 0), (63, 32)] } }
  else if off = bARRAY + 0x10 then { s with units := { s.units with arrhs := c s.units.arrhs [(31, 0), (63, 32)] } }
  else if off = bARRAY + 0x18 then { s with units := { s.units with arrmac := c s.units.arrmac [(31, 0), (63, 32)] } }
  else if off = bVEC + 0x110 then { s with units := { s.units with shdcnt0 := c s.units.shdcnt0 [(31, 0), (63, 32)] } }
  else if off = bVEC + 0x118 then { s with units := { s.units with shdcnt1 := c s.units.shdcnt1 [(31, 0), (47, 32), (63, 48)] } }
  else if off = bVEC + 0x210 then
    { s with units := { s.units with drcnt := c s.units.drcnt [(15, 0), (31, 16), (47, 32), (63, 48)] } }
  else if bHOST + 0x100 ≤ off ∧ off < bHOST + 0x120 ∧ off % 8 = 0 then
    let p := (off - bHOST - 0x100) / 8
    let k := s.hport p
    s.setHport p { k with retrain := if lo then 0 else k.retrain, refuse := if hi then 0 else k.refuse }
  else if bFAB ≤ off ∧ off < bFAB + 0x100000 ∧ (off - bFAB) % 0x10000 = 0 then
    let p := (off - bFAB) / 0x10000
    s.setFport p { s.fport p with lstat := c (s.fport p).lstat [(31, 16), (47, 32)] }
  else if bHOOF ≤ off ∧ off < bHOOF + 12 * 0x100000 ∧ hoofThere s ((off - bHOOF) / 0x100000) then
    let n := (off - bHOOF) / 0x100000
    let o := (off - bHOOF) % 0x100000
    let h := s.hoof n
    if o = 0x200 then s.setHoof n { h with grcnt := c h.grcnt [(31, 0), (63, 32)] }
    else if o = 0x308 then s.setHoof n { h with hecc := c h.hecc [(31, 0), (47, 32), (63, 48)] }
    else if o = 0x318 then s.setHoof n { h with parcnt := c h.parcnt [(31, 0), (63, 32)] }
    else if o = 0x500 then s.setHoof n { h with hlstat := c h.hlstat [(31, 16), (47, 32)] }
    else s
  else s

/-! ### Writes -/

/-- An RW field [hi:lo] and the values it admits. -/
structure RW where
  hi : Nat
  lo : Nat
  lowest : Nat
  highest : Nat
deriving DecidableEq, Repr

/-- An RW field that admits every value. -/
def anyRW (hi lo : Nat) : RW := { hi := hi, lo := lo, lowest := 0, highest := 2 ^ (hi + 1 - lo) - 1 }

/-- Does the field allow the value? -/
def RW.ok (f : RW) (v : Nat) : Bool := decide (f.lowest ≤ v) && decide (v ≤ f.highest)

/-- A write of `v` to the halves that `mask` covers, as it would stand with every bit writable. -/
def mergeHalf (old : W64) (mask v : Nat) : W64 := (old &&& ~~~(BitVec.ofNat 64 mask)) ||| (BitVec.ofNat 64 (v &&& mask))

/-- Write the RW fields of a register (R16, R17): a field given a reserved encoding keeps its value; the flag says one was. -/
def writeRW (old raw : W64) (fs : List RW) : W64 × Bool :=
  fs.foldl (fun a f =>
    let v := fld raw f.hi f.lo
    if f.ok v then (setFld a.1 f.hi f.lo v, a.2) else (a.1, true)) (old, false)

/-- Log a reserved encoding written to a register field (R17). -/
def logReserved (s : State) (off : Nat) (bad : Bool) : State := if bad then addLog s 4 1 0xFFFF (csrBase + off) else s

/-- Log a layout, space, reserve or device-number write that was ignored. -/
def logIgnored (s : State) (off : Nat) : State := addLog s 4 2 0xFFFF (csrBase + off)

/-- Is bit i written as 1? -/
def wrote1 (mask v i : Nat) : Bool := bitAt mask i && bitAt v i

/-- W1C of bit i. -/
def w1c (w : W64) (mask v i : Nat) : W64 := if wrote1 mask v i then setFlag w i false else w

/-- A RATE write (Table 2-6). -/
def writeRate (r : W64) (mask v : Nat) : W64 :=
  let r := w1c r mask v 48
  if wrote1 mask v 63 then setFld (setFld r 31 16 (fld r 15 0)) 47 32 (fld r 15 0) else r

/-- RUN = 1 to a halted core (Table 6-6): registers reset, start at BOOTPC. -/
def runCore (s : State) (c : Nat) : State :=
  let k := s.core c
  if k.running then s
  else s.setCore c { Core.reset c with bootpc := k.bootpc, dfault := k.dfault, running := true,
                                       pc := BitVec.ofNat 64 (k.bootpc.toNat * 4) }

/-- The core halts at an instruction boundary. -/
def haltNow (s : State) (c : Nat) : State :=
  flushAsync (s.setCore c { s.core c with running := false, byHalt := false, halting := false, stall := none }) c

/-- RUN = 0 to a running core (Table 6-6): it halts after its current instruction, which may still have to wait; a WAIT whose operation has not
completed is abandoned. -/
def haltCore (s : State) (c : Nat) : State :=
  let k := s.core c
  if ¬ k.running then s
  else match k.stall with
    | none => haltNow s c
    | some (.wait _ _) => haltNow s c
    | some _ => s.setCore c { k with halting := true }

/-- WAKE: a core halted by HALT goes on at the next instruction. -/
def wakeCore (s : State) (c : Nat) : State :=
  let k := s.core c
  if k.byHalt ∧ ¬ k.running then s.setCore c { k with running := true, byHalt := false } else s

/-- A write of CORECTL c. -/
def writeCorectl (s : State) (c mask v : Nat) : State :=
  let raw := mergeHalf (BitVec.ofNat 64 (readCorectl s c)) mask v
  let k := s.core c
  let s := s.setCore c { k with bootpc := BitVec.ofNat 28 (fld raw 29 2), dfault := k.dfault && !(wrote1 mask v 35) }
  let s := if flag raw 32 then runCore s c else haltCore s c
  if wrote1 mask v 34 then wakeCore s c else s

/-- Do two intervals of MiB overlap? -/
def overlap (a n b m : Nat) : Bool := meets a n b m

/-- Is the space valid beside the others of a list (R394)? -/
def spaceOk (s : State) (all : List (Nat × Space)) (k : Nat) (p : Space) : Bool :=
  decide (p.hset ≠ 0) && (hoofList p.hset).all (fun h => h < s.part.hoofs)
  && (!p.par || decide (3 ≤ p.n))
  && decide (p.start + p.extent ≤ dramSize)
  && decide (p.asize * p.dataN * mib % (p.n * p.unit) = 0)
  && (!p.par || decide (p.asize * 4096 % p.n = 0))
  && p.fits s
  && all.all (fun e => e.1 = k || (!(meets p.start p.extent e.2.start e.2.extent)
        && !((hoofList p.hset).any (fun h => bitAt e.2.hset h) && overlap p.pbase p.asize e.2.pbase e.2.asize)))

/-- Does every valid space of the registers satisfy R394? -/
def spacesOk (s : State) (r : Sched) : Bool :=
  let all := (validSpaceIdx r).map (fun k => (k, spaceOfRegs (dspca r k) (dspcb r k)))
  all.all (fun e => spaceOk s all e.1 e.2)

/-- Nothing in flight and no step open. -/
def idle (s : State) : Bool := decide (inflight s = 0) && s.steps.isEmpty

/-- A write of DSPCA k or DSPCB k (R394, R432). -/
def writeSpace (s : State) (k : Nat) (b : Bool) (mask v : Nat) : State :=
  let off := bSCHED + 0x800 + 16 * k + (if b then 8 else 0)
  if ¬ idle s then logIgnored s off
  else
    let old := if b then dspcb s.sched k else dspca s.sched k
    let raw := mergeHalf old mask v
    let fs := if b then [anyRW 20 0, anyRW 47 32, anyRW 63 48]
              else [anyRW 0 0, anyRW 1 1, { hi := 5, lo := 2, lowest := 0, highest := 12 }, anyRW 19 8, anyRW 35 20]
    let w := writeRW old raw fs
    let r := if b then { s.sched with dspcb := mput (fun _ => 0) s.sched.dspcb k w.1 }
             else { s.sched with dspca := mput (fun _ => dspcaReset) s.sched.dspca k w.1 }
    let p := spaceOfRegs (dspca r k) (dspcb r k)
    let gated := flag (dspca r k) 0 && (hoofList p.hset).any (fun h => flag s.mgmt.pwrctl (16 + h))
    if spacesOk s r ∧ ¬ gated then logReserved { s with sched := r } off w.2 else logIgnored s off

/-- The five areas that registers place, as byte intervals (Table 11-1). -/
def layoutAreas (u : Units) : List (Nat × Nat) :=
  [(rdTable u, 262144), (velTable u, 262144), bucketArea u, transitPool u, spillArea u]

/-- The areas stay within the store and do not overlap (R297). -/
def layoutOk (u : Units) : Bool :=
  let l := (layoutAreas u).zipIdx
  l.all (fun a => decide (a.1.1 + a.1.2 ≤ storeSize)
    && l.all (fun b => decide (b.2 ≤ a.2) || !(meets a.1.1 a.1.2 b.1.1 b.1.2)))

/-- A write of SLAY i (R297). -/
def writeSlay (s : State) (i mask v : Nat) : State :=
  let off := bSTORE + 8 * i
  let old := if i = 0 then s.units.slay0 else if i = 1 then s.units.slay1 else s.units.slay2
  let fs : List RW :=
    if i = 0 then [anyRW 13 0, anyRW 29 16, anyRW 41 32, { hi := 54, lo := 48, lowest := 1, highest := 64 }]
    else if i = 1 then [anyRW 9 0, { hi := 25, lo := 16, lowest := 64, highest := 512 }, anyRW 33 32]
    else [anyRW 9 0, { hi := 22, lo := 16, lowest := 1, highest := 64 }, { hi := 30, lo := 24, lowest := 1, highest := 64 }]
  let w := writeRW old (mergeHalf old mask v) fs
  let u := if i = 0 then { s.units with slay0 := w.1 } else if i = 1 then { s.units with slay1 := w.1 } else { s.units with slay2 := w.1 }
  if idle s ∧ spilled s = 0 ∧ layoutOk u then logReserved { s with units := u } off w.2 else logIgnored s off

/-- A write of HRESV of Hoof n (R428). -/
def writeHresv (s : State) (n mask v : Nat) : State :=
  let off := bHOOF + n * 0x100000 + 0x408
  let h := s.hoof n
  let w := writeRW h.hresv (mergeHalf h.hresv mask v) [anyRW 15 0, anyRW 31 16]
  let base := fld w.1 15 0
  let size := fld w.1 31 16
  let fits := decide (base + size ≤ antlerMib s n) && (validSpaces s).all (fun p => !(bitAt p.hset n && overlap base size p.pbase p.asize))
  if idle s ∧ readHpatch h = 0 ∧ fits then s.setHoof n { h with hresv := w.1 } else logIgnored s off

/-- A write of FABCFG (Table 13-7): links go down when EN falls, and policies follow. -/
def writeFabcfg (s : State) (mask v : Nat) : State :=
  let off := bSCHED + 0x600
  let old := s.sched.fabcfg
  let raw := mergeHalf old mask v
  let w := writeRW old raw [{ hi := 3, lo := 0, lowest := 1, highest := 15 }, anyRW 8 8]
  let lock := flag old 8
  let w1 := if lock then w.1 else setFld w.1 27 16 (fld raw 27 16)
  let s := logReserved { s with sched := { s.sched with fabcfg := w1 } } off w.2
  let s := if lock ∧ fld raw 27 16 ≠ fld old 27 16 then logIgnored s off else s
  let s := if flag w1 8 then s else linksDown (linksDown s .fabp0) .fabp1
  applyPolicies s

/-- A write of PWRCTL (R432). -/
def writePwrctl (s : State) (mask v : Nat) : State :=
  let off := 0x300
  let old := s.mgmt.pwrctl
  let raw := mergeHalf old mask v
  let p3 := fun hi lo => ({ hi := hi, lo := lo, lowest := 0, highest := 2 } : RW)
  let p2 := fun hi lo => ({ hi := hi, lo := lo, lowest := 1, highest := 2 } : RW)
  let w := writeRW old raw [p3 1 0, p3 3 2, p3 5 4, p2 7 6, p2 9 8, p2 11 10, p3 13 12, anyRW 39 32]
  let named := (List.range 12).filter (fun h => (validSpaces s).any (fun q => bitAt q.hset h))
  let refused := (List.range 12).filter (fun h => flag raw (16 + h) && !(flag old (16 + h)) && decide (h ∈ named))
  let w1 := (List.range 12).foldl (fun w h => if h ∈ refused then w else setFlag w (16 + h) (flag raw (16 + h))) w.1
  let s := logReserved { s with mgmt := { s.mgmt with pwrctl := w1 } } off w.2
  let s := if refused.isEmpty then s else logIgnored s off
  applyPolicies s

/-- A write of FNCTL: a command for each field whose value changes (Table 16-11). -/
def writeFnctl (s : State) (mask v : Nat) : State :=
  let old := s.sched.fnctl
  let raw := mergeHalf old mask v
  let fs : List RW := (List.range 8).map (fun f => { hi := 2 * f + 1, lo := 2 * f, lowest := 0, highest := 2 })
  let w := writeRW old raw fs
  let s := logReserved { s with sched := { s.sched with fnctl := w.1 } } (bSCHED + 0xC00) w.2
  let s := (List.range 8).foldl (fun s f =>
    if fld w.1 (2 * f + 1) (2 * f) ≠ fld old (2 * f + 1) (2 * f) then fnCommand s f (fld w.1 (2 * f + 1) (2 * f)) else s) s
  applyPolicies s

/-- A write of STRMCMD (Table 11-15). -/
def writeStrmcmd (s : State) (mask v : Nat) : State :=
  let off := bSCHED + 0x510
  let old := s.sched.strmcmd
  if flag old 63 then addLog s 4 6 0xFFFF (csrBase + off)
  else
    let w := writeRW old (mergeHalf old mask v) [anyRW 19 0, { hi := 21, lo := 20, lowest := 0, highest := 2 }, anyRW 47 24]
    runStrmcmd (logReserved { s with sched := { s.sched with strmcmd := w.1 } } off w.2)

/-- Writes of MGMT. -/
def writeMgmt (s : State) (o mask v : Nat) : State :=
  let m := s.mgmt
  if o = 0x108 then { s with mgmt := { m with rate := writeRate m.rate mask v } }
  else if o = 0x110 then { s with mgmt := { m with ratelim := (writeRW m.ratelim (mergeHalf m.ratelim mask v) [anyRW 15 0, anyRW 16 16]).1 } }
  else if o = 0x200 then { s with mgmt := { m with fltstat := w1c m.fltstat mask v 60 } }
  else if o = 0x218 then
    { s with mgmt := { m with mlogptr := w1c (writeRW m.mlogptr (mergeHalf m.mlogptr mask v) [anyRW 26 16]).1 mask v 32 } }
  else if o = 0x300 then writePwrctl s mask v
  else if o = 0x310 then
    thermAlarm { s with mgmt := { m with therm := w1c (writeRW m.therm (mergeHalf m.therm mask v) [anyRW 23 16, anyRW 25 25]).1 mask v 24 } }
  else s

/-- FABADMIT (R378): the device is no longer regarded as absent; own barrier contributions go again with the present set's new digest (R382). -/
def readmit (s : State) (d : Nat) : State := resendContribs { s with fab := { s.fab with absent := s.fab.absent.filter (fun x => x ≠ d) } }

/-- Writes of SCHED. -/
def writeSched (s : State) (o mask v : Nat) : State :=
  let r := s.sched
  if o = 0x200 then
    let w := writeRW r.scalepol (mergeHalf r.scalepol mask v) [anyRW 15 0, anyRW 32 32, anyRW 47 40, { hi := 51, lo := 48, lowest := 1, highest := 15 }]
    logReserved { s with sched := { r with scalepol := w.1 } } (bSCHED + o) w.2
  else if o = 0x210 then { s with sched := { r with drxseed := mergeHalf r.drxseed mask v } }
  else if o = 0x220 then { s with sched := { r with tkey := mergeHalf r.tkey mask v } }
  else if o = 0x228 then { s with sched := { r with tctr0 := mergeHalf r.tctr0 mask v } }
  else if o = 0x230 then
    let s1 := drxTest { s with sched := { r with tctr1 := mergeHalf r.tctr1 mask v } }
    { s1 with sched := { s1.sched with tbusy := true } }
  else if 0x300 ≤ o ∧ o < 0x380 then writeCorectl s ((o - 0x300) / 8) mask v
  else if o = 0x500 then
    { s with sched := { r with rtrapc := if bitAt mask 52 then BitVec.ofNat 4 (bits v 55 52) else r.rtrapc } }
  else if o = 0x510 then writeStrmcmd s mask v
  else if o = 0x600 then writeFabcfg s mask v
  else if o = 0x608 then { s with sched := { r with fabpset := (writeRW r.fabpset (mergeHalf r.fabpset mask v) [anyRW 23 0]).1 } }
  else if o = 0x610 then { s with sched := { r with fabmir := (writeRW r.fabmir (mergeHalf r.fabmir mask v) [anyRW 23 0]).1 } }
  else if o = 0x618 then (if bitAt mask 0 then readmit s (bits v 11 0) else s)
  else if o = 0x620 then { s with sched := { r with fabsel := if bitAt mask 0 then BitVec.ofNat 12 (bits v 11 0) else r.fabsel } }
  else if 0x800 ≤ o ∧ o < 0xC00 then writeSpace s ((o - 0x800) / 16) (o % 16 = 8) mask v
  else if o = 0xC00 then writeFnctl s mask v
  else s

/-- Writes of STORE, ARRAY and VEC. -/
def writeUnits (s : State) (off mask v : Nat) : State :=
  let u := s.units
  if off = bSTORE then writeSlay s 0 mask v else if off = bSTORE + 8 then writeSlay s 1 mask v
  else if off = bSTORE + 0x10 then writeSlay s 2 mask v
  else if off = bSTORE + 0x18 then (if wrote1 mask v 63 then { s with units := { u with tppeak := tpuse s } } else s)
  else if off = bARRAY then
    applyPolicies { s with units := { u with arrcfg := (writeRW u.arrcfg (mergeHalf u.arrcfg mask v) [anyRW 0 0]).1 } }
  else if off = bVEC then { s with units := { u with vecstat := w1c (w1c u.vecstat mask v 16) mask v 17 } }
  else if off = bVEC + 0x100 then
    let w := writeRW u.shdcfg (mergeHalf u.shdcfg mask v) [{ hi := 4, lo := 0, lowest := 4, highest := 16 }, anyRW 5 5, anyRW 6 6]
    applyPolicies (logReserved { s with units := { u with shdcfg := w.1 } } off w.2)
  else if off = bVEC + 0x200 then
    { s with units := { u with drctl := (writeRW u.drctl (mergeHalf u.drctl mask v) [anyRW 23 0, anyRW 24 24]).1 } }
  else if off = bVEC + 0x208 then { s with units := { u with drstat := w1c u.drstat mask v 1 } }
  else s

/-- Writes of HOOF n. -/
def writeHoof (s : State) (n o mask v : Nat) : State :=
  let h := s.hoof n
  if o = 0x108 then s.setHoof n { h with rate := writeRate h.rate mask v }
  else if o = 0x110 then s.setHoof n { h with ratelim := (writeRW h.ratelim (mergeHalf h.ratelim mask v) [anyRW 15 0, anyRW 16 16]).1 }
  else if o = 0x310 then s.setHoof n { h with href := (writeRW h.href (mergeHalf h.href mask v) [anyRW 0 0, anyRW 15 8]).1 }
  else if o = 0x408 then writeHresv s n mask v
  else s

/-- A write of `v` to the halves that `mask` covers of the register at CSR offset `off` (R16-R18, R469). -/
def csrWrite (s : State) (off mask v : Nat) : State :=
  if off < bSCHED then writeMgmt s off mask v
  else if off < bSTORE then writeSched s (off - bSCHED) mask v
  else if off < bHOST then writeUnits s off mask v
  else if off < bFAB then
    (if off = bHOST then { s with host := { s.host with hostcfg := (writeRW s.host.hostcfg (mergeHalf s.host.hostcfg mask v) [anyRW 3 0]).1 } }
     else s)
  else if off < bFAB + 0x100000 then
    (if (off - bFAB) % 0x10000 = 0 then
      let p := (off - bFAB) / 0x10000
      s.setFport p { s.fport p with lstat := w1c (s.fport p).lstat mask v 1 }
     else s)
  else if bHOOF ≤ off ∧ off < bHOOF + 12 * 0x100000 then
    let n := (off - bHOOF) / 0x100000
    if hoofThere s n then writeHoof s n ((off - bHOOF) % 0x100000) mask v else s
  else s

/-- Every bit. -/
def fullMask : Nat := 2 ^ 64 - 1
/-- The mask of a 4-byte access at an offset: its half. -/
def halfMask (off : Nat) : Nat := if off % 8 = 4 then 0xFFFFFFFF00000000 else 0xFFFFFFFF

/-- Which CSR offsets an agent of the block reaches now: MGMT whenever AON_C is up, the rest in service (R423, R465, Table 17-2). -/
def csrReach (s : State) (off : Nat) : Bool :=
  if off < bSCHED then decide (s.phase ≠ .coldReset) else s.live

/-- An 8-byte write from any agent. -/
def csrWrite8 (s : State) (off v : Nat) : State := if csrReach s off then csrWrite s off fullMask v else s

/-- An 8-byte read from any agent: the state after it. -/
def csrRead8 (s : State) (off : Nat) : State := if csrReach s off then csrReadFx s off true true else s

end Sys2Proof.Machine
end

