-- ==== Sys2Proof/Machine/CamkaOps.lean ====
section
/-!
DEFINITION. What the scalar instructions share (R146-R154): registers, the fetch check, the end of an instruction, precise traps,
operands, loads and stores, and the issue of an engine word (R155-R161, R475).
-/

namespace Sys2Proof.Machine

/-- Scalar register i: s0 reads zero (Table 6-1). -/
def Core.getS (k : Core) (i : Nat) : W64 := if i = 0 then 0 else mget (fun _ => 0) k.s i
/-- Write scalar register i: a write to s0 is discarded. -/
def Core.setS (k : Core) (i : Nat) (v : W64) : Core := if i = 0 then k else { k with s := mput (fun _ => 0) k.s i v }
/-- Predicate i: p0 reads 1. -/
def Core.getP (k : Core) (i : Nat) : Bool := if i = 0 then true else mget (fun _ => false) k.p i
/-- Write predicate i: a write to p0 is discarded. -/
def Core.setP (k : Core) (i : Nat) (b : Bool) : Core := if i = 0 then k else { k with p := mput (fun _ => false) k.p i b }

/-- Store offset may be fetched: inside the store, outside the transit pool and the spill area (R151). -/
def fetchOk (s : State) (pc : W64) (n : Nat) : Bool := storeOk s.units pc.toNat n

/-- Is the stream of core c at a point where it begins an instruction: running, not stalled, no asynchronous trap waiting at this boundary (R146, R171)? -/
def coreFree (s : State) (c : Nat) : Bool :=
  let k := s.core c
  s.live && k.running && k.stall.isNone && (k.inTrap || (k.async.isEmpty && decide (k.jumps = 0)))

/-- Does one core run the streams of core c and of core c xor 1 (R411)? -/
def paired (s : State) (c : Nat) : Bool := flag s.mgmt.fltstat (24 + c) || flag s.mgmt.fltstat (24 + (c ^^^ 1))

/-- Is the next instruction of a pair that of core c's stream? A pair begins with the stream of its even core (DESIGN CHOICE, notes/assumptions/67). -/
def pairTurn (s : State) (c : Nat) : Bool := decide (c / 2 ∈ s.mgmt.oddTurn) == decide (c % 2 = 1)

/-- May core c begin an instruction? In pair service each stream takes one instruction in turn; one that waits is passed over (R411). -/
def coreReady (s : State) (c : Nat) : Bool := coreFree s c && (!(paired s c) || !(coreFree s (c ^^^ 1)) || pairTurn s c)

/-- What an instruction of core c leaves, with the turn of its pair passed on (R411). -/
def turned (s : State) (c : Nat) (r : State) : State :=
  if paired s c then { r with mgmt := { r.mgmt with oddTurn := if c % 2 = 1 then r.mgmt.oddTurn.filter (fun p => p ≠ c / 2) else addNew r.mgmt.oddTurn (c / 2) } }
  else r

/-- Trap cause codes (Table 6-13). -/
def causeILLEGAL : Nat := 1
/-- ADDR -/
def causeADDR : Nat := 4
/-- ALIGN -/
def causeALIGN : Nat := 5
/-- BREAK -/
def causeBREAK : Nat := 6
/-- HOLD_LIMIT -/
def causeHOLD : Nat := 7

/-- A scalar instruction traps with ILLEGAL. -/
def trapIllegal (s : State) (c maj func : Nat) : State := preciseTrap s c (preciseRec s c causeILLEGAL 0 maj func 0 0x18)
/-- A scalar instruction traps with ADDR. Where the fetch itself raised it no parcel was read, and the spec gives the record no OPC, VAR or FLAGS.ENG:
it holds the MAJ of the command, 0 and 0 (DESIGN CHOICE, notes/assumptions/56). -/
def trapAddr (s : State) (c maj : Nat) : State := preciseTrap s c (preciseRec s c causeADDR 0 maj 0 0 0x16)
/-- A scalar instruction traps with ALIGN. -/
def trapAlign (s : State) (c maj : Nat) : State := preciseTrap s c (preciseRec s c causeALIGN 0 maj 0 0 0)

/-- Run a scalar instruction of `n` bytes at the PC of core c: nothing when the core begins none, the ADDR trap when it may not be
fetched, the ILLEGAL trap when a field is reserved, else its effect. -/
def scalar (s : State) (c n maj func : Nat) (ok : Bool) (f : Core → State) : State :=
  if ¬ coreReady s c then s
  else turned s c (if ¬ fetchOk s (s.core c).pc n then trapAddr s c maj else if ¬ ok then trapIllegal s c maj func else f (s.core c))

/-- A core with the PC behind an instruction of n bytes. -/
def Core.adv (k : Core) (n : Nat) : Core := { k with pc := k.pc + BitVec.ofNat 64 n }

/-- A 4-byte instruction that writes `v` to register rd. -/
def writesS (s : State) (c maj func : Nat) (ok : Bool) (rd : Nat) (v : Core → W64) : State :=
  scalar s c 4 maj func ok (fun k => s.setCore c ((k.setS rd (v k)).adv 4))

/-- A 4-byte instruction that writes `v` to predicate p. -/
def writesP (s : State) (c maj func : Nat) (ok : Bool) (p : Nat) (v : Core → Bool) : State :=
  scalar s c 4 maj func ok (fun k => s.setCore c ((k.setP p (v k)).adv 4))

/-- Sign-extended 16-bit immediate. -/
def simm16 (imm : BitVec 16) : W64 := imm.signExtend 64
/-- Zero-extended 16-bit immediate. -/
def zimm16 (imm : BitVec 16) : W64 := imm.setWidth 64

/-- FUNC of OP (Table 6-4). -/
def aluOp (func : Nat) (a b : W64) : W64 :=
  match func with
  | 0 => a + b
  | 1 => a - b
  | 2 => a &&& b
  | 3 => a ||| b
  | 4 => a ^^^ b
  | 5 => a <<< (b.toNat % 64)
  | 6 => a >>> (b.toNat % 64)
  | 7 => a.sshiftRight (b.toNat % 64)
  | 8 => a * b
  | 9 => BitVec.ofNat 64 (a.toNat * b.toNat / 2 ^ 64)
  | 10 => BitVec.ofInt 64 (Int.fdiv (a.toInt * b.toInt) (2 ^ 64))
  | 11 => if a.toInt ≤ b.toInt then a else b
  | 12 => if a.toInt ≤ b.toInt then b else a
  | 13 => if a.toNat ≤ b.toNat then a else b
  | 14 => if a.toNat ≤ b.toNat then b else a
  | _ => BitVec.ofNat 64 (64 - bitLen a.toNat)

/-- Comparison kinds of CMP and CMPI (Table 6-3). -/
def cmpOp (kind : Nat) (a b : W64) : Bool :=
  match kind with
  | 0 => decide (a = b)
  | 1 => decide (a ≠ b)
  | 2 => decide (a.toInt < b.toInt)
  | 3 => decide (b.toInt ≤ a.toInt)
  | 4 => decide (a.toNat < b.toNat)
  | _ => decide (b.toNat ≤ a.toNat)

/-- Shift kinds of SHI. -/
def shiOp (kind amount : Nat) (a : W64) : W64 :=
  match kind with
  | 0 => a <<< amount
  | 1 => a >>> amount
  | _ => a.sshiftRight amount

/-- FUNC of PLOG. -/
def plogOp (func : Nat) (a b : Bool) : Bool :=
  match func with
  | 0 => a && b
  | 1 => a || b
  | 2 => a ^^ b
  | _ => a && !b

/-! ### Loads and stores (R151, R152, R469) -/

/-- Do scalar accesses reach the n bytes at a local address? -/
def scalarReach (s : State) (a n : Nat) : Bool :=
  inCsr a || (inStore a && storeOk s.units (a - storeBase) n)

/-- Does a 4-byte access at an aligned CSR address touch the high half? -/
def hiHalf (a : Nat) : Bool := decide (a % 8 = 4)

/-- Value of an n-byte load (8 or 4) at an aligned reachable address. -/
def loadVal (s : State) (a n : Nat) : Nat :=
  if inCsr a then
    let v := csrRead s ((a - csrBase) / 8 * 8)
    if n = 8 then v else if hiHalf a then v / 2 ^ 32 % 2 ^ 32 else v % 2 ^ 32
  else leNat (s.stBytes (a - storeBase) n)

/-- What a load clears (RC fields). -/
def loadFx (s : State) (a n : Nat) : State :=
  if inCsr a then csrReadFx s ((a - csrBase) / 8 * 8) (decide (n = 8) || !(hiHalf a)) (decide (n = 8) || hiHalf a) else s

/-- An n-byte store of v. -/
def storeVal (s : State) (a n v : Nat) : State :=
  if inCsr a then
    let off := (a - csrBase) / 8 * 8
    if n = 8 then csrWrite s off fullMask v
    else csrWrite s off (halfMask a) (if hiHalf a then v % 2 ^ 32 * 2 ^ 32 else v % 2 ^ 32)
  else s.stWrite (a - storeBase) (leBytes n v)

/-- Local address rs1 + imm of a scalar access. -/
def scalarAddr (k : Core) (rs1 : BitVec 5) (imm : BitVec 16) : Nat := (k.getS rs1.toNat + simm16 imm).toNat

/-- A load of n bytes into rd. -/
def loadInstr (s : State) (c maj n : Nat) (rd rs1 : BitVec 5) (imm : BitVec 16) : State :=
  scalar s c 4 maj 0 true (fun k =>
    let a := scalarAddr k rs1 imm
    if ¬ scalarReach s a n then trapAddr s c maj
    else if a % n ≠ 0 then trapAlign s c maj
    else loadFx (s.setCore c ((k.setS rd.toNat (BitVec.ofNat 64 (loadVal s a n))).adv 4)) a n)

/-- A store of n bytes from rd. -/
def storeInstr (s : State) (c maj n : Nat) (rd rs1 : BitVec 5) (imm : BitVec 16) : State :=
  scalar s c 4 maj 0 true (fun k =>
    let a := scalarAddr k rs1 imm
    if ¬ scalarReach s a n then trapAddr s c maj
    else if a % n ≠ 0 then trapAlign s c maj
    else storeVal (s.setCore c (k.adv 4)) a n (k.getS rd.toNat).toNat)

/-! ### Special registers (Table 6-5) -/

/-- TSTAT. -/
def tstat (k : Core) : Nat := (if k.inTrap then 1 else 0) + (if k.overrun then 2 else 0) + (if tqFull k then 4 else 0)

/-- What MFS reads; none outside the table. -/
def readSpecial (s : State) (c : Nat) (i : Nat) : Option W64 :=
  let k := s.core c
  match i with
  | 0 => some k.pc
  | 1 => some k.epc
  | 2 => some k.tvec
  | 3 => some k.tqbase
  | 4 => some (k.tqhead.setWidth 64)
  | 5 => some (k.tqtail.setWidth 64)
  | 6 => some (k.stream.setWidth 64)
  | 7 => some (BitVec.ofNat 64 c)
  | 8 => some (BitVec.ofNat 64 (tstat k))
  | 9 => some (k.tqlost.setWidth 64)
  | 10 => some (stepn s)
  | 11 => some (BitVec.ofNat 64 (heldBy s c))
  | _ => none

/-- What a read of special register i clears: TQLOST and with it OVERRUN. -/
def readSpecialFx (k : Core) (i : Nat) : Core := if i = 9 then { k with tqlost := 0, overrun := false } else k

/-- What MTS writes; none for a read-only register or outside the table. -/
def writeSpecial (k : Core) (i : Nat) (v : W64) : Option Core :=
  match i with
  | 1 => some { k with epc := v &&& ~~~3#64 }
  | 2 => some { k with tvec := v &&& ~~~3#64 }
  | 3 => some { k with tqbase := v &&& ~~~511#64 }
  | 4 => some { k with tqhead := v.setWidth 5 }
  | 6 => some { k with stream := v.setWidth 20 }
  | _ => none

/-! ### Waiting for operations (R164, R176) -/

/-- What WAIT, SUMM and TSTS find under a ticket. -/
inductive TicketView where
  /-- no slot in flight or held for this core -/
  | gone
  /-- still in flight -/
  | flying
  /-- complete and kept: its slot and operation -/
  | done (t : Nat) (o : Op)

/-- Look a ticket up for core c. -/
def viewTicket (s : State) (c ticket : Nat) : TicketView :=
  match slotOfTicket s ticket with
  | none => .gone
  | some t =>
    match s.op t with
    | none => .gone
    | some o =>
      match o.phase with
      | .held => (match o.src with | .core k _ => if k = c then .done t o else .gone | _ => .gone)
      | .recHeld => (match o.src with | .core k _ => if k = c ∧ o.hold then .done t o else .gone | _ => .gone)
      | _ => .flying

/-- WAIT takes a completed operation's slot: a held slot goes free; one that only waits for its record stays until that is written. -/
def waitFrees (s : State) (t : Nat) (o : Op) : State :=
  if o.phase = .held then leaveSlot s t o else s.setOp t { o with hold := false }

/-- Is the operation of a ticket still in flight? -/
def ticketFlying (s : State) (ticket : Nat) : Bool :=
  match slotOfTicket s ticket with
  | none => false
  | some t => match s.op t with | some o => o.inFlight | none => false

/-- Operations that a FENCE of kind 0, 1 or 2 waits for (R176). -/
def fenceSet (s : State) (c kind lo len : Nat) : List Nat :=
  let k := s.core c
  ((busySlots s).filter (fun e => e.2.inFlight &&
    (if kind = 1 then (opBytes s e.2).any (fun r => meets r.lo r.len lo len)
     else (match e.2.src with
       | .core d _ => decide (d = c) && (decide (kind = 2) || decide (e.2.stream = k.stream.toNat))
       | _ => false)))).map (fun e => ticketOf s e.1)

/-- Must a FENCE still await the ranges of operations that hold a slot? The scheduler records them as it accepts a word (R158, R162), so a
fence of a range executes only once the operation's own row has recorded them (notes/assumptions/9). -/
def fenceAwaits (s : State) (kind len : Nat) : Bool :=
  decide (kind = 1) && decide (len ≠ 0) && (busySlots s).any (fun e => decide (e.2.phase = .issued) && !e.2.landing)

/-! ### Issue of an engine word (R155-R161, R475) -/

/-- Devices towards which the operation of a word will send, as far as its descriptor names them: an own mirrored region's goes to its mirror (R372). -/
def wordDests (s : State) (w : EWord) : List Nat :=
  let d := descAt s w.doff 64
  if w.opc = 0x13 ∨ w.opc = 0x14 ∨ w.opc = 0x60 ∨ w.opc = 0x61 then [fieldAt d 6 2 / 16]
  else if w.opc = 0x15 then [bits (fieldAt d 0 2) 11 0] else []

/-- Give the operation of a word a slot, if one is free (R158, R161). -/
def issueWord (s : State) (src : Source) (w : EWord) (stream opA opB : Nat) : Option (State × Nat) :=
  allocOp s (Op.fresh src w opA opB stream s.car.seq) (wordDests s w)

/-- The word goes nowhere: refused at issue with a precise trap (R171, R475). -/
def refuseWord (s : State) (c cause : Nat) (w : EWord) : State :=
  preciseTrap s c (preciseRec s c cause 9 w.opc w.var w.region (if cause = causeILLEGAL then 0x18 else 0))

/-- May core c's stream carry a word: open, not closing, KIND 0 (R475)? -/
def streamUsable (s : State) (n : Nat) : Bool :=
  match s.strm n with
  | some q => !q.closing && decide (q.kind = 0)
  | none => false

/-- Issue the word, or wait at it for a slot, for a spilled stream or for a context operation (R161, R313, R446). -/
def tryIssue (s : State) (c : Nat) (bitsw : BitVec 128) (w : EWord) : State :=
  let k := s.core c
  let n := k.stream.toNat
  let away : Bool := match s.strm n with | some q => !q.resident | none => false
  if s.quiesce.isSome ∨ away = true then s.setCore c { k with stall := some (.word bitsw) }
  else match issueWord s (.core c k.pc.toNat) w n (k.getS w.sA).toNat (k.getS w.sB).toNat with
  | none => s.setCore c { k with stall := some (.word bitsw) }
  | some (s1, t) => s1.setCore c ({ ((s1.core c).setS w.sD (BitVec.ofNat 64 (ticketOf s1 t))) with stall := none }.adv 16)

/-- Is a parcel (for LI, the first of two) a scalar instruction with no reserved encoding (R149, R150, R153, Tables 6-2 and 6-3)? -/
def parcelOk (w : Nat) : Bool :=
  let rd := bits w 10 6
  let rs1 := bits w 15 11
  let rs2 := bits w 20 16
  let func := bits w 26 21
  let top := bits w 31 27
  let imm := bits w 31 16
  match bits w 5 0 with
  | 0x01 => decide (top = 0) && decide (func ≤ 15) && (decide (func ≠ 15) || decide (rs2 = 0))
  | 0x06 => decide (imm < 192)
  | 0x08 => decide (top = 0) && decide (func ≤ 5) && decide (rd < 8)
  | 0x0A => decide (top = 0) && decide (func ≤ 3) && decide (rd < 8) && decide (rs1 < 8) && decide (rs2 < 8)
  | 0x20 => decide (imm = 0)
  | 0x21 => decide (imm = 0)
  | 0x22 => decide (imm < 64) && decide (rd < 8)
  | 0x23 => decide (imm < 3) && (decide (imm = 1) || (decide (rd = 0) && decide (rs1 = 0)))
  | 0x24 => decide (rs1 = 0) && decide (imm ≤ 11)
  | 0x25 => decide (rd = 0) && decide (imm ∈ [1, 2, 3, 4, 6])
  | 0x26 => decide (w % 2 ^ 32 / 64 = 0)
  | 0x27 => decide (w % 2 ^ 32 / 64 = 0)
  | 0x28 => decide (top = 0) && decide (func = 0) && decide (rd % 2 = 0) && decide (rd ≠ 0)
  | 0x29 => decide (w % 2 ^ 32 / 64 = 0)
  | m => decide (m ∈ [0x02, 0x03, 0x04, 0x05, 0x07, 0x09, 0x10, 0x11, 0x12, 0x13, 0x18, 0x19, 0x1A])

/-- FUNC of a parcel in the R form, which the trap record carries; zero for the other forms (R172, Table 6-2). -/
def parcelFunc (w : Nat) : Nat := if bits w 5 0 ∈ [0x01, 0x08, 0x0A, 0x20, 0x21, 0x28] then bits w 26 21 else 0

/-- A core meets four parcels of which the first is no engine word: a reserved encoding takes the trap ILLEGAL (R15, R150); a scalar
instruction is its own row's command, and nothing happens here (notes/assumptions/8). -/
def coreParcel (s : State) (c : Nat) (w : Nat) : State :=
  if parcelOk w then s else scalar s c 4 (bits w 5 0) (parcelFunc w) false (fun _ => s)

/-- A core meets an engine word. -/
def coreWord (s : State) (c : Nat) (bitsw : BitVec 128) : State :=
  let k := s.core c
  let w := parseEWord bitsw.toNat
  if ¬ w.ok then refuseWord s c causeILLEGAL w
  else if ¬ streamUsable s k.stream.toNat then refuseWord s c causeILLEGAL w
  else if w.hold ∧ 256 ≤ heldBy s c then refuseWord s c causeHOLD w
  else tryIssue s c bitsw w

/-! ### Instruction boundaries (R171) -/

/-- Take the oldest pending asynchronous trap of core c at an instruction boundary. -/
def boundaryTrap (s : State) (c : Nat) : State :=
  let k := s.core c
  if ¬ (s.live ∧ k.running ∧ k.stall.isNone ∧ ¬ k.inTrap) then s
  else if 0 < k.jumps then flushAsync (jumpTrap (s.setCore c { k with jumps := k.jumps - 1 }) c k.pc) c
  else match k.async with
  | [] => s
  | r :: rest =>
    let s1 := s.setCore c { k with async := rest }
    if tqFull k then s1.setCore c { k with async := rest, tqlost := BitVec.ofNat 32 (satAdd 32 k.tqlost.toNat 1), overrun := true }
    else flushAsync (jumpTrap (pushTrap s1 c r) c k.pc) c

/-- What a stalled core waits for has come, or not (R161, R164, R176). -/
def stallStep (s : State) (c : Nat) : State :=
  let k := s.core c
  match k.stall with
  | some (.ready rd v) => s.setCore c (({ k with stall := none }.setS rd v).adv 4)
  | some (.readyP p b) => s.setCore c (({ k with stall := none }.setP p b).adv 4)
  | some (.fence ts) => if ts.any (ticketFlying s) then s else s.setCore c ({ k with stall := none }.adv 4)
  | some (.word w) => coreWord (s.setCore c { k with stall := none }) c w
  | _ => s

/-- A stalled core goes on when what it waits for has come; one that is to halt does so behind that instruction (Table 6-6). -/
def stallEnd (s : State) (c : Nat) : State :=
  if ¬ (s.live ∧ (s.core c).running) then s
  else
    let s1 := stallStep s c
    let k := s1.core c
    if k.halting ∧ k.running ∧ k.stall.isNone then haltNow s1 c else s1

end Sys2Proof.Machine
end

