-- ==== Sys2Proof/Machine/HostOps.lean ====
section
/-!
DEFINITION. What the host ports do: which requesters a port serves (R315), words taken from its queue (R315, R316), reads and writes
(R459), credits (R460), and what waits for DRAM, a bucket or a spilled stream.
-/

namespace Sys2Proof.Machine

/-- Port of a requester (R315). -/
def reqPort (r : Nat) : Nat := r / 512

/-- Does a message arrive: the device works and the port's link is up? -/
def hostUp (s : State) (p : Nat) : Bool := s.live && (s.hport p).up

/-- A message discarded or a word refused at a port: counted and logged (R315, R316, R458). -/
def hostRefuse (s : State) (p req stream : Nat) : State :=
  let k := s.hport p
  addLogAt (s.setHport p { k with refuse := satAdd 16 k.refuse 1 }) .central 4 0x0003 p 0 stream req

/-- Is a message one that R458 discards whatever its KIND: LEN above 64, or a payload that is not LEN units? -/
def hostBadLen (m : HostMsg) : Bool := decide (64 < m.len.toNat)

/-- A message of a requester arrives on port p (R315, R458). -/
def hostArrive (s : State) (p : HostPort) (m : HostMsg) (f : State → State) : State :=
  if ¬ hostUp s p.toNat then s
  else if hostBadLen m ∨ reqPort m.req.toNat ≠ p.toNat then hostRefuse s p.toNat m.req.toNat m.stream.toNat
  else f s

/-! ### Engine words -/

/-- Issue credits of a stream. -/
def addIcred (s : State) (n k : Nat) : State :=
  { s with host := { s.host with icred := mput (fun _ => 0) s.host.icred n (mget (fun _ => 0) s.host.icred n + k) } }

/-- The issue acknowledgement of a word: it returns the issue credit (R316). -/
def ackWord (s : State) (m : HostMsg) (status ticket : Nat) : State :=
  let s1 := if (s.strm m.stream.toNat).isSome then addIcred s m.stream.toNat 1 else s
  sendHost s1 (hostMsg 0x81 m.req.toNat m.stream.toNat ticket status m.tag.toNat 0 1 true [])

/-- The engine word of a message. -/
def msgWord (m : HostMsg) : EWord := parseEWord (leNat (m.payload.take 16))

/-- Is a host word free of reserved encodings (R156, R157): its register fields and HOLD zero, its payload one unit? -/
def hostWordOk (m : HostMsg) : Bool :=
  let w := msgWord m
  w.ok && decide (w.sD = 0) && decide (w.sA = 0) && decide (w.sB = 0) && !w.hold && decide (m.len = 1)

/-- Why a host word is refused (R316), 0 when it is not: ILLEGAL, then DISABLED. -/
def wordRefusal (s : State) (m : HostMsg) : Nat :=
  let usable : Bool := match s.strm m.stream.toNat with
    | some q => !q.closing && decide (q.kind = 1) && decide (q.owner = m.req.toNat)
    | none => false
  if ¬ usable ∨ ¬ hostWordOk m then 0x18
  else if s.phase = .warmDrain ∨ fnRefuses s (wordFunctions s (msgWord m).opc (msgWord m).doff) then 0x10
  else 0

/-- Does the word wait for its stream's refill or a context operation (R313, R446)? -/
def wordWaits (s : State) (m : HostMsg) : Bool :=
  s.quiesce.isSome || (match s.strm m.stream.toNat with | some q => !q.resident | none => false)

/-- One operation fewer queued at a port on a stream (R309 INFL). -/
def unqueue (s : State) (n : Nat) : State :=
  match s.strm n with
  | some q => s.setStrm n { q with infl := q.infl - 1 }
  | none => s

/-- Take a word from a port's queue: refused with its status, issued under a ticket, or none while no slot is free. -/
def takeWord (s : State) (p : Nat) (m : HostMsg) : Option State :=
  let k := s.hport p
  let s1 := unqueue (s.setHport p { k with queue := k.queue.erase m, rr := m.req.toNat }) m.stream.toNat
  let st := wordRefusal s m
  if st ≠ 0 then some (ackWord (hostRefuse s1 p m.req.toNat m.stream.toNat) m st 0)
  else match issueWord s1 (.host m.req.toNat) (msgWord m) m.stream.toNat 0 0 with
    | some (s2, t) => some (ackWord s2 m 0 (ticketOf s2 t))
    | none => none

/-- The first word of the next requester after the one served last, in cyclic order (R315), among words that do not wait. -/
def nextWord (s : State) (p : Nat) : Option HostMsg :=
  let k := s.hport p
  let firsts := k.queue.filter (fun m => k.queue.find? (fun x => x.req = m.req) = some m && !(wordWaits s m))
  let dist := fun (m : HostMsg) => (m.req.toNat + 2047 - k.rr) % 2048
  firsts.foldl (fun acc m => match acc with
    | none => some m
    | some x => if dist m < dist x then some m else some x) none

/-- The port takes one word, if one can be taken. -/
def portTurn (s : State) (p : Nat) : State :=
  if ¬ hostUp s p then s
  else match nextWord s p with
    | some m => (takeWord s p m).getD s
    | none => s

/-- The port takes words until none can be taken. -/
def drainPort (s : State) (p : Nat) : State := times (fun s => portTurn s p) (s.hport p).queue.length s

/-- A word joins the queue of its port: 512 words at most, the rest held back under link credit, and behind a word of its requester that is held
back (R315). -/
def queueWord (s : State) (p : Nat) (m : HostMsg) : State :=
  let k := s.hport p
  let n := m.stream.toNat
  if 512 ≤ k.queue.length ∨ s.host.hold.any (fun x => decide (x.kind = 1) && decide (x.req = m.req)) then { s with host := { s.host with hold := s.host.hold ++ [m] } }
  else
    let s1 := s.setHport p { k with queue := k.queue ++ [m] }
    match s1.strm n with
    | some q => s1.setStrm n { q with infl := q.infl + 1 }
    | none => s1

/-! ### Reads and writes (R459) -/

/-- The first thing wrong with the range of a host access of port p, as its status: 0 for none. -/
def hostRange (s : State) (p a n : Nat) : Nat :=
  if n = 0 ∨ a % 64 ≠ 0 then 0x18
  else if inCsr a then (if a + n ≤ csrBase + csrSize ∧ flag s.host.hostcfg p then 0 else 0x16)
  else if (badAddr s a n).isSome then 0x16 else 0

/-- Does a write to the DRAM window wait for room in the transit pool, where it lands (R299, R300)? -/
def poolWaits (s : State) (m : HostMsg) : Bool := inDram m.addr.toNat && !(requestRoom s (reqPort m.req.toNat) (poolBytes m.payload.length))

/-- Does a host access meet a patch that is being moved (R414)? -/
def meetsMove (s : State) (m : HostMsg) : Bool :=
  s.hoofs.any (fun e => e.2.patches.any (fun q => q.state = 0)) && inDram m.addr.toNat && (List.range m.len.toNat).any (fun i => movingAt s (m.addr.toNat + 64 * i))

/-- Does a host access wait: the DRAM window for PWRSTAT.DRAM (R442), for the transit pool (R300) or for a patch that moves (R414), a bucket for room
(R323), a spilled stream for its refill (R313), read data for room in the response share (R300)? -/
def hostWaits (s : State) (wr : Bool) (m : HostMsg) : Bool :=
  let a := m.addr.toNat
  (inDram a && !s.dramUp) || meetsMove s m || (wr && poolWaits s m) || (!wr && !(sendRoom s m.req.toNat m.len.toNat)) || (wr && inStore a && !(bucketWritable s (a - storeBase) (64 * m.len.toNat)))
  || (match s.strm m.stream.toNat with | some q => !q.resident | none => false)

/-- Does an earlier access of the same requester to one of the same units still wait (R295)? -/
def unitsHeld (s : State) (m : HostMsg) : Bool :=
  s.host.hold.any (fun x => decide (x.kind = 2 ∨ x.kind = 3) && decide (x.req = m.req)
    && meets x.addr.toNat (64 * x.len.toNat) m.addr.toNat (64 * m.len.toNat))

/-- Eight-byte writes in ascending order (R459, R469). -/
def csrWrites (s : State) (off : Nat) : Nat → List Byte → State
  | 0, _ => s
  | k + 1, bs => csrWrites (csrWrite8 s off (leNat (bs.take 8))) (off + 8) k (bs.drop 8)

/-- Eight-byte reads in ascending order: what they return and what they leave. -/
def csrReads (s : State) (off : Nat) : Nat → State × List Byte
  | 0 => (s, [])
  | k + 1 =>
    let v := if csrReach s off then csrRead s off else 0
    let r := csrReads (csrRead8 s off) (off + 8) k
    (r.1, leBytes 8 v ++ r.2)

/-- The credits that a WRITE takes, and returns by CRED once its data have left the transit pool (R301, R460). -/
def writeCost (m : HostMsg) : Nat := cdiv m.len.toNat 4

/-- Return the write credits of a requester. -/
def returnCred (s : State) (req n : Nat) : State :=
  if n = 0 then s
  else sendHost { s with host := { s.host with wcred := mput (fun _ => 0) s.host.wcred req (mget (fun _ => 0) s.host.wcred req + n) } }
    (hostMsg 0x86 req 0 0 0 0 0 n true [])

/-- WACK with a status; the write credits return. -/
def ackWrite (s : State) (m : HostMsg) (st : Nat) : State :=
  returnCred (sendHost s (hostMsg 0x82 m.req.toNat m.stream.toNat 0 st m.tag.toNat m.addr.toNat 0 true [])) m.req.toNat (writeCost m)

/-- The number under which the next host write holds its parity traffic: above every slot, above those in use. -/
def wackNo (s : State) : Nat := s.host.wack.foldl (fun n e => Nat.max n (e.1 + 1)) 4096

/-- Send the acknowledgements whose parity writes have all been made (R401, R459). -/
def releaseWacks (s : State) : State :=
  let ready := fun (e : Nat × HostMsg) => s.deltas.all (fun d => d.slot ≠ e.1) && s.fulls.all (fun d => d.slot ≠ e.1)
  (s.host.wack.filter ready).foldl (fun s e => ackWrite s e.2 0)
    { s with host := { s.host with wack := s.host.wack.filter (fun e => !(ready e)) } }

/-- Perform a WRITE that does not wait. -/
def doWrite (s : State) (m : HostMsg) : State :=
  let a := m.addr.toNat
  let n := 64 * m.len.toNat
  let bs := (m.payload ++ List.replicate n 0).take n
  let st := hostRange s (reqPort m.req.toNat) a n
  if st ≠ 0 then ackWrite s m st
  else if inCsr a then ackWrite (csrWrites s (a - csrBase) (n / 8) bs) m 0
  else if inStore a then ackWrite (wrLocal s 4096 a bs) m 0
  else
    let k := wackNo s
    let s1 := wrLocal s k a bs
    releaseWacks { s1 with host := { s1.host with wack := s1.host.wack ++ [(k, m)] } }

/-- Perform a READ that does not wait. -/
def doRead (s : State) (m : HostMsg) : State :=
  let a := m.addr.toNat
  let n := 64 * m.len.toNat
  let st := hostRange s (reqPort m.req.toNat) a n
  let rsp := fun (st : Nat) (bs : List Byte) => hostMsg 0x83 m.req.toNat m.stream.toNat 0 st m.tag.toNat a 0 true bs
  if st ≠ 0 then sendCredited s (rsp st [])
  else if inCsr a then (let r := csrReads s (a - csrBase) (n / 8); sendCredited r.1 (rsp 0 r.2))
  else sendCredited s (rsp 0 (rdLocal s a n))

/-- A READ or WRITE: it waits or is performed; a range that is wrong does not wait. -/
def hostAccess (s : State) (wr : Bool) (m : HostMsg) : State :=
  if hostRange s (reqPort m.req.toNat) m.addr.toNat (64 * m.len.toNat) = 0 ∧ (hostWaits s wr m ∨ unitsHeld s m) then
    { s with host := { s.host with hold := s.host.hold ++ [{ m with kind := if wr then 2 else 3 }] } }
  else if wr then doWrite s m else doRead s m

/-- Present one held message again. -/
def retryMsg (s : State) (m : HostMsg) : State :=
  let p := reqPort m.req.toNat
  if ¬ hostUp s p then { s with host := { s.host with hold := s.host.hold ++ [m] } }
  else if m.kind = 1 then queueWord s p m
  else hostAccess s (decide (m.kind = 2)) m

/-- Present every held message again, oldest first. -/
def retryHolds (s : State) : State := s.host.hold.foldl retryMsg { s with host := { s.host with hold := [] } }

/-- Send what waits for the receive credits of a requester, in order (R301). -/
def flushRx (s : State) (req : Nat) : State :=
  let mine := s.host.rxwait.filter (fun m => decide (m.req.toNat = req))
  mine.foldl sendCredited { s with host := { s.host with rxwait := s.host.rxwait.filter (fun m => decide (m.req.toNat ≠ req)) } }

/-- Write credits that a requester is granted beyond its first four: with them it can send the longest WRITE (R459, R460). -/
def moreCredits : Nat := 12

/-- A requester of an open stream gets further write credits from the shared request space while it has room for them: the port keeps that room for
the requester from then on (R301, R460; DESIGN CHOICE, notes/assumptions/69). -/
def grantCredits (s : State) (req : Nat) : State :=
  if hostUp s (reqPort req) ∧ mget (fun _ => 0) s.host.wextra req = 0 ∧ grantRoom s (256 * moreCredits) then
    let s1 := { s with host := { s.host with wextra := mput (fun _ => 0) s.host.wextra req moreCredits } }
    returnCred s1 req moreCredits
  else s

/-- Requesters that own an open stream. -/
def streamOwners (s : State) : List Nat := (s.strms.filter (fun e => decide (e.2.kind = 1))).map (fun e => e.2.owner)

/-- What the ports do of themselves when nothing else happens: acknowledgements, held accesses, queued words, write credits. -/
def hostTurn (s : State) : State :=
  let s1 := (List.range 4).foldl drainPort (retryHolds (releaseWacks s))
  (streamOwners s1).foldl grantCredits s1

end Sys2Proof.Machine
end

