-- ==== Sys2Proof/Machine/Host.lean ====
section
/-!
DEFINITION. The rows of the host ports: messages of requesters (Table 17-6), link-up (R460), discarded messages (R458), and the stream rows
STREAM_REFILL (R313) and STREAM_CLOSE_COMPLETE (R314).
-/

namespace Sys2Proof.Machine

/-- WORD (R315, R316): queued at its port, which takes what it can. The word takes one issue credit of its stream. -/
def execWord (p : HostPort) (m : HostMsg) (s : State) : Host.Outcome State Fault Refusal :=
  commit s (hostArrive s p m (fun s =>
    let n := m.stream.toNat
    let c := mget (fun _ => 0) s.host.icred n
    drainPort (queueWord { s with host := { s.host with icred := mput (fun _ => 0) s.host.icred n (c - 1) } } p.toNat { m with kind := 1 }) p.toNat))

/-- WRITE (R459). It takes ceil(LEN / 4) write credits (R460). -/
def execWrite (p : HostPort) (m : HostMsg) (s : State) : Host.Outcome State Fault Refusal :=
  commit s (hostArrive s p m (fun s =>
    let r := m.req.toNat
    let c := mget (fun _ => 0) s.host.wcred r
    hostAccess { s with host := { s.host with wcred := mput (fun _ => 0) s.host.wcred r (c - writeCost m) } } true m))

/-- READ (R459). -/
def execRead (p : HostPort) (m : HostMsg) (s : State) : Host.Outcome State Fault Refusal := commit s (hostArrive s p m (fun s => hostAccess s false m))

/-- SOPEN (R310, R460): SACK carries the status, and WIN issue credits after a success. -/
def execSopen (p : HostPort) (m : HostMsg) (s : State) : Host.Outcome State Fault Refusal :=
  commit s (hostArrive s p m (fun s =>
    let n := m.stream.toNat
    let img := (m.payload ++ List.replicate 64 0).take 64
    let r := openStrm s n img 1 (some m.req.toNat)
    let win := if r.2 = 0 then (parseStrm img).win else 0
    let s1 := if r.2 = 0 then { r.1 with host := { r.1.host with icred := mput (fun _ => 0) r.1.host.icred n win } } else r.1
    sendHost s1 (hostMsg 0x84 m.req.toNat n 0 r.2 m.tag.toNat 0 win true [])))

/-- SCLOSE (R314). -/
def execSclose (p : HostPort) (m : HostMsg) (s : State) : Host.Outcome State Fault Refusal :=
  commit s (hostArrive s p m (fun s => closeByHost s m.stream.toNat m.req.toNat m.tag.toNat))

/-- RXCRED (R460): receive credits are granted, and responses that waited for them leave. -/
def execRxcred (p : HostPort) (m : HostMsg) (s : State) : Host.Outcome State Fault Refusal :=
  commit s (hostArrive s p m (fun s =>
    let r := m.req.toNat
    flushRx { s with host := { s.host with rxcred := mput (fun _ => 0) s.host.rxcred r (mget (fun _ => 0) s.host.rxcred r + m.count.toNat) } } r))

/-- HOST_LINK_UP (R440, R460): at bring-up, or after retraining, when the UCIe retry resumes. Each requester of the port gets its four initial
write credits; a retrained port keeps the credits that are out. -/
def execHostLinkUp (p : HostPort) (s : State) : Host.Outcome State Fault Refusal :=
  commit s (
    let k := s.hport p.toNat
    if ¬ s.live ∨ ¬ powered s .hostp ∨ k.up ∨ s.phase ≠ .up then s
    else
      let s1 := s.setHport p.toNat { k with up := true, training := false, resent := false, mods := if k.mods = 0 then 8 else k.mods }
      if k.training then s1
      else { s1 with host := { s1.host with
        wextra := s1.host.wextra.filter (fun e => reqPort e.1 ≠ p.toNat)
        wcred := (List.range 512).foldl (fun m i => mput (fun _ => 0) m (512 * p.toNat + i) 4) s1.host.wcred } })

/-- DISCARDED_HOST_MESSAGE (R458): a reserved KIND, a reserved field that is not zero, or LEN above 64. -/
def execDiscardedHostMessage (p : HostPort) (s : State) : Host.Outcome State Fault Refusal :=
  commit s (if hostUp s p.toNat then hostRefuse s p.toNat 0 0 else s)

/-- STREAM_REFILL (R313): the spilled descriptor is resident again, and what waited for it goes on. -/
def execStreamRefill (st : StreamId) (s : State) : Host.Outcome State Fault Refusal :=
  commit s (if s.live then hostTurn (refillStrm s st.toNat) else s)

/-- STREAM_CLOSE_COMPLETE (R314). -/
def execStreamCloseComplete (st : StreamId) (s : State) : Host.Outcome State Fault Refusal :=
  commit s (if s.live then
      (if (s.strm st.toNat).isSome ∧ ((strmFinish s st.toNat).strm st.toNat).isNone then
        (let s1 := strmFinish s st.toNat; { s1 with host := { s1.host with icred := mput (fun _ => 0) s1.host.icred st.toNat 0 } })
       else strmFinish s st.toNat)
    else s)

end Sys2Proof.Machine
end

