-- ==== Sys2Proof/Machine/Management.lean ====
section
/-!
DEFINITION. The management port: the I3C commands and CCCs (R464, R465), and the test access port (R466-R468).
-/

namespace Sys2Proof.Machine

/-! ### I3C (R464) -/

/-- The target answers unless RST_N is asserted (Table 17-2). -/
def i3cUp (s : State) : Bool := decide (s.phase ≠ .coldReset)

/-- Put an acknowledgement and bytes on the bus. -/
def i3cSay (s : State) (ack : Bool) (bs : List Byte) : State := { s with ports := { s.ports with i3cOut := (ack, bs) } }

/-- Answer only under a dynamic address; otherwise the target does not acknowledge. -/
def i3cAddressed (s : State) (f : State → State) : State :=
  if i3cUp s ∧ s.ports.dyn.isSome then f s else i3cSay s false []

/-- Part code (R6). -/
def partCode (s : State) : Nat := match s.part with | .rlu12 => 0x0C | .rlu8 => 0x08

/-- Provisioned ID, 48 bits (R464). -/
def pid (s : State) : Nat := 0x2D1 * 2 ^ 33 + partCode s * 2 ^ 16 + s.stepping.toNat

/-- Bytes of a number, most significant first, as they travel on the bus (PRESUMED: MIPI I3C, notes/assumptions/24). -/
def beBytes (n v : Nat) : List Byte := (leBytes n v).reverse

/-- Set the dynamic address. -/
def setDyn (s : State) (a : Option (BitVec 7)) : State := { s with ports := { s.ports with dyn := a } }

/-- ENTDAA: a target without a dynamic address sends its provisioned ID, BCR and DCR and takes the address. -/
def execEntdaa (a : BitVec 7) (s : State) : Host.Outcome State Fault Refusal :=
  commit s (if i3cUp s ∧ s.ports.dyn.isNone then i3cSay (setDyn s (some a)) true (beBytes 6 (pid s) ++ [0, 0]) else i3cSay s false [])

/-- SETDASA, directed to the static address 0x4A. -/
def execSetdasa (a : BitVec 7) (s : State) : Host.Outcome State Fault Refusal :=
  commit s (if i3cUp s ∧ s.ports.dyn.isNone then i3cSay (setDyn s (some a)) true [] else i3cSay s false [])

/-- SETNEWDA. -/
def execSetnewda (a : BitVec 7) (s : State) : Host.Outcome State Fault Refusal := commit s (i3cAddressed s (fun s => i3cSay (setDyn s (some a)) true []))

/-- RSTDAA: the dynamic address is lost. -/
def execRstdaa (s : State) : Host.Outcome State Fault Refusal := commit s (if i3cUp s then i3cSay (setDyn s none) true [] else s)

/-- GETPID. -/
def execGetpid (s : State) : Host.Outcome State Fault Refusal := commit s (i3cAddressed s (fun s => i3cSay s true (beBytes 6 (pid s))))

/-- GETBCR: 0x00. -/
def execGetbcr (s : State) : Host.Outcome State Fault Refusal := commit s (i3cAddressed s (fun s => i3cSay s true [0]))

/-- GETDCR: 0x00. -/
def execGetdcr (s : State) : Host.Outcome State Fault Refusal := commit s (i3cAddressed s (fun s => i3cSay s true [0]))

/-- GETSTATUS: two bytes whose value R464 does not give (a free value). -/
def execGetstatus (s : State) : Host.Outcome State Fault Refusal :=
  commit s (i3cAddressed s (fun s =>
    let s1 := i3cSay s true (beBytes 2 (Config.getStatus s.ports.i3cSeq).toNat)
    { s1 with ports := { s1.ports with i3cSeq := s1.ports.i3cSeq + 1 } }))

/-- OTHER_CCC: every other directed CCC is not acknowledged, every other broadcast CCC is ignored. -/
def execOtherCcc (directed : Bool) (s : State) : Host.Outcome State Fault Refusal := commit s (if directed then i3cSay s false [] else s)

/-- The status of a command for a local address (R465), 0 when it may be done: BAD, NOT_READY in fail-stop, ADDR, NOT_READY before
PWRSTAT.UP. -/
def i3cStatus (s : State) (a : Nat) : Nat :=
  let mgmt := inCsr a && decide (a - csrBase < bSCHED)
  if bits a 55 52 ≠ 0 then 3
  else if s.failstop ∧ ¬ mgmt then 1
  else if a % 8 ≠ 0 ∨ ¬ (inCsr a ∨ (inStore a ∧ storeOk s.units (a - storeBase) 8)) then 2
  else if ¬ mgmt ∧ ¬ flag s.mgmt.pwrstat 50 then 1
  else 0

/-- Keep the result of a command; an unread one is replaced. -/
def i3cResult (s : State) (st : Nat) (v : W64) : State := { s with ports := { s.ports with result := some (st, v), i3cOut := (true, []) } }

/-- I3C_READ_COMMAND: 8 bytes, OP 0x01. -/
def execI3cReadCommand (addr : BitVec 56) (s : State) : Host.Outcome State Fault Refusal :=
  commit s (i3cAddressed s (fun s =>
    let a := addr.toNat
    let st := i3cStatus s a
    if st ≠ 0 then i3cResult s st 0
    else if inCsr a then
      let off := a - csrBase
      i3cResult (csrRead8 s off) 0 (BitVec.ofNat 64 (if csrReach s off then csrRead s off else 0))
    else i3cResult s 0 (BitVec.ofNat 64 (leNat (s.stBytes (a - storeBase) 8)))))

/-- I3C_WRITE_COMMAND: 16 bytes, OP 0x02. -/
def execI3cWriteCommand (addr : BitVec 56) (data : W64) (s : State) : Host.Outcome State Fault Refusal :=
  commit s (i3cAddressed s (fun s =>
    let a := addr.toNat
    let st := i3cStatus s a
    if st ≠ 0 then i3cResult s st 0
    else if inCsr a then i3cResult (csrWrite8 s (a - csrBase) data.toNat) 0 0
    else i3cResult (s.stWrite (a - storeBase) (leBytes 8 data.toNat)) 0 0))

/-- I3C_RESULT_READ: 9 bytes, the status and the data; NONE when no command has come since the last result was read. -/
def execI3cResultRead (s : State) : Host.Outcome State Fault Refusal :=
  commit s (i3cAddressed s (fun s =>
    let r := s.ports.result.getD (4, 0)
    i3cSay { s with ports := { s.ports with result := none } } true (BitVec.ofNat 8 r.1 :: leBytes 8 r.2.toNat)))

/-! ### Test access port (R466-R468) -/

/-- IDCODE. -/
def idcodeOf (s : State) : W32 :=
  BitVec.ofNat 32 (s.stepping.toNat / 16 * 2 ^ 28 + (0x5200 + partCode s) * 2 ^ 12 + 0x2D1 * 2 + 1)

/-- The instruction register takes an opcode. -/
def setIr (s : State) (op : Nat) (inst : Option (BitVec 3)) : State := { s with ports := { s.ports with ir := BitVec.ofNat 8 op, instr := inst } }

/-- An intrusive opcode or instrument: outside RST_N the bypass register is selected in its place and the attempt is logged (R468). -/
def tapIntrusive (s : State) (op : Nat) (inst : Option (BitVec 3)) : State :=
  if s.phase = .coldReset then setIr s op inst else setIr (addLog s 4 0x0001 0xFFFF op) 0xFF none

/-- Test-Logic-Reset: IDCODE is selected. -/
def tapReset (s : State) : State :=
  let s1 := setIr s 0x01 none
  { s1 with ports := { s1.ports with idout := idcodeOf s } }

/-- The pins that the boundary register covers (R466), from bit 0: RST_N, WRST_N, ALERT_N, THERMTRIP_N, PG_C, PG_H0-PG_H11, I3C_SCL,
I3C_SDA. The power-good inputs read asserted and the released bus high. -/
def boundaryPins (s : State) : BitVec 19 :=
  let hoofPg := (2 ^ s.part.hoofs - 1) * 2 ^ 5
  BitVec.ofNat 19 ((if s.phase = .coldReset then 0 else 1) + (if s.wrstHeld then 0 else 2) + (if alertAsserted s then 0 else 4)
    + (if s.mgmt.trip then 0 else 8) + 16 + hoofPg + 3 * 2 ^ 17)

/-- TAP_RESET. -/
def execTapReset (s : State) : Host.Outcome State Fault Refusal := commit s (tapReset s)
/-- IDCODE. -/
def execIdcode (s : State) : Host.Outcome State Fault Refusal := commit s (tapReset s)
/-- SAMPLE/PRELOAD: the boundary register samples the pins. -/
def execSamplePreload (s : State) : Host.Outcome State Fault Refusal :=
  commit s (let s1 := setIr s 0x02 none; { s1 with ports := { s1.ports with bound := boundaryPins s } })
/-- EXTEST. -/
def execExtest (s : State) : Host.Outcome State Fault Refusal := commit s (tapIntrusive s 0x03 none)
/-- CLAMP. -/
def execClamp (s : State) : Host.Outcome State Fault Refusal := commit s (tapIntrusive s 0x04 none)
/-- HIGHZ. -/
def execHighz (s : State) : Host.Outcome State Fault Refusal := commit s (tapIntrusive s 0x05 none)
/-- IJTAG (R467, Table 17-11): instrument 0 store march, 1 UCIe loopback, 2 TSV interconnect test (intrusive), 3 temperature sensor readout,
4 rate-monitor replica readout. The table has no others: they select the bypass register. -/
def execIjtag (instrument : BitVec 3) (s : State) : Host.Outcome State Fault Refusal :=
  commit s (if instrument.toNat < 3 then tapIntrusive s 0x10 (some instrument)
    else if instrument.toNat < 5 then setIr s 0x10 (some instrument)
    else setIr s 0xFF none)
/-- BYPASS. -/
def execBypass (s : State) : Host.Outcome State Fault Refusal := commit s (setIr s 0xFF none)

end Sys2Proof.Machine
end

