-- ==== Sys2Proof/Machine/Power.lean ====
section
/-!
DEFINITION. Power, reset and bring-up: domains under AUTO (R430-R433), functions that end disabled (R445), cold and warm reset (R437-R439, R453),
bring-up and training (R440-R442, R387).
-/

namespace Sys2Proof.Machine

/-! ### Domains and functions -/

/-- Operations accepted and not ended, which may need a domain. -/
def demand (s : State) (d : Domain) : Bool :=
  (busySlots s).any (fun e => (match e.2.phase with | .waiting | .running => true | _ => false) && decide (d ∈ opDomains s e.2))
  || (decide (d = .vec) && (decide (heldTiles s ≠ 0) || !s.armed.isEmpty))
  || (match d with | .htine _ => !s.tines.isEmpty | _ => false)

/-- Does the domain exist in the configuration (R430)? -/
def domainHere (s : State) : Domain → Bool
  | .htine h => decide (h.val < s.part.hoofs)
  | .hctl h => decide (h.val < s.part.hoofs)
  | _ => true

/-- DOMAIN_WAKE (R433): a gated AUTO domain that an operation needs is on. -/
def execDomainWake (d : Domain) (s : State) : Host.Outcome State Fault Refusal :=
  commit s (if s.live ∧ s.phase = .up ∧ domainHere s d ∧ policy s d = 0 ∧ ¬ powered s d ∧ ¬ retiredHalf s d ∧ demand s d then noteUse (ungate s d) [d] else s)

/-- Local time at which a domain has been idle for PWRCTL.IDLE microseconds. -/
def idleSince (s : State) (d : Domain) : Nat := (aget s.mgmt.usedAt d).getD 0 + 100 * fld s.mgmt.pwrctl 39 32

/-- DOMAIN_IDLE_GATE (R430): an AUTO domain with nothing resident for PWRCTL.IDLE microseconds is gated. -/
def execDomainIdleGate (d : Domain) (s : State) : Host.Outcome State Fault Refusal :=
  commit s (if s.live ∧ s.phase = .up ∧ domainHere s d ∧ policy s d = 0 ∧ fld s.mgmt.pwrctl 39 32 ≠ 0 ∧ powered s d ∧ ¬ demand s d then gate (s.atLeast (idleSince s d)) d else s)

/-- FUNCTION_DISABLED (R445): none of the function's operations remains; policies follow (R431). -/
def execFunctionDisabled (f : Fin 8) (s : State) : Host.Outcome State Fault Refusal :=
  commit s (if s.live ∧ (fnState s f.val = 1 ∨ fnState s f.val = 2) ∧ ¬ fnBusy s f.val then applyPolicies (setFn s f.val 3) else s)

/-! ### Reset pulses (R453) -/

/-- Is an assertion of `ns` nanoseconds acted on? One of 100 ns to 1 us may or may not be (a free value). -/
def pulseOn (s : State) (ns : Nat) : Bool := if ns < 100 then false else if ns < 1000 then Config.pulseActs s.pulses else true

/-- A pulse whose effect R453 leaves open has been seen. -/
def notePulse (s : State) (ns : Nat) : State := if 100 ≤ ns ∧ ns < 1000 then { s with pulses := s.pulses + 1 } else s

/-! ### Cold reset (R437, Table 16-3) -/

/-- The block under RST_N: every domain off; what lies outside it or in the core dies stays: DRAM, the test access port, the messages and
packets that have left. -/
def coldState (s : State) : State :=
  { State.reset with
    part := s.part, stepping := s.stepping, phase := .coldReset, pulses := s.pulses, dram := s.dram, pending := s.pending
    mgmt := { Mgmt.reset with pwrstat := 0 }
    ports := { Ports.reset with ir := s.ports.ir, instr := s.ports.instr, bound := s.ports.bound, idout := s.ports.idout, i3cSeq := s.ports.i3cSeq }
    host := { HostSt.reset with out := s.host.out }
    fab := { FabSt.reset with wire := s.fab.wire } }

/-- RST_N_ASSERT: it dominates every phase (R437). -/
def execRstNAssert (ns : Nat) (s : State) : Host.Outcome State Fault Refusal :=
  commit s (if pulseOn s ns then coldState (notePulse s ns) else notePulse s ns)

/-- RST_N_RELEASE (Table 16-4, step 2): the test access port goes to Test-Logic-Reset first (R468); AON_C comes up, local time starts at zero. -/
def execRstNRelease (s : State) : Host.Outcome State Fault Refusal :=
  commit s (if s.phase = .coldReset then
      (let s1 := tapReset s; { s1 with phase := .bringUp, mgmt := { s1.mgmt with pwrstat := 1 } })
    else s)

/-! ### Bring-up (R440-R442) -/

/-- Switch on the Hoof side of bring-up: HAON, HCTL and the Hoof link of every Hoof of the configuration whose stack is not lost. -/
def hoofsUp (s : State) : State :=
  (hoofIds s).foldl (fun s h =>
    if lostStack s h.val then s
    else
      let k := s.hoof h.val
      let s1 := s.setHoof h.val { k with haon := true, hlstat := setFld (setFlag k.hlstat 0 true) 3 1 5, href := setFlag k.href 1 false }
      setDomain { s1 with mgmt := { s1.mgmt with pwrstat := setFlag s1.mgmt.pwrstat (14 + h.val) true } } (.hctl h) true) s

/-- Central domains that bring-up switches on: AON_C, CTRL, SCHED, STQ0-STQ3, HLINK (Tables 16-1, 16-4). -/
def centralUp (w : W64) : W64 := (List.range 7).foldl (fun w i => setFlag w i true) (setFlag w 13 true)

/-- PWRSTAT.UP: the device is in service and the other domains follow their policies. -/
def inService (s : State) : State :=
  let s1 := hoofsUp { s with mgmt := { s.mgmt with pwrstat := setFlag (centralUp s.mgmt.pwrstat) 50 true } }
  applyPolicies { s1 with phase := .up }

/-- BRING_UP_COMPLETE (Table 16-4, steps 3 to 8; R441): banks that fail self-test are retired; more than eight end in fail-stop. -/
def execBringUpComplete (badBanks : List (BitVec 8)) (s : State) : Host.Outcome State Fault Refusal :=
  commit s (if s.phase ≠ .bringUp ∨ s.failstop then s
    else
      let s1 := badBanks.foldl (fun s b => if s.failstop then s else bankFault s b.toNat true) s
      if s1.failstop then s1 else inService s1)

/-- Stacks that have trained or been lost. -/
def trainedOrLost (s : State) (h : Nat) : Bool := lostStack s h || flag (s.hoof h).hmem 24

/-- The reference geometry among the trained stacks: height and density that most declare, ties to the lowest-numbered Hoof (R387). -/
def referenceGeometry (s : State) : Option (Nat × Nat) :=
  let gs := ((hoofIds s).filter (fun h => !(lostStack s h.val))).map (fun h => (fld (s.hoof h.val).hmem 4 0, fld (s.hoof h.val).hmem 15 8))
  gs.foldl (fun acc g => match acc with
    | none => some g
    | some x => if gs.count x < gs.count g then some g else some x) none

/-- Stacks that differ from the reference are mismatched and lost (R387, step 3). -/
def judgeStacks (s : State) (g : Nat × Nat) : State :=
  (hoofIds s).foldl (fun s h =>
    let k := s.hoof h.val
    if s.failstop ∨ lostStack s h.val ∨ (fld k.hmem 4 0, fld k.hmem 15 8) = g then s
    else stackFault (s.setHoof h.val { k with hmem := setFlag k.hmem 26 true }) h.val) s

/-- Every stack of the reference runs at the highest bin that all of them declare (R387, step 4); EXT shows an extension in use. -/
def runBin (s : State) : State :=
  let hs := (hoofIds s).filter (fun h => !(lostStack s h.val))
  let bin := hs.foldl (fun b h => Nat.min b (fld (s.hoof h.val).hmem 23 16)) 255
  hs.foldl (fun s h =>
    let k := s.hoof h.val
    let w := setFld k.hmem 23 16 bin
    s.setHoof h.val { k with hmem := setFlag w 25 (decide (fld w 15 8 ≥ 48 ∨ bin = 100)) }) s

/-- When every present Hoof has trained, PWRSTAT.DRAM is set (R442). -/
def trainingDone (s : State) : State :=
  if ¬ s.live ∨ s.phase ≠ .up ∨ s.dramUp ∨ ¬ (hoofIds s).all (fun h => trainedOrLost s h.val) then s
  else match referenceGeometry s with
    | none => s
    | some g =>
      let s1 := judgeStacks s g
      if s1.failstop then s1
      else let s2 := runBin s1; { s2 with mgmt := { s2.mgmt with pwrstat := setFlag s2.mgmt.pwrstat 51 true } }

/-- Does the Hoof support what its stack declares (Table 14-2): height, density, and the extension declared for 48 and 64 Gb dies? -/
def geometryOk (p : TrainP) : Bool :=
  decide (p.height.toNat ∈ [8, 12, 16]) && (decide (p.dens.toNat ∈ [24, 32]) || (p.ext && decide (p.dens.toNat ∈ [48, 64])))
  && decide (64 ≤ p.bin.toNat)

/-- The fastest bin that a stack may run at. -/
def binOf (p : TrainP) : Nat := if 100 ≤ p.bin.toNat ∧ p.ext then 100 else if 80 ≤ p.bin.toNat then 80 else 64

/-- HOOF_TRAINED (R442, R387): a stack that cannot be read or trained is lost; channels that failed are patched. -/
def execHoofTrained (h : HoofId) (p : TrainP) (s : State) : Host.Outcome State Fault Refusal :=
  commit s (
    let k := s.hoof h.val
    if ¬ s.live ∨ s.phase ≠ .up ∨ s.part.hoofs ≤ h.val ∨ ¬ k.hctl ∨ trainedOrLost s h.val then s
    else if ¬ p.ok ∨ ¬ geometryOk p then trainingDone (stackFault s h.val)
    else
      let w := p.height.toNat + p.dens.toNat * 2 ^ 8 + binOf p * 2 ^ 16 + 2 ^ 24
      let s1 := s.setHoof h.val { k with hmem := BitVec.ofNat 64 w }
      trainingDone (((List.range 32).filter (fun c => bitAt p.badChan.toNat c)).foldl (fun s c => if s.failstop then s else channelFault s h.val c) s1))

/-! ### Warm reset (R438, R439) -/

/-- Every operation ends under ABORT: one not dispatched is cancelled, one running ends after its current unit; STCL, FENC and
an arming end at once. -/
def abortAll (s : State) : State :=
  (busySlots s).foldl (fun s e =>
    match s.op e.1 with
    | none => s
    | some o =>
      match o.phase with
      | .issued => endOp s e.1 0x11 0
      | .waiting => endOp s e.1 0x11 0
      | .running => if o.opc = 0x02 ∨ o.opc = 0x03 ∨ o.src = .plan then endOp s e.1 0x11 0 else s.setOp e.1 { o with aborted := true }
      | _ => s) s

/-- WRST_N_ASSERT (R438, steps 1 and 2): ABORT of every function. The stacks enter self-refresh once the accesses already begun are complete (Table
14-3). A fail-stopped device, or one not in service, does not react (R424). -/
def execWrstNAssert (ns : Nat) (s : State) : Host.Outcome State Fault Refusal :=
  commit s (
    let s0 := notePulse s ns
    if ¬ pulseOn s ns ∨ s.phase ≠ .up ∨ s.failstop then s0
    else
      abortAll ((List.range 8).foldl (fun s f => abortFn s f) { s0 with phase := .warmDrain, wrstHeld := true, warmAt := s.now }))

/-- WARM_RESET_REMOTE_TIMEOUT (R438, step 3): 2 ms after the assertion. -/
def execWarmResetRemoteTimeout (t : SlotId) (s : State) : Host.Outcome State Fault Refusal :=
  commit s (
    let n := t.toNat
    if s.phase = .warmDrain ∧ ¬ s.failstop ∧ s.fab.orig.any (fun e => e.slot = n) ∧ (s.op n).any (fun o => o.phase = .running) then
      let s1 := (dropOrig (s.atLeast (s.warmAt + 200000)) (fun e => e.slot = n)).onOp n (fun o => { o with retried := true })
      endOp s1 n 0x11 (2 ^ 64 - 1)
    else s)

/-- Clear a store area. -/
def clearArea (m : List Host.Cell) (a : Nat × Nat) : List Host.Cell := m.filter (fun e => !(decide (a.1 ≤ e.1) && decide (e.1 < a.1 + a.2)))

/-- Velvet entries that pass their check: CUR_MAX 0x80, CHECK rewritten (Table 16-3). -/
def warmVelvet (s : State) : State :=
  (List.range 4096).foldl (fun s j => if (s.velvet j).ok then s.onVelvet j (fun v => { v with curMax := -128 }) else s) s

/-- Change every listed entry of a sparse map, keeping its canonical form. -/
def mmap {α : Type} [DecidableEq α] (d : Nat → α) (f : α → α) (m : List (Nat × α)) : List (Nat × α) :=
  m.foldl (fun acc e => mput d acc e.1 (f e.2)) []

/-- What a Hoof keeps across a warm reset (R439), its stack in self-refresh (R390); its duplicate filter holds on through it, as its local time runs on
(R56). -/
def warmHoof (k : Hoof) : Hoof :=
  { Hoof.reset with ltime := k.ltime, refclk := k.refclk, haon := k.haon, hmem := k.hmem, href := setFlag (setFlag k.href 1 true) 2 false, scrubAt := k.ltime, hflt := k.hflt, hresv := k.hresv,
                    filter := k.filter, patches := k.patches, locs := k.locs, refreshed := k.refreshed }

/-- Every parity write that the store still holds is made, before its stack enters self-refresh (R401, Table 14-3, step 2). -/
def drainParity (s : State) : State :=
  let s1 := s.fulls.foldl (fun r e => if stackUp r e.hoof then writeFull r e else r) { s with fulls := [] }
  s.deltas.foldl (fun r e => if stackUp r e.hoof then writeDelta r e else r) { s1 with deltas := [] }

/-- What MGMT keeps: RW fields of PWRCTL and THERM, FLTSTAT, FLTCNT, MLOGPTR, the log, LTIME; AON_C, the store and HAON stay powered. -/
def warmMgmt (m : Mgmt) : Mgmt :=
  { m with rate := 0, ratelim := 0, rated := false, pwrstat := BitVec.ofNat 64 (0x79 + fld m.pwrstat 25 14 * 2 ^ 14),
           therm := setFld (setFld Mgmt.reset.therm 23 16 (fld m.therm 23 16)) 25 25 (fld m.therm 25 25), temps := [], oddTurn := [] }

/-- What SCHED keeps: DSPCA, DSPCB, SCALEPOL, DRXSEED, FABCFG.DEV. -/
def warmSched (r : Sched) : Sched :=
  { Sched.reset with dspca := r.dspca, dspcb := r.dspcb, scalepol := r.scalepol, drxseed := r.drxseed,
                     fabcfg := setFld Sched.reset.fabcfg 27 16 (fld r.fabcfg 27 16) }

/-- A slot after a warm reset: generation and quarantine kept, every other slot free (Table 16-3). -/
def warmSlot (k : Slot) : Slot := match k.st with | .busy _ => { k with st := .free } | _ => k

/-- The state in which the reset domains wait for the release of WRST_N (R438, step 5; R439). -/
def warmState (s : State) : State :=
  let freed := (busySlots s).map Prod.fst
  let v := warmVelvet s
  { s with
    phase := .warmIdle
    mgmt := warmMgmt s.mgmt
    sched := warmSched s.sched
    units := { Units.reset with slay0 := s.units.slay0, slay1 := s.units.slay1, slay2 := s.units.slay2 }
    host := { HostSt.reset with out := s.host.out }
    fab := { FabSt.reset with wire := (sendWaiting s).fab.wire, beaconAt := s.fab.beaconAt, sent := s.fab.sent, ports := mmap (fun _ => FPort.reset) (fun e => { FPort.reset with mods := e.mods }) s.fab.ports }
    hoofs := mmap (fun _ => Hoof.reset) warmHoof s.hoofs
    cores := []
    store := clearArea (clearArea v.store (transitPool s.units)) (spillArea s.units)
    slots := mmap (fun _ => Slot.reset) warmSlot s.slots
    freeq := s.freeq ++ freed
    strms := State.reset.strms
    steps := [], car := StepCar.reset, tines := [], ctxs := [], armed := [], deltas := [], fulls := [], quiesce := none }

/-- WRST_N is released after step 5: the reset domains come up without self-test and training, self-refresh ends (R438, step 6; R390). -/
def warmUp (s : State) : State :=
  let s1 := inService s
  { s1 with mgmt := { s1.mgmt with pwrstat := setFlag s1.mgmt.pwrstat 51 ((hoofIds s1).all (fun h => trainedOrLost s1 h.val)) } }

/-- WARM_RESET_IDLE_DONE (R438, steps 4 and 5): every operation has ended, what its accesses had begun is complete and the stacks are in self-refresh,
and the ports have been idle for 400 us. -/
def execWarmResetIdleDone (s : State) : Host.Outcome State Fault Refusal :=
  commit s (if s.phase = .warmDrain ∧ ¬ s.failstop ∧ (busySlots s).all (fun e => !e.2.inFlight) then
      (let s1 := warmState (drainParity (s.atLeast (s.warmAt + 40000))); if s1.wrstHeld then s1 else warmUp s1)
    else s)

/-- WRST_N_RELEASE: before step 5 has run it takes effect once that has (R438); it does not bring a fail-stopped device out (R424). -/
def execWrstNRelease (s : State) : Host.Outcome State Fault Refusal :=
  commit s (let s1 := { s with wrstHeld := false }; if s.phase = .warmIdle ∧ ¬ s.failstop then warmUp s1 else s1)

end Sys2Proof.Machine
end

