-- ==== Sys2Proof/Machine/Clock.lean ====
section
/-!
DEFINITION. Local time (R52, R56): each die counts its reference clock in ticks of 10 ns; and what the block does of itself on an empty queue.
-/

namespace Sys2Proof.Machine

/-- One tick of the central die's local time: AON_C is up and REFCLK_C runs. -/
def tickCentral (s : State) : State :=
  if s.phase = .coldReset ∨ ¬ s.mgmt.refclk then s else { s with mgmt := { s.mgmt with ltime := (s.mgmt.ltime + 1) % 2 ^ 64 } }

/-- One tick of a Hoof whose HAON is up and whose reference clock runs. -/
def tickHoof (k : Hoof) : Hoof := if k.haon ∧ k.refclk then { k with ltime := (k.ltime + 1) % 2 ^ 64 } else k

/-- One tick on every die. -/
def tickAll (s : State) : State :=
  let s := tickCentral s
  if s.phase = .coldReset then s else (List.range 12).foldl (fun s h => s.setHoof h (tickHoof (s.hoof h))) s

/-- Does an agent wait for space: a host write for the bucket area (R323) or for the transit pool, a fabric neighbour for the pool (R300)? -/
def spaceWaits (s : State) : Bool :=
  s.host.hold.any (fun m => decide (m.kind = 2) && ((inStore m.addr.toNat && !(bucketWritable s (m.addr.toNat - storeBase) (64 * m.len.toNat)))
    || poolWaits { s with host := { s.host with hold := s.host.hold.erase m } } m))
  || (List.range 16).any (fun p => (s.fport p).held.any (fun k => !(classRoom s p k)))

/-- SHOLD.SPACEUS counts each microsecond of central-die local time in which an agent waited for space (R302, Table 11-12). -/
def countHold (s : State) : State :=
  if s.mgmt.refclk ∧ spaceWaits s then
    let u := s.units
    if u.holdTicks + 1 < 100 then { s with units := { u with holdTicks := u.holdTicks + 1 } }
    else { s with units := { u with holdTicks := 0, shold := bump u.shold 31 0 1 } }
  else s

/-- What happens on an empty queue (DESIGN CHOICE 6): one tick on every die; while the device works, the host and fabric ports take what waited
(R300, R315, R323, R442, R459), waiting packets leave (R365), an arming without a slot takes a free one (R330) and the end of training is noted
(R442). -/
def tick (s : State) : State :=
  let s1 := tickAll s
  settle s (if s1.live then trainingDone (seatPlans (fabricTurn (hostTurn (countHold s1)))) else s1)

end Sys2Proof.Machine
end

