-- ==== Sys2Proof/Machine/Registers.lean ====
section
/-!
DEFINITION. The register commands (the CSR chapters): each is one 8-byte access that reaches CSR space (R469), a write of the value given
or a read whose effect is what it clears; the value read is what `csrRead` gives of the state before.
-/

namespace Sys2Proof.Machine

/-- Outcome of every register command. -/
abbrev Out := Host.Outcome State Fault Refusal

/-- CSR offset of a die's register `o` of Tables 2-5 to 2-7. -/
def dieReg (d : Die) (o : Nat) : Nat := match d with | .central => o | .hoof h => bHOOF + h.val * 0x100000 + o

/-- CSR offset of register `o` of HOOF h. -/
def hoofReg (h : HoofId) (o : Nat) : Nat := bHOOF + h.val * 0x100000 + o

/-- CORE_RUN (R154, Table 6-6): CORECTL c written with BOOTPC and RUN = 1. -/
def execCoreRun (c : CoreId) (bootpc : BitVec 28) (s : State) : Out :=
  commit s (csrWrite8 s (bSCHED + 0x300 + 8 * c.toNat) (bootpc.toNat * 4 + 2 ^ 32))

/-- CORE_HALT (R154): RUN = 0, BOOTPC as it is. -/
def execCoreHalt (c : CoreId) (s : State) : Out :=
  commit s (csrWrite8 s (bSCHED + 0x300 + 8 * c.toNat) ((s.core c.toNat).bootpc.toNat * 4))

/-- WAKE (R154): WAKE = 1, RUN and BOOTPC as they read. -/
def execWake (c : CoreId) (s : State) : Out :=
  commit s (csrWrite8 s (bSCHED + 0x300 + 8 * c.toNat)
    ((s.core c.toNat).bootpc.toNat * 4 + (if (s.core c.toNat).running then 2 ^ 32 else 0) + 2 ^ 34))

/-- RATE_CLR (R59, Table 2-6). -/
def execRateClr (d : Die) (s : State) : Out :=
  commit s (csrWrite8 s (dieReg d 0x108) (2 ^ 63))

/-- RATE_LOW_CLEAR (R59, Table 2-6). -/
def execRateLowClear (d : Die) (s : State) : Out :=
  commit s (csrWrite8 s (dieReg d 0x108) (2 ^ 48))

/-- DRXTEST_CALL (R142): TCTR1 written with `v`. -/
def execDrxtestCall (v : W64) (s : State) : Out :=
  commit s (csrWrite8 s (bSCHED + 0x230) v.toNat)

/-- TOUT_READ (R142): TOUT0 or TOUT1. -/
def execToutRead (hi : Bool) (s : State) : Out :=
  commit s (csrRead8 s (bSCHED + (if hi then 0x240 else 0x238)))

/-- STREAM_OPEN (R310): STRMCMD with OP 0. -/
def execStreamOpen (st : StreamId) (img : BitVec 24) (s : State) : Out :=
  commit s (csrWrite8 s (bSCHED + 0x510) (st.toNat + img.toNat * 2 ^ 24))

/-- STREAM_CLOSE (R314): STRMCMD with OP 1. -/
def execStreamClose (st : StreamId) (s : State) : Out :=
  commit s (csrWrite8 s (bSCHED + 0x510) (st.toNat + 2 ^ 20))

/-- STREAM_RECONFIGURE (R314): STRMCMD with OP 2. -/
def execStreamReconfigure (st : StreamId) (img : BitVec 24) (s : State) : Out :=
  commit s (csrWrite8 s (bSCHED + 0x510) (st.toNat + 2 ^ 21 + img.toNat * 2 ^ 24))

/-- ENABLE (R445): FNCTL with the field of function f at 0, the others as they are. -/
def execEnable (f : Fin 8) (s : State) : Out :=
  commit s (csrWrite8 s (bSCHED + 0xC00) (setFld s.sched.fnctl (2 * f.val + 1) (2 * f.val) 0).toNat)

/-- DRAIN (R445): FNCTL with the field of function f at 1, the others as they are. -/
def execDrain (f : Fin 8) (s : State) : Out :=
  commit s (csrWrite8 s (bSCHED + 0xC00) (setFld s.sched.fnctl (2 * f.val + 1) (2 * f.val) 1).toNat)

/-- ABORT (R445): FNCTL with the field of function f at 2, the others as they are. -/
def execAbort (f : Fin 8) (s : State) : Out :=
  commit s (csrWrite8 s (bSCHED + 0xC00) (setFld s.sched.fnctl (2 * f.val + 1) (2 * f.val) 2).toNat)

/-- PCLR (R324, Table 11-11). -/
def execPclr (s : State) : Out :=
  commit s (csrWrite8 s (bSTORE + 0x18) (2 ^ 63))

/-- FABADMIT (R378). -/
def execFabadmit (d : DevId) (s : State) : Out :=
  commit s (csrWrite8 s (bSCHED + 0x618) d.toNat)

/-- FABCFG_WRITE (Table 13-7). -/
def execFabcfgWrite (v : W64) (s : State) : Out :=
  commit s (csrWrite8 s (bSCHED + 0x600) v.toNat)

/-- SLAY_WRITE (R297). -/
def execSlayWrite (i : Fin 3) (v : W64) (s : State) : Out :=
  commit s (csrWrite8 s (bSTORE + 8 * i.val) v.toNat)

/-- SPACE_WRITE (R394): DSPCA k, or DSPCB k. -/
def execSpaceWrite (k : BitVec 6) (b : Bool) (v : W64) (s : State) : Out :=
  commit s (csrWrite8 s (bSCHED + 0x800 + 16 * k.toNat + (if b then 8 else 0)) v.toNat)

/-- HRESV_WRITE (R428). -/
def execHresvWrite (h : HoofId) (v : W64) (s : State) : Out :=
  commit s (csrWrite8 s (hoofReg h 0x408) v.toNat)

/-- PWRCTL_WRITE (R432). -/
def execPwrctlWrite (v : W64) (s : State) : Out :=
  commit s (csrWrite8 s 0x300 v.toNat)

/-- VECSTAT_WRITE (R266, Table 9-11). -/
def execVecstatWrite (v : W64) (s : State) : Out :=
  commit s (csrWrite8 s bVEC v.toNat)

/-- DRSTAT_WRITE (R354, Table 12-9). -/
def execDrstatWrite (v : W64) (s : State) : Out :=
  commit s (csrWrite8 s (bVEC + 0x208) v.toNat)

/-- LSTAT_WRITE (R383, Table 13-11). -/
def execLstatWrite (p : FabPort) (v : W64) (s : State) : Out :=
  commit s (csrWrite8 s (bFAB + p.toNat * 0x10000) v.toNat)

/-- MLOGPTR_WRITE (R426, Table 15-7). -/
def execMlogptrWrite (v : W64) (s : State) : Out :=
  commit s (csrWrite8 s 0x218 v.toNat)

/-- FLTSTAT_WRITE (R420, Table 15-6). -/
def execFltstatWrite (v : W64) (s : State) : Out :=
  commit s (csrWrite8 s 0x200 v.toNat)

/-- THERM_WRITE (R436, Table 16-10). -/
def execThermWrite (v : W64) (s : State) : Out :=
  commit s (csrWrite8 s 0x310 v.toNat)

/-- SBSTAT_READ (R182). -/
def execSbstatRead (s : State) : Out :=
  commit s (csrRead8 s (bSCHED + 0x400))

/-- ARRHS_READ (R239). -/
def execArrhsRead (s : State) : Out :=
  commit s (csrRead8 s (bARRAY + 0x10))

/-- ARRMAC_READ (R239). -/
def execArrmacRead (s : State) : Out :=
  commit s (csrRead8 s (bARRAY + 0x18))

/-- SHDCNT0_READ (R266). -/
def execShdcnt0Read (s : State) : Out :=
  commit s (csrRead8 s (bVEC + 0x110))

/-- SHDCNT1_READ (R266). -/
def execShdcnt1Read (s : State) : Out :=
  commit s (csrRead8 s (bVEC + 0x118))

/-- GRCNT_READ (R291). -/
def execGrcntRead (h : HoofId) (s : State) : Out :=
  commit s (csrRead8 s (hoofReg h 0x200))

/-- SHOLD_READ (R324). -/
def execSholdRead (s : State) : Out :=
  commit s (csrRead8 s (bSTORE + 0x20))

/-- STRMCNT_READ (R324). -/
def execStrmcntRead (s : State) : Out :=
  commit s (csrRead8 s (bSCHED + 0x508))

/-- DRCNT_READ (R354). -/
def execDrcntRead (s : State) : Out :=
  commit s (csrRead8 s (bVEC + 0x210))

/-- FABCNT0_READ (R383). -/
def execFabcnt0Read (s : State) : Out :=
  commit s (csrRead8 s (bSCHED + 0x628))

/-- FABCNT1_READ (R383). -/
def execFabcnt1Read (s : State) : Out :=
  commit s (csrRead8 s (bSCHED + 0x630))

/-- LSTAT_READ (R383). -/
def execLstatRead (p : FabPort) (s : State) : Out :=
  commit s (csrRead8 s (bFAB + p.toNat * 0x10000))

/-- HECC_READ (R404). -/
def execHeccRead (h : HoofId) (s : State) : Out :=
  commit s (csrRead8 s (hoofReg h 0x308))

/-- PARCNT_READ (R404). -/
def execParcntRead (h : HoofId) (s : State) : Out :=
  commit s (csrRead8 s (hoofReg h 0x318))

/-- FLTCNT_READ (R427). -/
def execFltcntRead (s : State) : Out :=
  commit s (csrRead8 s 0x210)

/-- HPSTAT_READ (R461). -/
def execHpstatRead (p : HostPort) (s : State) : Out :=
  commit s (csrRead8 s (bHOST + 0x100 + 8 * p.toNat))

/-- HLSTAT_READ (R463). -/
def execHlstatRead (h : HoofId) (s : State) : Out :=
  commit s (csrRead8 s (hoofReg h 0x500))

/-- REGISTER_WRITE (R17): any register of CSR space; an offset that is no multiple of 8 names no register (R469). -/
def execRegisterWrite (off : BitVec 28) (v : W64) (s : State) : Out :=
  commit s (if off.toNat % 8 = 0 then csrWrite8 s off.toNat v.toNat else s)

end Sys2Proof.Machine
end

