-- ==== Sys2Proof/Machine/Camka.lean ====
section
/-!
DEFINITION. The scalar instructions (Table 6-3), the engine word (R155) and the two events at an instruction boundary (R164, R171). A
scalar command says that core c meets that instruction at its PC (notes/assumptions/8).
-/

namespace Sys2Proof.Machine

/-- OP (R150, Table 6-4). FUNC above 15, and CLZ with rs2 other than s0, are reserved. -/
def execOp (c : CoreId) (rd rs1 rs2 : BitVec 5) (func : BitVec 6) (s : State) : Out :=
  commit s (writesS s c.toNat 0x01 func.toNat (decide (func.toNat ≤ 15) && (decide (func.toNat ≠ 15) || decide (rs2 = 0))) rd.toNat
    (fun k => aluOp func.toNat (k.getS rs1.toNat) (k.getS rs2.toNat)))

/-- ADDI. -/
def execAddi (c : CoreId) (rd rs1 : BitVec 5) (imm : BitVec 16) (s : State) : Out :=
  commit s (writesS s c.toNat 0x02 0 true rd.toNat (fun k => k.getS rs1.toNat + simm16 imm))

/-- ANDI. -/
def execAndi (c : CoreId) (rd rs1 : BitVec 5) (imm : BitVec 16) (s : State) : Out :=
  commit s (writesS s c.toNat 0x03 0 true rd.toNat (fun k => k.getS rs1.toNat &&& zimm16 imm))

/-- ORI. -/
def execOri (c : CoreId) (rd rs1 : BitVec 5) (imm : BitVec 16) (s : State) : Out :=
  commit s (writesS s c.toNat 0x04 0 true rd.toNat (fun k => k.getS rs1.toNat ||| zimm16 imm))

/-- XORI. -/
def execXori (c : CoreId) (rd rs1 : BitVec 5) (imm : BitVec 16) (s : State) : Out :=
  commit s (writesS s c.toNat 0x05 0 true rd.toNat (fun k => k.getS rs1.toNat ^^^ zimm16 imm))

/-- SHI: amount imm[5:0], kind imm[7:6]; kind 3 and imm[15:8] are reserved. -/
def execShi (c : CoreId) (rd rs1 : BitVec 5) (imm : BitVec 16) (s : State) : Out :=
  commit s (writesS s c.toNat 0x06 0 (decide (imm.toNat < 192)) rd.toNat
    (fun k => shiOp (bits imm.toNat 7 6) (bits imm.toNat 5 0) (k.getS rs1.toNat)))

/-- LI: a sign-extended 53-bit immediate of two parcels. -/
def execLi (c : CoreId) (rd : BitVec 5) (imm : BitVec 21) (lo : W32) (s : State) : Out :=
  commit s (scalar s c.toNat 8 0x07 0 true (fun k => s.setCore c.toNat ((k.setS rd.toNat ((imm ++ lo).signExtend 64)).adv 8)))

/-- CMP into predicate rd[2:0]; FUNC above 5 and rd[4:3] other than 0 are reserved. -/
def execCmp (c : CoreId) (rd rs1 rs2 : BitVec 5) (func : BitVec 6) (s : State) : Out :=
  commit s (writesP s c.toNat 0x08 func.toNat (decide (func.toNat ≤ 5) && decide (rd.toNat < 8)) rd.toNat
    (fun k => cmpOp func.toNat (k.getS rs1.toNat) (k.getS rs2.toNat)))

/-- CMPI into predicate rd[2:0], kind rd[4:3]. -/
def execCmpi (c : CoreId) (rd rs1 : BitVec 5) (imm : BitVec 16) (s : State) : Out :=
  commit s (writesP s c.toNat 0x09 0 true (rd.toNat % 8) (fun k => cmpOp (rd.toNat / 8) (k.getS rs1.toNat) (simm16 imm)))

/-- PLOG; FUNC above 3 and register fields above 7 are reserved. -/
def execPlog (c : CoreId) (rd rs1 rs2 : BitVec 5) (func : BitVec 6) (s : State) : Out :=
  commit s (writesP s c.toNat 0x0A func.toNat
    (decide (func.toNat ≤ 3) && decide (rd.toNat < 8) && decide (rs1.toNat < 8) && decide (rs2.toNat < 8)) rd.toNat
    (fun k => plogOp func.toNat (k.getP rs1.toNat) (k.getP rs2.toNat)))

/-- LD (R151). -/
def execLd (c : CoreId) (rd rs1 : BitVec 5) (imm : BitVec 16) (s : State) : Out := commit s (loadInstr s c.toNat 0x10 8 rd rs1 imm)
/-- ST (R151). -/
def execSt (c : CoreId) (rd rs1 : BitVec 5) (imm : BitVec 16) (s : State) : Out := commit s (storeInstr s c.toNat 0x11 8 rd rs1 imm)
/-- LD32 (R151). -/
def execLd32 (c : CoreId) (rd rs1 : BitVec 5) (imm : BitVec 16) (s : State) : Out := commit s (loadInstr s c.toNat 0x12 4 rd rs1 imm)
/-- ST32 (R151). -/
def execSt32 (c : CoreId) (rd rs1 : BitVec 5) (imm : BitVec 16) (s : State) : Out := commit s (storeInstr s c.toNat 0x13 4 rd rs1 imm)

/-- BR: when p xor NEG, pc = pc + 4 * off22. -/
def execBr (c : CoreId) (p : BitVec 3) (neg : Bool) (off : BitVec 22) (s : State) : Out :=
  commit s (scalar s c.toNat 4 0x18 0 true (fun k =>
    s.setCore c.toNat (if k.getP p.toNat ^^ neg then { k with pc := k.pc + (off.signExtend 64 <<< 2) } else k.adv 4)))

/-- JAL. -/
def execJal (c : CoreId) (rd : BitVec 5) (imm : BitVec 21) (s : State) : Out :=
  commit s (scalar s c.toNat 4 0x19 0 true (fun k =>
    s.setCore c.toNat { (k.setS rd.toNat (k.pc + 4)) with pc := k.pc + (imm.signExtend 64 <<< 2) }))

/-- JR: bits [1:0] of the target are ignored; the target is read before rd is written. -/
def execJr (c : CoreId) (rd rs1 : BitVec 5) (imm : BitVec 16) (s : State) : Out :=
  commit s (scalar s c.toNat 4 0x1A 0 true (fun k =>
    s.setCore c.toNat { (k.setS rd.toNat (k.pc + 4)) with pc := (k.getS rs1.toNat + simm16 imm) &&& ~~~3#64 }))

/-- WAIT (R164). -/
def execWait (c : CoreId) (rd rs1 : BitVec 5) (s : State) : Out :=
  commit s (scalar s c.toNat 4 0x20 0 true (fun k =>
    let tk := (k.getS rs1.toNat).toNat % 65536
    match viewTicket s c.toNat tk with
    | .gone => s.setCore c.toNat ((k.setS rd.toNat 0xFF).adv 4)
    | .flying => s.setCore c.toNat { k with stall := some (.wait rd.toNat tk) }
    | .done t o => waitFrees (s.setCore c.toNat ((k.setS rd.toNat (BitVec.ofNat 64 (finalStatus o))).adv 4)) t o))

/-- SUMM (R164). -/
def execSumm (c : CoreId) (rd rs1 : BitVec 5) (s : State) : Out :=
  commit s (scalar s c.toNat 4 0x21 0 true (fun k =>
    let tk := (k.getS rs1.toNat).toNat % 65536
    match viewTicket s c.toNat tk with
    | .gone => s.setCore c.toNat ((k.setS rd.toNat 0).adv 4)
    | .flying => s.setCore c.toNat { k with stall := some (.summ rd.toNat tk) }
    | .done _ o => s.setCore c.toNat ((k.setS rd.toNat (BitVec.ofNat 64 (summaryOf o))).adv 4)))

/-- TSTS (R170): bit imm[5:0]; imm[15:6] and rd[4:3] are reserved. -/
def execTsts (c : CoreId) (rd rs1 : BitVec 5) (imm : BitVec 16) (s : State) : Out :=
  commit s (scalar s c.toNat 4 0x22 0 (decide (imm.toNat < 64) && decide (rd.toNat < 8)) (fun k =>
    let tk := (k.getS rs1.toNat).toNat % 65536
    match viewTicket s c.toNat tk with
    | .gone => s.setCore c.toNat ((k.setP rd.toNat false).adv 4)
    | .flying => s.setCore c.toNat { k with stall := some (.tsts rd.toNat imm.toNat tk) }
    | .done _ o => s.setCore c.toNat ((k.setP rd.toNat (bitAt (summaryOf o) imm.toNat)).adv 4)))

/-- FENCE (R176): kind imm[1:0], 3 reserved; kind 1 covers rs1 to rs1 + rd - 1, and the other kinds use neither field, so both are
reserved (R149). -/
def execFence (c : CoreId) (rd rs1 : BitVec 5) (imm : BitVec 16) (s : State) : Out :=
  commit s (scalar s c.toNat 4 0x23 0 (decide (imm.toNat < 3) && (decide (imm.toNat = 1) || (decide (rd = 0) && decide (rs1 = 0)))) (fun k =>
    let ts := fenceSet s c.toNat imm.toNat (k.getS rs1.toNat).toNat (k.getS rd.toNat).toNat
    if fenceAwaits s imm.toNat (k.getS rd.toNat).toNat then s else s.setCore c.toNat (if ts.isEmpty then k.adv 4 else { k with stall := some (.fence ts) })))

/-- MFS (R153). -/
def execMfs (c : CoreId) (rd : BitVec 5) (imm : BitVec 16) (s : State) : Out :=
  commit s (scalar s c.toNat 4 0x24 0 (readSpecial s c.toNat imm.toNat).isSome (fun k =>
    s.setCore c.toNat (((readSpecialFx k imm.toNat).setS rd.toNat ((readSpecial s c.toNat imm.toNat).getD 0)).adv 4)))

/-- MTS (R153). -/
def execMts (c : CoreId) (rs1 : BitVec 5) (imm : BitVec 16) (s : State) : Out :=
  commit s (scalar s c.toNat 4 0x25 0 (writeSpecial (s.core c.toNat) imm.toNat 0).isSome (fun k =>
    s.setCore c.toNat (((writeSpecial k imm.toNat (k.getS rs1.toNat)).getD k).adv 4)))

/-- TRET (R171): clears IN_TRAP and continues at EPC. -/
def execTret (c : CoreId) (s : State) : Out :=
  commit s (scalar s c.toNat 4 0x26 0 true (fun k => s.setCore c.toNat { k with inTrap := false, pc := k.epc }))

/-- BRK: the precise trap BREAK. -/
def execBrk (c : CoreId) (s : State) : Out :=
  commit s (scalar s c.toNat 4 0x27 0 true (fun _ => preciseTrap s c.toNat (preciseRec s c.toNat causeBREAK 0 0x27 0 0 0)))

/-- DRX (R150): Dritex under DRXKEY, PURPOSE 0x07; rd must be even and not s0. -/
def execDrx (c : CoreId) (rd rs1 rs2 : BitVec 5) (s : State) : Out :=
  commit s (scalar s c.toNat 4 0x28 0 (decide (rd.toNat % 2 = 0) && decide (rd ≠ 0)) (fun k =>
    let y := dritex s.sched.drxkey.toNat
      (drxCtr (k.getS rs1.toNat).toNat (stepn s).toNat 7 (k.getS rs2.toNat).toNat)
    s.setCore c.toNat (((k.setS rd.toNat (BitVec.ofNat 64 y)).setS (rd.toNat + 1) (BitVec.ofNat 64 (y / 2 ^ 64))).adv 4)))

/-- HALT (R146): the core stops at the next instruction. -/
def execHalt (c : CoreId) (s : State) : Out :=
  commit s (scalar s c.toNat 4 0x29 0 true (fun k => s.setCore c.toNat { (k.adv 4) with running := false, byHalt := true }))

/-- ENGINE_WORD (R155, R475). Parcels that do not begin an engine word and are reserved take the trap ILLEGAL (R150). -/
def execEngineWord (c : CoreId) (w : BitVec 128) (s : State) : Out :=
  commit s (if bits w.toNat 5 0 ≠ 0x3F then coreParcel s c.toNat w.toNat
    else if ¬ coreReady s c.toNat then s
    else turned s c.toNat (if ¬ fetchOk s (s.core c.toNat).pc 16 then trapAddr s c.toNat 0x3F else coreWord s c.toNat w))

/-- PENDING_TRAP (R171). -/
def execPendingTrap (c : CoreId) (s : State) : Out := commit s (boundaryTrap s c.toNat)

/-- CORE_STALL_END (R164, R176). -/
def execCoreStallEnd (c : CoreId) (s : State) : Out := commit s (stallEnd s c.toNat)

end Sys2Proof.Machine
end

