-- ==== Sys2Proof/Machine/Context.lean ====
section
/-!
DEFINITION. Context save and restore (R446-R449): CTXS and CTXR, their descriptor and the image.
-/

namespace Sys2Proof.Machine

/-- Fields of a CTXS or CTXR descriptor (Table 16-6). -/
structure CtxD where
  dev  : Nat
  addr : Nat
  akey : Nat
  sect : Nat
  rset : Nat
  cap  : Nat
deriving DecidableEq, Repr

/-- Read a descriptor. -/
def parseCtx (b : List Byte) : CtxD :=
  let a := fieldAt b 0 8
  { dev := bits a 63 52, addr := bits a 51 0, akey := fieldAt b 8 4, sect := bits (fieldAt b 12 2) 5 0, rset := bits (fieldAt b 16 4) 23 0 * 64,
    cap := fieldAt b 24 8 }

/-- Does a control core other than the issuer run? -/
def otherCore (s : State) (o : Op) : Bool :=
  (List.range 16).any (fun c => (s.core c).running && (match o.src with | .core k _ => decide (k ≠ c) | _ => true))

/-- Is any slot held for WAIT (R164)? -/
def slotHeld (s : State) : Bool := (busySlots s).any (fun e => e.2.hold && decide (e.2.phase = .held))

/-- Bytes of this device that an image on it, or on a device whose mirror it is, may take (R32, R446). -/
def ctxRange (s : State) (d : CtxD) (wr : Bool) : List Range :=
  if d.dev = s.dev ∨ mirrorOf s d.dev = some s.dev then [rngL d.addr (Nat.min d.cap (2 ^ 52)) wr] else []

/-- Acceptance check of CTXS or CTXR (R446). -/
def ctxCheck (save : Bool) (s : State) (o : Op) : Chk :=
  withDesc s o 64 (fun b =>
    let d := parseCtx b
    if !s.steps.isEmpty || slotHeld s || otherCore s o || decide (d.addr % 64 ≠ 0) then .illegal
    else if save ∧ bitAt d.sect 5 then
      (match badAddr s (storeBase + d.rset) 512 with
       | some x => .bad 0x16 x
       | none => .ok (ctxRange s d save) [] b [])
    else .ok (ctxRange s d save) [] b [])

/-- An accepted context operation holds back every other engine word and arriving request until it completes (R446). -/
def quiesceFor (s : State) (t : Nat) : State :=
  match s.op t with
  | some o => if o.phase = .waiting then { s with quiesce := some t } else s
  | none => s

/-! ### The image (R447) -/

/-- The 512 bytes of a core: s1-s31, p1-p7 as bits 1 to 7 of a byte, then from byte 256 EPC, TVEC, TQBASE, TQHEAD, STREAM and the PC of
the next instruction (DESIGN CHOICE 22). -/
def coreBytes (s : State) (o : Op) (c : Nat) : List Byte :=
  let k := s.core c
  let pc : Nat := match o.src with | .core j pc => if j = c then pc + 16 else k.pc.toNat | _ => k.pc.toNat
  let ps := (List.range 8).foldl (fun a i => if k.getP i ∧ i ≠ 0 then a + 2 ^ i else a) 0
  (List.range 31).flatMap (fun i => leBytes 8 (k.getS (i + 1)).toNat) ++ leBytes 8 ps ++ leBytes 8 k.epc.toNat ++ leBytes 8 k.tvec.toNat
    ++ leBytes 8 k.tqbase.toNat ++ leBytes 8 k.tqhead.toNat ++ leBytes 8 k.stream.toNat ++ leBytes 8 pc ++ List.replicate 208 0

/-- Descriptors of the open streams of KIND 0 and 1. -/
def streamBytes (s : State) : List Byte := (s.strms.filter (fun e => e.2.kind < 2)).flatMap (fun e => strmBytes e.1 e.2)

/-- Insert an interval by its start. -/
def insArea (a : Nat × Nat) : List (Nat × Nat) → List (Nat × Nat)
  | [] => [a]
  | b :: l => if a.1 ≤ b.1 then a :: b :: l else b :: insArea a l

/-- What areas sorted by start leave of the store from an offset on. -/
def gapsFrom (p : Nat) : List (Nat × Nat) → List (Nat × Nat)
  | [] => if p < storeSize then [(p, storeSize - p)] else []
  | a :: l => if p < a.1 then (p, a.1 - p) :: gapsFrom (a.1 + a.2) l else gapsFrom (Nat.max p (a.1 + a.2)) l

/-- Software space (Table 11-1): what the five placed areas leave, ascending. -/
def softAreas (u : Units) : List (Nat × Nat) :=
  let placed := [(rdTable u, 262144), (velTable u, 262144), bucketArea u, transitPool u, spillArea u]
  gapsFrom 0 (placed.foldl (fun l a => insArea a l) [])

/-- The record of a region's data: 64 bytes with its index, then elements, block bytes or words, lo codes. -/
def regionRecord (s : State) (i : Nat) : List Byte :=
  leBytes 2 i ++ List.replicate 62 0 ++ (s.region i).areas.flatMap (fun a => rdLocal s a.1 a.2)

/-- Regions that RSET selects. -/
def rsetRegions (s : State) (d : CtxD) : List Nat := bitmapList (s.stBytes d.rset 512)

/-- The bytes of section k. -/
def sectionBytes (s : State) (o : Op) (d : CtxD) (k : Nat) : List Byte :=
  match k with
  | 0 => (List.range 16).flatMap (coreBytes s o)
  | 1 => streamBytes s
  | 2 => s.stBytes (rdTable s.units) 262144
  | 3 => s.stBytes (velTable s.units) 262144
  | 4 => (softAreas s.units).flatMap (fun a => s.stBytes a.1 a.2)
  | _ => (rsetRegions s d).flatMap (regionRecord s)

/-- Sections of the image in the order of the SECT bits: number, offset, bytes. -/
def ctxSections (s : State) (o : Op) (d : CtxD) : List (Nat × Nat × List Byte) :=
  ((List.range 6).filter (bitAt d.sect)).foldl (fun acc k =>
    let off := match acc.getLast? with | some e => e.2.1 + e.2.2.length | none => 4096
    acc ++ [(k, off, sectionBytes s o d k)]) []

/-- The header without its CRC (Table 16-7). Directory entry k belongs to section k. -/
def ctxHeader (s : State) (d : CtxD) (secs : List (Nat × Nat × List Byte)) : List Byte :=
  let part := match s.part with | .rlu12 => 0x0C | .rlu8 => 0x08
  let dir := (List.range 8).flatMap (fun k => match secs.find? (fun e => e.1 = k) with
    | some e => leBytes 8 e.2.1 ++ leBytes 8 e.2.2.length
    | none => leBytes 16 0)
  leBytes 2 1 ++ leBytes 1 part ++ [s.stepping] ++ leBytes 2 d.sect ++ leBytes 2 0 ++ leBytes 4 (s.car.lastClosed.getD 0xFFFFFFFF) ++ leBytes 4 0
    ++ leBytes 8 s.units.slay0.toNat ++ leBytes 8 s.units.slay1.toNat ++ leBytes 8 s.units.slay2.toNat ++ leBytes 8 s.sched.drxseed.toNat
    ++ leBytes 8 s.sched.scalepol.toNat ++ leBytes 8 0 ++ dir ++ List.replicate 3900 0

/-- Header and body of the image: CRC-32 over all of it with its own four bytes zero. -/
def ctxImage (s : State) (o : Op) (d : CtxD) : List Byte × List Byte :=
  let secs := ctxSections s o d
  let body := secs.flatMap (fun e => e.2.2)
  let h := ctxHeader s d secs
  (h ++ leBytes 4 (crc32 (h ++ leBytes 4 0 ++ body)), body)

/-! ### Moving an image -/

/-- Descriptor of a transfer between the image and the block (Table 13-1). -/
def remDesc (d : CtxD) (off n : Nat) : List Byte :=
  leBytes 8 (d.addr + off + d.dev * 2 ^ 52) ++ leBytes 8 0 ++ leBytes 4 n ++ leBytes 4 d.akey ++ List.replicate 40 0

/-- Largest transfer of one request (R357). -/
def ctxChunk : Nat := 2 ^ 28

/-- Send one request of a context operation for the image's bytes at `off`: a write of `bs`, or a read of n bytes. -/
def ctxSend (s : State) (t : Nat) (o : Op) (d : CtxD) (q off n : Nat) (bs : Option (List Byte)) : Option State :=
  match allocSub s t o (if bs.isSome then 0x14 else 0x13) 0 0 [off] q with
  | none => none
  | some (s1, u) =>
    let s2 := s1.onOp u (fun p => { p with desc := remDesc d off n })
    let hdr := reqHeader s2 o (ticketOf s2 u) (if bs.isSome then 0x02 else 0x01) q d.akey (d.addr + off)
    some (sendRequest s2 u q (match bs with | some b => partsOf hdr b | none => readParts hdr n) none)

/-- Send the requests for [off, off + n) of the image; none when a slot is missing, and nothing is sent then. -/
def ctxSendAll (s : State) (t : Nat) (o : Op) (d : CtxD) (q off n : Nat) (bs : Option (List Byte)) : Option State :=
  (List.range (cdiv n ctxChunk)).foldl (fun acc i => acc.bind (fun s =>
    let k := Nat.min ctxChunk (n - i * ctxChunk)
    ctxSend s t o d q (off + i * ctxChunk) (cdiv k 64 * 64) (bs.map (fun b => pad64 ((b.drop (i * ctxChunk)).take k))))) (some s)

/-- The requests have been sent: the operation's progress. -/
def ctxStage (s : State) (t k : Nat) : State := s.onOp t (fun p => { p with progress := k })

/-! ### CTXS -/

/-- Must CTXS end with ILLEGAL: RSET selects a staging or invalid region, or the image exceeds CAP (R447)? -/
def saveBad (s : State) (d : CtxD) (body : List Byte) : Bool :=
  (bitAt d.sect 5 && (rsetRegions s d).any (fun i => !(s.region i).valid || (s.region i).stg)) || decide (d.cap < 4096 + body.length)

/-- The next part of the work of CTXS: the sections, then the header (R447). -/
def saveWork (s : State) (t : Nat) (o : Op) : State :=
  let d := parseCtx o.desc
  if o.subs ≠ 0 then s
  else if o.aborted then endAborted s t 0
  else if 0x10 ≤ o.status then endOp s t o.status o.detail
  else if o.progress = 2 then endOp s t 0 0
  else
    let im := ctxImage s o d
    if saveBad s d im.2 then endIllegal s t
    else match remServer s d.dev d.addr with
      | none => endOp s t 0x12 d.dev
      | some q =>
        if q = s.dev then
          let x := if im.2 = [] then (s, 0, 0) else serveWrite s t (ownRefusal s (tenantOf s o) d.akey (d.addr + 4096) (pad64 im.2).length) (d.addr + 4096) (pad64 im.2)
          if 0x10 ≤ x.2.1 then endOp x.1 t x.2.1 x.2.2
          else (let y := serveWrite x.1 t (ownRefusal x.1 (tenantOf s o) d.akey d.addr 4096) d.addr im.1; endOp y.1 t y.2.1 y.2.2)
        else if o.progress = 0 ∧ im.2 ≠ [] then
          match ctxSendAll s t o d q 4096 im.2.length (some im.2) with
          | some s1 => ctxStage s1 t 1
          | none => s
        else match ctxSendAll s t o d q 0 4096 (some im.1) with
          | some s1 => ctxStage s1 t 2
          | none => s

/-- CTXS (R446, R447). -/
def execCtxs (t : SlotId) (s : State) : Host.Outcome State Fault Refusal :=
  commit s (
    let n := t.toNat
    let s1 := opRow s n 0x60 (fun _ _ => false) (ctxCheck true) (fun s o => saveWork s n o)
    if isIssued s n 0x60 then quiesceFor s1 n else s1)

/-! ### CTXR -/

/-- Offset and length of section k by the header. -/
def dirEntry (h : List Byte) (k : Nat) : Nat × Nat := (fieldAt h (64 + 16 * k) 8, fieldAt h (72 + 16 * k) 8)

/-- Sections that an image holds. -/
def imageSect (h : List Byte) : Nat := bits (fieldAt h 4 2) 5 0

/-- Length of an image by its header. -/
def imageLen (h : List Byte) : Nat :=
  ((List.range 6).filter (bitAt (imageSect h))).foldl (fun n k => Nat.max n ((dirEntry h k).1 + (dirEntry h k).2)) 4096

/-- Bytes of section k of an image. -/
def imageSection (im : List Byte) (k : Nat) : List Byte := (im.drop (dirEntry im k).1).take (dirEntry im k).2

/-- Is the image whole: FORM and CRC (R448)? -/
def imageWhole (im : List Byte) : Bool :=
  let n := imageLen im
  decide (fieldAt im 0 2 = 1) && decide (n ≤ im.length)
  && decide (fieldAt im 4092 4 = crc32 (im.take 4092 ++ leBytes 4 0 ++ (im.take n).drop 4096))

/-- Does a target descriptor agree with the image's, where CTXR must find them equal (R448)? -/
def descAgrees (a b : Region) : Bool :=
  b.valid && decide (a.fmt = b.fmt) && decide (a.length = b.length) && decide (a.lbase = b.lbase) && decide (a.sparse = b.sparse)
  && decide (a.perStep = b.perStep) && decide (a.comp = b.comp) && decide (a.par = b.par) && decide (a.stg = b.stg)
  && decide (a.tenant = b.tenant) && decide (a.akey = b.akey)

/-- Must CTXR end with ILLEGAL, having changed nothing (R448)? Regions that the image holds as invalid are not compared (DEDUCED,
notes/assumptions/22). -/
def restoreBad (s : State) (d : CtxD) (im : List Byte) : Bool :=
  let slay := fun (k : Nat) => fieldAt im (16 + 8 * k) 8
  !(imageWhole im) || decide (d.sect &&& imageSect im ≠ d.sect)
  || decide (slay 0 ≠ s.units.slay0.toNat) || decide (slay 1 ≠ s.units.slay1.toNat) || decide (slay 2 ≠ s.units.slay2.toNat)
  || (bitAt d.sect 2 && (List.range 4096).any (fun i =>
        let a := parseRegion (((imageSection im 2).drop (64 * i)).take 64)
        a.valid && !(descAgrees a (s.region i))))

/-- A descriptor of the image with BASE, BBASE, LOBASE, HSET, IKEY, MIRROR and NS of the target's own (R448). -/
def mergeDesc (own img : List Byte) : List Byte :=
  let low12 := fun (o : Nat) => leBytes 2 (fieldAt img o 2 / 4096 * 4096 + fieldAt own o 2 % 4096)
  own.take 16 ++ (img.drop 16).take 16 ++ low12 32 ++ (img.drop 34).take 4 ++ low12 38 ++ (img.drop 40).take 4 ++ (own.drop 44).take 12
    ++ (img.drop 56).take 8

/-- Restore the region descriptors. -/
def restoreRegions (s : State) (b : List Byte) : State :=
  (List.range 4096).foldl (fun s i =>
    let a := rdAddr s i
    { s with store := writeBytes s.store a (mergeDesc (s.stBytes a 64) ((b.drop (64 * i)).take 64)) }) s

/-- Restore software space. -/
def restoreSoft (s : State) (b : List Byte) : State :=
  ((softAreas s.units).foldl (fun acc a =>
    ({ acc.1 with store := writeBytes acc.1.store a.1 (acc.2.take a.2) }, acc.2.drop a.2)) (s, b)).1

/-- Restore one core: halted at its saved PC, for WAKE to resume. -/
def restoreCore (s : State) (b : List Byte) (c : Nat) : State :=
  let k := s.core c
  let q := fun (o : Nat) => BitVec.ofNat 64 (fieldAt b o 8)
  let k1 := (List.range 31).foldl (fun k i => k.setS (i + 1) (q (8 * i))) k
  let k2 := (List.range 8).foldl (fun k i => k.setP i (bitAt (fieldAt b 248 1) i)) k1
  s.setCore c { k2 with epc := q 256 &&& ~~~3#64, tvec := q 264, tqbase := q 272, tqhead := BitVec.ofNat 5 (fieldAt b 280 8),
                        stream := BitVec.ofNat 20 (fieldAt b 288 8), pc := q 296, running := false, byHalt := true, stall := none }

/-- Restore the control cores. -/
def restoreCores (s : State) (b : List Byte) : State := (List.range 16).foldl (fun s c => restoreCore s ((b.drop (512 * c)).take 512) c) s

/-- A stream of the image: its own operations in flight here are counted anew. -/
def imageStrm (s : State) (b : List Byte) : Nat × Strm :=
  let i := parseStrm b
  let n := i.num
  (n, { i.strm (fieldAt b 26 6) with pin := bitAt (fieldAt b 0 4) 21, infl := (busySlots s).countP (fun e => e.2.stream = n && e.2.inFlight) })

/-- Restore the streams of KIND 0 and 1: the image's replace those that are open. -/
def restoreStreams (s : State) (b : List Byte) : State :=
  let new := (List.range (b.length / 64)).map (fun k => imageStrm s ((b.drop (64 * k)).take 64))
  let kept := s.strms.filter (fun e => decide (e.2.kind = 2))
  new.foldl (fun s e => let s1 := s.setStrm e.1 e.2; if 8192 < residents s1 then spillStrm s1 e.1 else s1) { s with strms := kept }

/-- Restore the data records, each through the target's placement (R395, R400); a record whose region is invalid here ends them. -/
def restoreData (s : State) (t : Nat) : Nat → List Byte → State
  | 0, _ => s
  | k + 1, b =>
    if b.length < 64 then s
    else
      let r := s.region (fieldAt b 0 2 % 4096)
      if ¬ r.valid then s
      else
        let x := r.areas.foldl (fun (acc : State × List Byte) a => (wrLocal acc.1 t a.1 (acc.2.take a.2), acc.2.drop a.2)) (s, b.drop 64)
        restoreData x.1 t k x.2

/-- Clear both halves of every staging region as CLRS does (R289, R448). -/
def clearStaging (s : State) (t : Nat) : State :=
  ((List.range 4096).filter (fun i => (s.region i).valid && (s.region i).stg)).foldl (fun s i =>
    let r := s.region i
    (List.range 2).foldl (fun s half => clearHalf s t r half (targetC r.fmt (s.velvet r.velv)) (clrsStep s half % 2 ^ 32)) s) s

/-- DRXSEED, DRXKEY, SCALEPOL and the steps from the header (R130, R448); without VELVET an event of R119. -/
def restoreHeader (s : State) (d : CtxD) (im : List Byte) : State :=
  let pol := BitVec.ofNat 64 (fieldAt im 48 8)
  let pol := if bitAt d.sect 3 then pol else setFld pol 31 16 (fld pol 15 0)
  let n := fieldAt im 8 4
  { s with sched := { s.sched with drxseed := BitVec.ofNat 64 (fieldAt im 40 8), drxkey := BitVec.ofNat 64 (fieldAt im 40 8), scalepol := pol },
           car := { s.car with anyOpened := false, closedOnce := false, lastClosed := if n = 0xFFFFFFFF then none else some n } }

/-- The Velvet entries of the valid regions are read: their CHECK, and a reserved SRB (R100, R114). -/
def checkEntries (s : State) : State :=
  let regs := velRegions s
  (velEntries regs).foldl (fun s j => match velOwner regs j with | some own => checkVelvet s j own | none => s) s

/-- Restore what CTXR names (R448), check the entries, and clear the staging halves from the checked ones. -/
def restoreAll (s : State) (t : Nat) (d : CtxD) (im : List Byte) : State :=
  let sec := fun (k : Nat) (f : State → List Byte → State) (s : State) => if bitAt d.sect k then f s (imageSection im k) else s
  let s := sec 2 restoreRegions s
  let s := sec 3 (fun s b => { s with store := writeBytes s.store (velTable s.units) b }) s
  let s := sec 4 restoreSoft s
  let s := sec 1 restoreStreams s
  let s := sec 0 restoreCores s
  let s := sec 5 (fun s b => restoreData s t 4096 b) s
  clearStaging (checkEntries (restoreHeader s d im)) t

/-- The image has been read: it is checked, then restored. -/
def applyImage (s : State) (t : Nat) (d : CtxD) (im : List Byte) : State :=
  if restoreBad s d im ∨ d.cap < imageLen im then endIllegal s t else endOp (restoreAll s t d im) t 0 0

/-- The next part of the work of CTXR: the header, the rest of the image, the restore. -/
def restoreWork (s : State) (t : Nat) (o : Op) : State :=
  let d := parseCtx o.desc
  let im := o.desc.drop 64
  if o.subs ≠ 0 then s
  else if o.aborted then endAborted s t 0
  else if 0x10 ≤ o.status then endOp s t o.status o.detail
  else match remServer s d.dev d.addr with
    | none => endOp s t 0x12 d.dev
    | some q =>
      if q = s.dev then
        let x := serveRead s (ownRefusal s (tenantOf s o) d.akey d.addr 4096) d.addr 4096
        if 0x10 ≤ x.2.1 then endOp x.1 t x.2.1 x.2.2.1
        else
          let n := cdiv (Nat.min (imageLen x.2.2.2) (2 ^ 41)) 64 * 64
          let y := serveRead s (ownRefusal s (tenantOf s o) d.akey d.addr n) d.addr n
          if 0x10 ≤ y.2.1 then endOp y.1 t y.2.1 y.2.2.1 else applyImage y.1 t d y.2.2.2
      else if o.progress = 0 then
        match ctxSendAll (s.onOp t (fun p => { p with desc := p.desc.take 64 ++ List.replicate 4096 0 })) t o d q 0 4096 none with
        | some s1 => ctxStage s1 t 1
        | none => s
      else if o.progress = 1 ∧ fieldAt im 0 2 = 1 ∧ imageLen im ≤ d.cap ∧ 4096 < imageLen im then
        let n := cdiv (imageLen im - 4096) 64 * 64
        match ctxSendAll (s.onOp t (fun p => { p with desc := p.desc.take 4160 ++ List.replicate n 0 })) t o d q 4096 n none with
        | some s1 => ctxStage s1 t 2
        | none => s
      else applyImage s t d im

/-- CTXR (R446, R448). -/
def execCtxr (t : SlotId) (s : State) : Host.Outcome State Fault Refusal :=
  commit s (
    let n := t.toNat
    let s1 := opRow s n 0x61 (fun _ _ => false) (ctxCheck false) (fun s o => restoreWork s n o)
    if isIssued s n 0x61 then quiesceFor s1 n else s1)

end Sys2Proof.Machine
end

