-- ==== Sys2Proof/Machine/Draw.lean ====
section
/-!
DEFINITION. DRAW (R138-R140): a draw from a score row of a region, with the parameters that the command carries (DESIGN CHOICE 3).
-/

namespace Sys2Proof.Machine

/-- Arguments of a DRAW. -/
def drawArgs (p : DrawP) : DrawArgs :=
  { tm := p.tm.toNat, te := sext 8 p.te.toNat, topk := p.topk.toNat, topp := p.topp.toNat, draws := p.draws.toNat, repl := p.repl }

/-- Formats that scores have (Table 5-4). -/
def scoreFmt (fmt : Nat) : Bool := fmt = fK8 || fmt = fK16 || fmt = fL8 || fmt = fA32

/-- Bytes of one result: a 32-bit index, or an initialisation value (DESIGN CHOICE 3). -/
def drawSize (p : DrawP) : Nat := if p.purpose = 6 then 8 * p.count.toNat else 4 * p.draws.toNat

/-- Does DRAW take a purpose (R133): a draw from a score row or a negative draw, or initialisation? The codes 0x00 and 0x08 to 0xFF are reserved, and
the others belong to other operations (DESIGN CHOICE 3). -/
def drawPurpose (p : Nat) : Bool := !(purposeBad p) && (p = 4 || p = 5 || p = 6)

/-- Acceptance check of DRAW (R133, R138). -/
def drawCheck (p : DrawP) (s : State) (o : Op) : Chk :=
  let r := s.region o.region
  let out := storeRange p.out.toNat (drawSize p) true
  if !(drawPurpose p.purpose.toNat) || !(regionOk s r) || r.stg || decide (p.count = 0) || decide (r.length < p.off.toNat + p.count.toNat)
     || (decide (p.purpose ≠ 6) && (!(scoreFmt r.fmt) || !(drawArgs p).ok)) then .illegal
  else match badRanges s [out] with
    | some x => .bad 0x16 x
    | none => .ok ((if p.purpose = 6 then [] else spanRanges r p.off.toNat p.count.toNat false) ++ [out]) [(o.region, r)] [] []

/-- y1:y0 of draw number j (Table 5-3, purposes 0x04 and 0x05). -/
def drawU (key step row purpose tag j : Nat) : Nat := drxU (dritex key (drxCtr row step purpose (j + tag * 1024)))

/-- Value of a logical element under the initialisation purpose (Table 5-3, purpose 0x06), as 8 bytes. -/
def initBytes (key step idx vel tag : Nat) (normal : Bool) : List Byte :=
  let y := dritex key (drxCtr idx step 6 (vel + tag % 2 ^ 28 * 4096))
  leBytes 8 (if normal then uns 64 (drxNormal y) else drxY0 y)

/-- Work of DRAW: its results as 32-bit indices, EMPTY and SHORT in the summary (R140), or the initialisation values of the region's elements. -/
def drawWork (s : State) (t : Nat) (o : Op) (p : DrawP) (r : Region) : State :=
  let key := stepKey s o.step
  let step := o.step.getD 0
  if p.purpose = 6 then
    let bs := (List.range p.count.toNat).flatMap (fun i =>
      initBytes key step (r.lbase + p.off.toNat + i) r.velv p.tag.toNat p.normal)
    endWork ((s.stWrite p.out.toNat bs).onOp t (fun o => { o with count := p.count.toNat })) t 0 0
  else
    let C := coarseOf s o.step r
    let scores := (List.range p.count.toNat).map (fun i => (i, elemVal s r C (p.off.toNat + i)))
    let d := draw scores (drawArgs p) (drawU key step p.row.toNat p.purpose.toNat p.tag.toNat)
    let s1 := s.stWrite p.out.toNat (d.out.flatMap (leBytes 4))
    let s2 := s1.onOp t (fun o => { o with count := d.out.length, flags := o.flags ||| ((if d.empty then 2 else 0) + (if d.short then 8 else 0)) })
    endWork s2 t 0 0

/-- What DRAW does while it runs. -/
def drawRow (t : Nat) (p : DrawP) (s : State) (o : Op) : State :=
  match o.img o.region with
  | some r => if o.aborted then endAborted s t 0 else drawWork s t o p r
  | none => s

/-- DRAW (R138). -/
def execDraw (t : SlotId) (p : DrawP) (s : State) : Host.Outcome State Fault Refusal :=
  commit s (opRow s t.toNat 0x41 (fun _ _ => true) (drawCheck p) (drawRow t.toNat p))

end Sys2Proof.Machine
end

