-- ==== Sys2Proof/Machine/Shadow.lean ====
section
/-!
DEFINITION. The shadow check (R261-R265): the wide references of update tiles and array tiles with their error bounds (R232, R262), the
comparison, the sorting of disagreements (Table 9-10) and the sequence of R264.
-/

namespace Sys2Proof.Machine

/-! ### Wide references with error radii (R262) -/

/-- A wide reference: its value and its error radius; a void radius stands for an unbounded one. How an error passes through the micro-ops that R262
does not name is DESIGN CHOICE (notes/assumptions/54). -/
structure WRef where
  v   : Num
  rad : Num
deriving DecidableEq, Repr

namespace WRef

/-- A value as the wide path holds it (R83). -/
def wide (v : Num) : Num := ofWide (toWide v).w

/-- An input: its radius is zero. -/
def input (v : Num) : WRef := { v := v, rad := Num.zero }

/-- A reference whose void comes from void operands has no error. -/
def fix (v rad : Num) : WRef := { v := v, rad := if v.isVoid then Num.zero else rad }

/-- Sum: the radii add. -/
def add (a b : WRef) : WRef := fix (Num.add a.v b.v) (Num.add a.rad b.rad)
/-- Difference. -/
def sub (a b : WRef) : WRef := fix (Num.sub a.v b.v) (Num.add a.rad b.rad)

/-- Product: |a| x rb + |b| x ra + ra x rb. -/
def mul (a b : WRef) : WRef :=
  fix (Num.mul a.v b.v)
    (Num.add (Num.add (Num.mul (Num.abs a.v) b.rad) (Num.mul (Num.abs b.v) a.rad)) (Num.mul a.rad b.rad))

/-- A function that moves no value by more than its operand has moved. -/
def keep (f : Num → Num) (a : WRef) : WRef := fix (f a.v) a.rad

/-- Larger of two radii; void is unbounded. -/
def radMax (a b : Num) : Num := if a.isVoid || b.isVoid then Num.void else Num.max a b

/-- MAX and MIN: the larger of the radii. -/
def pick (f : Num → Num → Num) (a b : WRef) : WRef := fix (f a.v b.v) (radMax a.rad b.rad)

/-- Does the radius reach the value's magnitude? -/
def reachesZero (a : WRef) : Bool :=
  match a.rad with
  | .void => true
  | .fin m e => decide (m ≠ 0) && !(Num.lt (.fin m e) (Num.abs a.v))

/-- floor(log2) of a value's magnitude. -/
def lgOf : Num → Int
  | .void => 0
  | .fin m e => lg m e

/-- SGN: exact while the sign is sure. -/
def sgn (a : WRef) : WRef := fix (Num.sgn a.v) (if a.reachesZero then .fin 2 0 else Num.zero)

/-- RCP by the wide function (Table 4-9), with its ulp: |1/a - 1/a'| is at most ra / (|a| (|a| - ra)). -/
def rcp (a : WRef) : WRef :=
  match a.v with
  | .void => a
  | .fin m e =>
    let X := rcpLg m e - 46
    let r : Num := if m = 0 then .void else .fin (m.sign * (rcpMag m e X : Int)) X
    if a.reachesZero then { v := r, rad := .void }
    else if m = 0 then { v := .void, rad := Num.zero }
    else { v := r, rad := Num.add (Num.scl (-(lgOf a.v) - lgOf (Num.sub (Num.abs a.v) a.rad)) a.rad) (.fin 1 X) }

/-- RSQ of a sum by the wide function, with its ulp: the difference is at most rs / (s - rs)^(3/2). -/
def rsq (a : WRef) : WRef :=
  match a.v with
  | .void => a
  | .fin m e =>
    let X := rsqLg m e - 46
    let r : Num := if m ≤ 0 then .void else .fin (rsqMag m e X : Int) X
    if a.reachesZero then { v := r, rad := .void }
    else if m ≤ 0 then { v := .void, rad := Num.zero }
    else { v := r, rad := Num.add (Num.scl (-3 * Int.fdiv (lgOf (Num.sub a.v a.rad)) 2) a.rad) (.fin 1 X) }

/-- APL (R199) without the hold of its 31 bits: an error of b can move D by one grid step more. -/
def apl (E G : Int) (a u : WRef) : WRef :=
  match a.v, u.v.at_ (E - 16) with
  | .fin m e, some D =>
    fix (Num.sub (.fin m e) (.fin D (E - 16 - G)))
      (Num.add a.rad (if u.rad = Num.zero then Num.zero else Num.add (Num.scl (-G) u.rad) (.fin 1 (E - 16 - G))))
  | _, _ => input .void

/-- A disagreement is a value that differs from its reference by more than the radius (R262). Where one of the two is void, they disagree unless the
radius is unbounded. -/
def agrees (r : WRef) (t : Num) : Bool :=
  match r.v, t with
  | .void, .void => true
  | .fin m e, .fin n x => r.rad.isVoid || !(Num.lt r.rad (Num.abs (Num.sub (.fin m e) (.fin n x))))
  | _, _ => r.rad.isVoid

end WRef

/-- Reference of a micro-op that works within an element (Table 7-3), before the units of the Tine's register. -/
def refOp (env : MEnv) (w : MOp) (a b : WRef) : WRef :=
  let c := WRef.input (cNum env.c)
  match w.op with
  | 0x01 => a
  | 0x02 => a.add b
  | 0x03 => a.sub b
  | 0x04 => a.mul b
  | 0x05 => a.mul c
  | 0x06 => a.add (b.mul c)
  | 0x07 => a.add ((b.sub a).mul c)
  | 0x08 => a.mul a
  | 0x09 => a.keep Num.abs
  | 0x0A => a.keep Num.neg
  | 0x0B => a.sgn
  | 0x0C => WRef.pick Num.max a b
  | 0x0D => WRef.pick Num.min a b
  | 0x0E => c
  | 0x0F => { v := Num.scl w.simm a.v, rad := Num.scl w.simm a.rad }
  | 0x10 => a.rcp
  | 0x11 => (a.add c).rsq
  | 0x12 => a.mul (WRef.input (.fin env.dec (-93)))
  | 0x13 => (a.mul (WRef.input (cNum env.phi))).mul c
  | 0x17 => WRef.apl env.E env.G a b
  | 0x18 => a.keep (fun v => Num.clamp v (cNum env.c))
  | _ => a

/-- What every micro-op adds to a radius: a unit of 2^X of the Tine's register, and for RCP and RSQ the Tine's own bound, a unit more (R262). -/
def WRef.widen (op : Nat) (X : Int) (r : WRef) : WRef :=
  { v := WRef.wide r.v, rad := if r.v.isVoid then r.rad else Num.add r.rad (.fin (if op = 0x10 ∨ op = 0x11 then 2 else 1) X) }

/-- References of one block: registers by number, and RSUM and RMAX results that wait for the next pass. -/
structure RBlock where
  regs : List (Nat × List WRef)
  next : List (Nat × List WRef)
deriving DecidableEq, Repr

/-- A register's references; one never set reads zero. -/
def RBlock.reg (b : RBlock) (B i : Nat) : List WRef := (aget b.regs i).getD (List.replicate B (WRef.input Num.zero))

/-- References of a row-scope micro-op over the unit's blocks (R197): one for the whole row. -/
def refRow (op : Nat) (l : List WRef) : WRef :=
  if op = 0x14 then l.foldl WRef.add (WRef.input Num.zero)
  else l.foldl (fun a x => WRef.pick Num.max a (x.keep Num.abs)) (WRef.input Num.void)

/-- The wide path's copy of a micro-op: `x` is the unit as the Tine had it, `bs` its references; the Tine's new registers give the exponents. -/
def refStep (s : State) (o : Op) (c : UpdCtx) (x : Unit) (bs : List RBlock) : Unit × List RBlock :=
  let y := (unitStep s o c x).1
  match o.prog[x.upc]? with
  | none => (y, bs)
  | some word =>
    let w := parseMOp word
    let B := c.p.B
    let rowOp := decide (w.op = 0x14 ∨ w.op = 0x15)
    let row := refRow w.op (bs.flatMap (fun b => b.reg B w.a))
    let after := (List.zip y.blocks bs).map (fun e =>
      let X := fun (rs : List (Nat × MReg)) => ((aget rs w.d).map (fun r => r.x)).getD 0
      if w.op = 0x00 ∨ w.op = 0x16 then e.2
      else if rowOp then
        { e.2 with next := aput e.2.next w.d (List.replicate B (row.widen w.op (X (if y.upc % 8 = 0 then e.1.regs else e.1.next)))) }
      else
        let env := microEnv s o c x.gap e.1.idx w
        { e.2 with regs := aput e.2.regs w.d ((List.zip (e.2.reg B w.a) (e.2.reg B w.b)).map (fun p => (refOp env w p.1 p.2).widen w.op (X e.1.regs))) })
    (y, if y.upc % 8 = 0 then after.map (fun b => { regs := b.next.foldl (fun m q => aput m q.1 q.2) b.regs, next := [] }) else after)

/-- References of every block of a unit: the program run in wide arithmetic from the codes that the unit read (R262). -/
def refUnit (s : State) (t : Nat) (o : Op) (c : UpdCtx) (u : Nat) : List RBlock :=
  let x := entryUnit s t o c u
  ((List.range c.d.nops).foldl (fun p _ => refStep s o c p.1 p.2)
    (x, x.blocks.map (fun b => { regs := b.regs.map (fun e => (e.1, e.2.vals.map WRef.input)), next := [] }))).2

/-! ### Verdicts (R263, R264) -/

/-- SHDCNT0.CHECKED. -/
def bumpChecked (s : State) : State := { s with units := { s.units with shdcnt0 := bump s.units.shdcnt0 31 0 1 } }

/-- What a check of one tile needs: does the tile with an error `e` agree with the reference that has an error `r`; does the tile with an
error carry a flag of Table 9-10; the fold of the reference's magnitude into CUR_MAX; the log's die, code and unit; the mask of a lasting fault. -/
structure TileChk where
  agrees  : (e r : Int) → Bool
  flagged : (e : Int) → Bool
  fold    : (r : Int) → State → State
  die     : Die
  code    : Nat
  unit    : Nat
  mask    : State → State

/-- The first group of wide lanes at or after g, with wrap, that is not retired (R412). -/
def wideGroup (s : State) (g : Nat) : Nat :=
  (((List.range 4).map (fun i => (g + i) % 4)).find? (fun i => !(flag s.mgmt.fltstat (16 + i)))).getD (g % 4)

/-- Where the references of the first two groups differ, the third decides (R264, step 1): the error of the reference that stands, and the group
in the minority. The groups are taken in ascending order from the one that made the first, among those that are not retired (R412; the order is a
DESIGN CHOICE, notes/assumptions/54). Where no two agree, which R264 does not settle, the third stands and the first is at fault (DESIGN CHOICE,
notes/assumptions/54). -/
def refMajority (s : State) (v : Verdict) : Int × Nat :=
  let g1 := wideGroup s v.group.toNat
  if v.ref3 = v.ref1 then (v.ref1, wideGroup s (g1 + 1))
  else if v.ref3 = v.ref2 then (v.ref2, g1)
  else (v.ref3, g1)

/-- The check of a tile (R263, R264): its effects, and the error of the tile that commits; none while it is held, because the block has failed or
because the unit that masks a lasting fault computes it anew, which the next verdict checks (R410). A tile that agrees with the reference that the
majority upholds commits (DEDUCED, notes/assumptions/54). -/
def tileVerdict (s : State) (t : Nat) (k : TileChk) (v : Verdict) : State × Option Int :=
  let s := bumpChecked s
  if k.agrees v.tile v.ref1 then (s, some v.tile)
  else if k.flagged v.tile then (k.fold v.ref1 (bumpShd1 31 0 s), some v.tile)
  else
    let (s, r) := if v.ref1 = v.ref2 then (s, v.ref1) else let m := refMajority s v; (groupFault (bumpShd1 63 48 s) m.2, m.1)
    if s.failstop then (s, none)
    else if k.agrees v.tile r then (s, some v.tile)
    else if k.agrees v.retry r then ((transient (bumpShd1 47 32 s) k.die k.code k.unit 0).onOp t (fun o => { o with retried := true }), some v.retry)
    else ((k.mask (bumpShd1 63 48 s)).onOp t (fun o => { o with degraded := true }), none)

/-! ### Update tiles -/

/-- Registers that WMAP writes for a block, with their regions; the row moment stands in the row's first block. -/
def wmapRegs (c : UpdCtx) (first : Bool) : List (Nat × Region) :=
  let q := fun (bit : Nat) (r : Option Region) => match r with
    | some r => if bitAt c.d.wmap bit && (decide (bit ≠ 3) || first) then [(bit + 1, r)] else []
    | none => []
  q 0 (some c.p) ++ q 1 c.m1 ++ q 2 c.m2 ++ q 3 c.rm

/-- A block whose faulty Tine added `err` units to the first element of each register that it writes. -/
def TBlock.off (b : TBlock) (rs : List (Nat × Region)) (err : Int) : TBlock :=
  if err = 0 then b
  else rs.foldl (fun (b : TBlock) q => match aget b.regs q.1 with
    | some { x := x, m := some v :: l } => { b with regs := aput b.regs q.1 { x := x, m := some (hold31 (v + err)).1 :: l } }
    | _ => b) b

/-- References of a register with an error of `err` units of the register's grid in the first. -/
def refsOff (X err : Int) : List WRef → List WRef
  | r :: l => { r with v := Num.add r.v (.fin err X) } :: l
  | [] => []

/-- Elements of a register that are compared: all of a block's, or the one of a row moment. -/
def comparedOf (n : Nat) {α : Type} (l : List α) : List α := if n = 4 then l.take 1 else l

/-- Does a block agree with its references in every register that it writes? -/
def blockAgrees (b : TBlock) (refs : RBlock) (rs : List (Nat × Region)) (B : Nat) (e r : Int) : Bool :=
  let b' := b.off rs e
  rs.all (fun q =>
    let reg := b'.reg B q.1
    (List.zip (comparedOf q.1 (refsOff reg.x r (refs.reg B q.1))) (comparedOf q.1 reg.vals)).all (fun p => p.1.agrees p.2))

/-- Flags of Table 9-10 of an update tile: register saturation, a clamp of R193, OVF, an element that UNF_COUNT counts. -/
def blockFlagged (s : State) (o : Op) (c : UpdCtx) (x : Unit) (b : TBlock) (first : Bool) : Bool :=
  b.sat || b.clamp
  || ((blockQs s o c b) ++ (if first then (rowMoment s o c x).map Prod.fst else [])).any (fun q => q.w.ovf || q.w.encs.any (fun e => e.unf))

/-- Fold the magnitudes of a block's references into CUR_MAX of the regions that it writes (R263, R105). -/
def foldRefs (s : State) (refs : RBlock) (b : TBlock) (rs : List (Nat × Region)) (B : Nat) (r : Int) : State :=
  rs.foldl (fun s q =>
    let vals := (comparedOf q.1 (refsOff (b.reg B q.1).x r (refs.reg B q.1))).map (fun w => w.v)
    countVelvet s q.2.velv (logCode (blockMag q.2.fmt vals)) 0 0 0 false) s

/-- The check of block k of a held unit. -/
def updChk (s : State) (t : Nat) (o : Op) (c : UpdCtx) (x : Unit) (k : Nat) (b : TBlock) : TileChk :=
  let rs := wmapRegs c (decide (k = 0))
  let refs := (refUnit s t o c x.unit).getD k { regs := [], next := [] }
  let pl := unitTine s c x.unit
  { agrees := fun e r => blockAgrees b refs rs c.p.B e r
    flagged := fun e => let b' := b.off rs e; blockFlagged s o c { x with blocks := x.blocks.set k b' } b' (decide (k = 0))
    fold := fun r s => foldRefs s refs b rs c.p.B r
    die := hoofDie pl.1, code := 0x05, unit := pl.2.2
    mask := fun s => tineFault s pl.1 pl.2.2 }

/-- The verdict on the next held block of a unit; with the last of them the unit finishes (R261). Where the Tine has a lasting fault, its sibling takes
the unit's blocks, and each is checked before it commits (R410). -/
def updVerdict (s : State) (t : Nat) (o : Op) (c : UpdCtx) (x : Unit) (v : Verdict) : State :=
  match x.held with
  | [] => s
  | k :: rest =>
    match x.blocks[k]? with
    | none => s
    | some b =>
      let p := tileVerdict s t (updChk s t o c x k b) v
      match p.1.op t, p.2 with
      | some o1, some e =>
        let x' := { x with held := rest, blocks := x.blocks.set k (b.off (wmapRegs c (decide (k = 0))) e) }
        if rest = [] then finishUnit p.1 t o1 c x' else putUnit p.1 x'
      | some _, none =>
        if p.1.failstop then p.1 else putUnit p.1 { x with held := k :: (List.range x.blocks.length).filter (fun i => i ≠ k) }
      | none, _ => p.1

/-! ### Array tiles -/

/-- Exact sum of the products of R229 of a row of A with a row of W, before any shift; void if any factor is (R230). -/
def dotExact (fa fw : Nat) : List Opd → List Opd → Num
  | a :: as, w :: ws =>
    let p := match decodeCode fa a.code 0, decodeCode fw w.code 0 with
      | .fin x _, .fin y _ => if fa = fL8 then Num.fin (l8product a.code w.code) (a.e + w.e - 11) else Num.fin (x * y) (a.e + w.e)
      | _, _ => Num.void
    Num.add p (dotExact fa fw as ws)
  | _, _ => Num.zero

/-- The bound of R232 on one output element at the grid X: 2^X for every product whose exponent lies below X, and for L8 2^-11 of each product's
magnitude. -/
def dotBound (fa : Nat) (X : Int) : List Opd → List Opd → Num
  | a :: as, w :: ws =>
    let x := a.e + w.e - (if fa = fL8 then 11 else 0)
    let g : Num := if x < X then .fin 1 X else Num.zero
    let l : Num := if fa = fL8 then .fin (l8product a.code w.code).natAbs (x - 11) else Num.zero
    Num.add (Num.add g l) (dotBound fa X as ws)
  | _, _ => Num.zero

/-- References of an array tile on the grid X: the exact sums, with the bound of R232; ACC adds the old codes, and a unit when X exceeds their exponent
(R231, R232). -/
def tileRefs (s : State) (x : Tile) (X : Int) (acc : Bool) : List WRef :=
  let xold := sext 10 (bwordAt s x.r x.b)
  x.wrows.zipIdx.map (fun e =>
    let p : WRef := WRef.fix (dotExact x.fa x.fw x.arow e.1) (dotBound x.fa X x.arow e.1)
    if acc then p.add (WRef.fix (ofReg xold (el32 (codeAt s x.r (x.b * x.r.B + e.2)))) (if xold < X then .fin 1 X else Num.zero)) else p)

/-- Do an array tile's accumulator totals, held at 31 bits, agree with its references? -/
def totalsAgree (X : Int) (refs : List WRef) (tot : List (Option Int)) (e r : Int) : Bool :=
  (List.zip (refsOff X r refs) (totalsOff e tot)).all (fun p => p.1.agrees (ofReg X (p.2.map (fun v => (hold31 v).1))))

/-- Values that an MMA writes for accumulator totals: the totals on their grid, or rescaled (R125). -/
def tileVals (s : State) (d : MmaD) (x : Tile) (X : Int) (tot : List (Option Int)) : List Num :=
  if d.rtlen = 0 then tot.map (ofReg X) else tot.zipIdx.map (fun e => rescale s d.rtab (x.ch + e.2) X e.1)

/-- Flags of Table 9-10 of an array tile: a total held at its range, OVF of the written block, an element that UNF_COUNT counts. -/
def tileFlagged (s : State) (o : Op) (d : MmaD) (x : Tile) (X : Int) (tot : List (Option Int)) : Bool :=
  if d.rtlen = 0 then tot.any (fun q => match q with | some v => (hold31 v).2 | none => false)
  else
    let w := encBlock x.r.fmt x.r.strict (stepGuarded s o.step) (coarseOf s o.step x.r) (bbyteAt s x.r x.b) (tileVals s d x X tot)
      (fun E _ v => encode x.r.fmt x.r.strict E v)
    w.ovf || w.encs.any (fun e => e.unf)

/-- Totals of references on the grid X. -/
def refTotals (X : Int) (refs : List WRef) : List (Option Int) := refs.map (fun w => w.v.at_ X)

/-- Array half that computed an output block at channel ch: the columns above 255 of a whole-mode tile lie in ARRB (R222). -/
def tileHalf (s : State) (o : Op) (ch : Nat) : Nat :=
  if flag s.mgmt.fltstat 20 then 1 else if flag s.mgmt.fltstat 21 then 0 else if o.mode = 0 ∧ 256 ≤ ch % 512 then 1 else 0

/-- The check of a held array tile of an MMA. -/
def mmaChk (s : State) (o : Op) (x : Tile) : TileChk :=
  let d := parseMma o.desc
  let p := tileTotals s o x
  let refs := tileRefs s x p.1 (bitAt o.var 0)
  let h := tileHalf s o x.ch
  { agrees := fun e r => totalsAgree p.1 refs p.2 e r
    flagged := fun e => tileFlagged s o d x p.1 (totalsOff e p.2)
    fold := fun r s => countVelvet s x.r.velv (logCode (blockMag x.r.fmt (tileVals s d x p.1 (refTotals p.1 (refsOff p.1 r refs))))) 0 0 0 false
    die := .central, code := 0x06, unit := h
    mask := fun s => arrayFault s h }

/-- The verdict on the output block that an MMA holds: it is written, and the MMA goes on (R261). -/
def mmaVerdict (s : State) (t : Nat) (o : Op) (i : Nat) (v : Verdict) : State :=
  match mmaTile s o i with
  | none => s
  | some x =>
    let p := tileVerdict s t (mmaChk s o x) v
    match p.1.op t, p.2 with
    | some o1, some e => mmaWrite p.1 t o1 i e
    | _, _ => p.1

/-- The check of tile nb of a projected row (R237); the row lies in no region with a Velvet entry, so no CUR_MAX takes a magnitude. -/
def projChk (s : State) (o : Op) (d : GthD) (r : Region) (w : Region) (h : HeldRow) (nb : Nat) : TileChk :=
  let m := o.gthMma d
  let arow := projArow d r h
  let p := projTile s r.fmt r.B arow w (coarseOf s o.step w) m (bitAt o.var 2) nb
  let tot := blockSums r.fmt w.fmt p.1 arow p.2
  let refs := p.2.map (fun row => WRef.fix (dotExact r.fmt w.fmt arow row) (dotBound r.fmt p.1 arow row))
  let half := tileHalf s o (nb * r.B)
  { agrees := fun e q => totalsAgree p.1 refs tot e q
    flagged := fun e => let b := projBlock s (gthOutFmt d r) r.B m d.cd nb p.1 (totalsOff e tot); b.ovf || b.encs.any (fun e => e.unf)
    fold := fun _ s => s
    die := .central, code := 0x06, unit := half
    mask := fun s => arrayFault s half }

/-- The verdict on tile u of a projecting gather, tiles numbered through the output: with the last held tile of its row the row is written. -/
def projVerdict (s : State) (t : Nat) (o : Op) (r : Region) (u : Nat) (v : Verdict) : State :=
  let d := parseGth o.desc
  let m := o.gthMma d
  let per := m.n / r.B
  match o.heldRows.find? (fun h => h.idx = u / per && decide (u % per ∈ h.tiles)), o.img m.wreg with
  | some h, some w =>
    let nb := u % per
    let p := tileVerdict s t (projChk s o d r w h nb) v
    match p.1.op t, p.2 with
    | some o1, some e =>
      let h' := { h with tiles := h.tiles.filter (fun k => k ≠ nb), errs := h.errs ++ [(nb, e)] }
      let rest := o1.heldRows.filter (fun k => k.idx ≠ h.idx)
      if h'.tiles = [] then landProjected (p.1.setOp t { o1 with heldRows := rest }) t { o1 with heldRows := rest } d r h'
      else p.1.setOp t { o1 with heldRows := rest ++ [h'] }
    | _, _ => p.1
  | _, _ => s

/-- SHADOW_VERDICT (R261-R264): on the next held block of unit u of an update, on output block u of an MMA, or on tile u of a projecting gather. -/
def shadowVerdict (s : State) (t u : Nat) (v : Verdict) : State :=
  match running s t 0x20, running s t 0x30, running s t 0x23 with
  | some o, _, _ =>
    match updCtx o, tineUnit s t u with
    | some c, some x => updVerdict s t o c x v
    | _, _ => s
  | none, some o, _ => if o.reports = [u] then mmaVerdict s t o u v else s
  | none, none, some o => match o.img o.region with | some r => projVerdict s t o r u v | none => s
  | none, none, none => s

end Sys2Proof.Machine
end

