-- ==== Sys2Proof/Machine/Tines.lean ====
section
/-!
DEFINITION. The rows of updates: UPD, the micro-ops of Table 7-3, BLOCK_RELEASE, ANTLER_REPORT and SHADOW_VERDICT (spec/07, R260-R265).
-/

namespace Sys2Proof.Machine

/-- Mark the UPD that slot t has just accepted as a trial where its step is guarded or measure-first (R116, R120). -/
def markTrial (s : State) (t : Nat) : State :=
  match s.op t with
  | some o => if o.phase = .waiting then s.setOp t { o with trial := stepGuarded s o.step } else s
  | none => s

/-- UPD (R184): accepted as a trial where its step is guarded or measure-first; once accepted, its units do the work. -/
def execUpd (t : SlotId) (s : State) : Host.Outcome State Fault Refusal :=
  commit s (
    let s1 := opRow s t.toNat 0x20 (fun _ _ => true) updCheck (fun s _ => s)
    if isIssued s t.toNat 0x20 then markTrial s1 t.toNat else s1)

/-- NOP: no register changes (Table 7-3). -/
def execNop (t : SlotId) (u : Nat) (f : MicroF) (s : State) : Host.Outcome State Fault Refusal := commit s (microRow s t.toNat u 0x00 f)

/-- MOV: d is a (Table 7-3). -/
def execMov (t : SlotId) (u : Nat) (f : MicroF) (s : State) : Host.Outcome State Fault Refusal := commit s (microRow s t.toNat u 0x01 f)

/-- ADD: d is a + b (Table 7-3). -/
def execAdd (t : SlotId) (u : Nat) (f : MicroF) (s : State) : Host.Outcome State Fault Refusal := commit s (microRow s t.toNat u 0x02 f)

/-- SUB: d is a - b (Table 7-3). -/
def execSub (t : SlotId) (u : Nat) (f : MicroF) (s : State) : Host.Outcome State Fault Refusal := commit s (microRow s t.toNat u 0x03 f)

/-- MUL: d is a x b (Table 7-3). -/
def execMul (t : SlotId) (u : Nat) (f : MicroF) (s : State) : Host.Outcome State Fault Refusal := commit s (microRow s t.toNat u 0x04 f)

/-- MULC: d is a x c[K] (Table 7-3). -/
def execMulc (t : SlotId) (u : Nat) (f : MicroF) (s : State) : Host.Outcome State Fault Refusal := commit s (microRow s t.toNat u 0x05 f)

/-- MAC: d is a + b x c[K] (Table 7-3). -/
def execMac (t : SlotId) (u : Nat) (f : MicroF) (s : State) : Host.Outcome State Fault Refusal := commit s (microRow s t.toNat u 0x06 f)

/-- LRP: d is a + (b - a) x c[K] (Table 7-3). -/
def execLrp (t : SlotId) (u : Nat) (f : MicroF) (s : State) : Host.Outcome State Fault Refusal := commit s (microRow s t.toNat u 0x07 f)

/-- SQR: d is a x a (Table 7-3). -/
def execSqr (t : SlotId) (u : Nat) (f : MicroF) (s : State) : Host.Outcome State Fault Refusal := commit s (microRow s t.toNat u 0x08 f)

/-- ABS: d is |a| (Table 7-3). -/
def execAbs (t : SlotId) (u : Nat) (f : MicroF) (s : State) : Host.Outcome State Fault Refusal := commit s (microRow s t.toNat u 0x09 f)

/-- NEG: d is -a (Table 7-3). -/
def execNeg (t : SlotId) (u : Nat) (f : MicroF) (s : State) : Host.Outcome State Fault Refusal := commit s (microRow s t.toNat u 0x0A f)

/-- SGN: d is -1, 0 or +1 at X = 0 (Table 7-3). -/
def execSgn (t : SlotId) (u : Nat) (f : MicroF) (s : State) : Host.Outcome State Fault Refusal := commit s (microRow s t.toNat u 0x0B f)

/-- MAX: the larger of a and b, void operands ignored (Table 7-3). -/
def execMax (t : SlotId) (u : Nat) (f : MicroF) (s : State) : Host.Outcome State Fault Refusal := commit s (microRow s t.toNat u 0x0C f)

/-- MIN: the smaller of a and b, void operands ignored (Table 7-3). -/
def execMin (t : SlotId) (u : Nat) (f : MicroF) (s : State) : Host.Outcome State Fault Refusal := commit s (microRow s t.toNat u 0x0D f)

/-- LDC: d is c[K] (Table 7-3). -/
def execLdc (t : SlotId) (u : Nat) (f : MicroF) (s : State) : Host.Outcome State Fault Refusal := commit s (microRow s t.toNat u 0x0E f)

/-- SCL: d is a x 2^IMM (Table 7-3). -/
def execScl (t : SlotId) (u : Nat) (f : MicroF) (s : State) : Host.Outcome State Fault Refusal := commit s (microRow s t.toNat u 0x0F f)

/-- RCP: d is 1 / a within its bound (Table 7-3). -/
def execRcp (t : SlotId) (u : Nat) (f : MicroF) (s : State) : Host.Outcome State Fault Refusal := commit s (microRow s t.toNat u 0x10 f)

/-- RSQ: d is (a + c[K])^(-1/2) within its bound (Table 7-3). -/
def execRsq (t : SlotId) (u : Nat) (f : MicroF) (s : State) : Host.Outcome State Fault Refusal := commit s (microRow s t.toNat u 0x11 f)

/-- PWR: d is a times decay table K at the row's gap less IMM (R212) (Table 7-3). -/
def execPwr (t : SlotId) (u : Nat) (f : MicroF) (s : State) : Host.Outcome State Fault Refusal := commit s (microRow s t.toNat u 0x12 f)

/-- GRP: d is a x phi[group] x c[K] (R215) (Table 7-3). -/
def execGrp (t : SlotId) (u : Nat) (f : MicroF) (s : State) : Host.Outcome State Fault Refusal := commit s (microRow s t.toNat u 0x13 f)

/-- RSUM: the row's sum reaches d at the next pass (R197) (Table 7-3). -/
def execRsum (t : SlotId) (u : Nat) (f : MicroF) (s : State) : Host.Outcome State Fault Refusal := commit s (microRow s t.toNat u 0x14 f)

/-- RMAX: the row's largest |a| reaches d at the next pass (R197) (Table 7-3). -/
def execRmax (t : SlotId) (u : Nat) (f : MicroF) (s : State) : Host.Outcome State Fault Refusal := commit s (microRow s t.toNat u 0x15 f)

/-- RED: adds a x a to the norm record of the element's group (R214) (Table 7-3). -/
def execRed (t : SlotId) (u : Nat) (f : MicroF) (s : State) : Host.Outcome State Fault Refusal := commit s (microRow s t.toNat u 0x16 f)

/-- APL: the parameter update of R199 (Table 7-3). -/
def execApl (t : SlotId) (u : Nat) (f : MicroF) (s : State) : Host.Outcome State Fault Refusal := commit s (microRow s t.toNat u 0x17 f)

/-- CLP: a clamped to |c[K]| (Table 7-3). -/
def execClp (t : SlotId) (u : Nat) (f : MicroF) (s : State) : Host.Outcome State Fault Refusal := commit s (microRow s t.toNat u 0x18 f)

/-- BLOCK_RELEASE (R201, R202): a unit's program ends and the Antler releases its writes as one commit, or records them in a trial. -/
def execBlockRelease (t : SlotId) (u : Nat) (s : State) : Host.Outcome State Fault Refusal := commit s (releaseUnit s t.toNat u)

/-- ANTLER_REPORT (R189). -/
def execAntlerReport (t : SlotId) (h : HoofId) (antler : Fin 8) (s : State) : Host.Outcome State Fault Refusal :=
  commit s (antlerReport s t.toNat h.val antler.val)

/-- SHADOW_VERDICT (R261-R264). -/
def execShadowVerdict (t : SlotId) (u : Nat) (v : Verdict) (s : State) : Host.Outcome State Fault Refusal := commit s (shadowVerdict s t.toNat u v)

end Sys2Proof.Machine
end

