-- ==== Sys2Proof/Machine/Vop.lean ====
section
/-!
DEFINITION. The instructions of the vector engine (Table 9-6) and the VOP that runs them (R246-R251): a definition of its own for each row.
An instruction command is the engine executing that instruction in a register context; a whole program runs by VOP.
-/

namespace Sys2Proof.Machine

/-- Put the context that an instruction leaves. -/
def putCtx (s : State) (e : VEnv) (x : VCtx) : State := setCtx s e.n x

/-- VCON's constant on every active element below vl. -/
def laneConst (e : VEnv) (f : VecF) : VCtx :=
  let w := (if f.fn = 0 then e.o.opA else e.o.opB) % 2 ^ 32
  e.lanes f (fun _ => .fin (sext 16 w) (sext 8 (w / 65536))) (fun _ => sext 8 (w / 65536))

/-- End the VOP of a context with ILLEGAL (R247). -/
def vecIllegal (s : State) (e : VEnv) : State := endIllegal (freeCtx s e.t) e.t

/-- An instruction of the VOP in slot t is done: its place in the program moves on, and the end of the program ends the iteration, the last of which
ends the VOP (R242, R247); one that ABORT stopped meanwhile ends at that iteration's end (R250). -/
def vopAdvance (s : State) (t : Nat) : State :=
  match running s t 0x40, ctxOf s t with
  | some o, some (x, c) =>
    if c.at_ + 1 < o.prog.length then setCtx s x { c with at_ := c.at_ + 1 }
    else
      let s1 := (setCtx s x { c with at_ := 0, iter := c.iter + 1 }).onOp t (fun o => { o with progress := c.iter + 1 })
      if vopIter o.desc ≤ c.iter + 1 then (if o.aborted then endAborted s1 t (c.iter + 1) else endWork s1 t 0 0) else s1
  | _, _ => s

/-- The VOP that works in context x, when the instruction that its program names next is the one commanded (R242). -/
def vecNext (s : State) (x op : Nat) (f : VecF) : Option VEnv :=
  match vopAt s x with
  | none => none
  | some e =>
    match e.o.prog[e.x.at_]? with
    | some w => if vecOp w = op ∧ vecFields w = f then some e else none
    | none => none

/-- Has ABORT stopped the VOP: it ends where an iteration would begin (R250)? -/
def VEnv.stopped (e : VEnv) : Bool := e.o.aborted && decide (e.x.at_ = 0)

/-- A wide instruction (OP 0x20 to 0x27) runs on the groups of wide lanes that mask a retired one (R408, R412). -/
def wideUse (s : State) (t op : Nat) : State := if 0x20 ≤ op ∧ op ≤ 0x27 ∧ fld s.mgmt.fltstat 19 16 ≠ 0 then markDegraded s t else s

/-- Execute the next instruction of the VOP in context x; nothing where the program names another one, or where no VOP works there. -/
def vecRow (s : State) (x : Nat) (op : Nat) (f : VecF) (work : State → VEnv → VecF → State) : State :=
  match vecNext s x op f with
  | none => s
  | some e => if e.stopped then endAborted s e.t e.x.iter else vopAdvance (wideUse (work s e f) e.t op) e.t

/-- VLD (R249): elements 0 to vl - 1 from the binding. -/
def doVld (s : State) (e : VEnv) (f : VecF) : State :=
  putCtx s e (vecLoad s e f)

/-- VST (R249): whole blocks to the binding. -/
def doVst (s : State) (e : VEnv) (f : VecF) : State :=
  vecStore s e f

/-- VADD: va + b. -/
def doVadd (s : State) (e : VEnv) (f : VecF) : State :=
  putCtx s e (laneBin e f Num.add false)

/-- VSUB: va - b. -/
def doVsub (s : State) (e : VEnv) (f : VecF) : State :=
  putCtx s e (laneBin e f Num.sub false)

/-- VMUL: va x b. -/
def doVmul (s : State) (e : VEnv) (f : VecF) : State :=
  putCtx s e (laneBin e f Num.mul true)

/-- VMAX: the larger; void operands ignored. -/
def doVmax (s : State) (e : VEnv) (f : VecF) : State :=
  putCtx s e (laneBin e f Num.max false)

/-- VMIN: the smaller; void operands ignored. -/
def doVmin (s : State) (e : VEnv) (f : VecF) : State :=
  putCtx s e (laneBin e f Num.min false)

/-- VABS: the magnitude of va. -/
def doVabs (s : State) (e : VEnv) (f : VecF) : State :=
  putCtx s e (laneUn e f Num.abs 0)

/-- VNEG: -va. -/
def doVneg (s : State) (e : VEnv) (f : VecF) : State :=
  putCtx s e (laneUn e f Num.neg 0)

/-- VSCL: va x 2^IMM, exact. -/
def doVscl (s : State) (e : VEnv) (f : VecF) : State :=
  putCtx s e (laneUn e f (Num.scl (vimm f)) (vimm f))

/-- VCLP: va clamped to -|b| to +|b|. -/
def doVclp (s : State) (e : VEnv) (f : VecF) : State :=
  putCtx s e (laneBin e f Num.clamp false)

/-- VCON: the constant of operand A or B (R194). -/
def doVcon (s : State) (e : VEnv) (f : VecF) : State :=
  putCtx s e (laneConst e f)

/-- VCMP: 1 where the comparison holds, else 0, at X = 0. -/
def doVcmp (s : State) (e : VEnv) (f : VecF) : State :=
  putCtx s e (e.lanes f (fun i => cmpVal (f.fn.toNat % 4) (e.a f i) (e.b f i)) (fun _ => 0))

/-- VSEL: va where v[MSK] is active, else vb. -/
def doVsel (s : State) (e : VEnv) (f : VecF) : State :=
  putCtx s e (laneSel e f)

/-- VDRP (R251): va with the elements zeroed that dropout drops; a VOP without a step has none to draw under (R179). -/
def doVdrp (s : State) (e : VEnv) (f : VecF) : State :=
  if e.o.step = none then endWork s e.t 0x14 0
  else putCtx s e (e.lanes f (fun i => if dropped s e f i then Num.zero else e.a f i) (e.ea f))

/-- VRED (R253): a reduction of va to element 0. -/
def doVred (s : State) (e : VEnv) (f : VecF) : State :=
  let r := vecReduce s e f
  let s := putCtx s e r.1
  if r.2 then noteEmpty s e.t else s

/-- TRED (R254): a reduction of a tile along an axis. -/
def doTred (s : State) (e : VEnv) (f : VecF) : State :=
  let r := tileReduce s e f
  let s := putCtx s e r.1
  if r.2 then noteEmpty s e.t else s

/-- VPRM (R255): va permuted by vb. -/
def doVprm (s : State) (e : VEnv) (f : VecF) : State :=
  let r := vecPermute e f
  let s := putCtx s e r.1
  if r.2 then notePerm s e.t else s

/-- VIOTA: element i is i, at X = 0. -/
def doViota (s : State) (e : VEnv) (f : VecF) : State :=
  putCtx s e (e.lanes f (fun i => .fin i 0) (fun _ => 0))

/-- TLD (R248): a tile from the binding, row by row. -/
def doTld (s : State) (e : VEnv) (f : VecF) : State :=
  putCtx s e (tileLoad s e f)

/-- TST (R248): a tile to the binding, row by row. -/
def doTst (s : State) (e : VEnv) (f : VecF) : State :=
  tileStore s e f

/-- TTR: the transpose of a tile. -/
def doTtr (s : State) (e : VEnv) (f : VecF) : State :=
  putCtx s e (tileTranspose e f)

/-- TOP: a tile and a tile, a column or a row. -/
def doTop (s : State) (e : VEnv) (f : VecF) : State :=
  putCtx s e (tileBin e f)

/-- TGV: a row or column of a tile to elements 0 to 63. -/
def doTgv (s : State) (e : VEnv) (f : VecF) : State :=
  putCtx s e (tileGet e f)

/-- TPV: elements 0 to 63 to a row or column of a tile. -/
def doTpv (s : State) (e : VEnv) (f : VecF) : State :=
  putCtx s e (tilePut e f)

/-- WCV (R256): va as wide numbers, exact. -/
def doWcv (s : State) (e : VEnv) (f : VecF) : State :=
  let r := wideMap e f (fun i => toWide (e.a f i))
  noteWide (putCtx s e r.1) r.2

/-- WOP (R256): wide arithmetic. -/
def doWop (s : State) (e : VEnv) (f : VecF) : State :=
  let b := fun i => e.x.wide f.vb.toNat (if vbc f then 0 else i)
  let r := wideMap e f (fun i => toWide (wideOp (f.fn.toNat % 8) (e.x.wide f.va.toNat i) (b i)))
  noteWide (putCtx s e r.1) r.2

/-- WFN (R258): a wide function. -/
def doWfn (s : State) (e : VEnv) (f : VecF) : State :=
  let r := wideFunc e f
  let s := noteWide (putCtx s e r.1) r.2.1
  if r.2.2 then noteVoid s e.t else s

/-- PCV (R256): a wide number as a pair, lo zero. -/
def doPcv (s : State) (e : VEnv) (f : VecF) : State :=
  let r := pairFrom e f
  noteWide (putCtx s e r.1) r.2

/-- PADD (R256): pair addition or subtraction. -/
def doPadd (s : State) (e : VEnv) (f : VecF) : State :=
  let r := pairMap e f (fun i => if f.fn = 0 then Num.add (e.x.pair f.va.toNat i) (e.x.pair f.vb.toNat i) else Num.sub (e.x.pair f.va.toNat i) (e.x.pair f.vb.toNat i))
  noteWide (putCtx s e r.1) r.2

/-- PMUL (R256): pair multiplication. -/
def doPmul (s : State) (e : VEnv) (f : VecF) : State :=
  let r := pairMap e f (fun i => Num.mul (e.x.pair f.va.toNat i) (e.x.pair f.vb.toNat i))
  noteWide (putCtx s e r.1) r.2

/-- WSUM (R257): the sum as a pair, in fixed order. -/
def doWsum (s : State) (e : VEnv) (f : VecF) : State :=
  let r := wideSum e f
  let s := noteWide (putCtx s e r.1) r.2.1
  if r.2.2 then noteEmpty s e.t else s

/-- WNR (R256): wide or pair values back to the lanes. -/
def doWnr (s : State) (e : VEnv) (f : VecF) : State :=
  putCtx s e (wideNarrow e f)

/-- SETVL: the vector length. -/
def doSetvl (s : State) (e : VEnv) (f : VecF) : State :=
  putCtx s e { e.x with vl := vlAfter e.o.opA e.x.vl 0x30 f }

/-- SUMC (R259): COUNT of the summary from va[0]. -/
def doSumc (s : State) (e : VEnv) (f : VecF) : State :=
  (putCtx s e { e.x with sumc := true }).onOp e.t (fun o => { o with count := sumCount ((e.x.reg f.va.toNat).lane 0) })

/-! ### The program (R247) -/

/-- The instruction that an OP names. -/
def vecWork (op : Nat) : State → VEnv → VecF → State :=
  if op = 0x01 then doVld
  else if op = 0x02 then doVst
  else if op = 0x03 then doVadd
  else if op = 0x04 then doVsub
  else if op = 0x05 then doVmul
  else if op = 0x06 then doVmax
  else if op = 0x07 then doVmin
  else if op = 0x08 then doVabs
  else if op = 0x09 then doVneg
  else if op = 0x0A then doVscl
  else if op = 0x0B then doVclp
  else if op = 0x0C then doVcon
  else if op = 0x0D then doVcmp
  else if op = 0x0E then doVsel
  else if op = 0x0F then doVdrp
  else if op = 0x10 then doVred
  else if op = 0x11 then doTred
  else if op = 0x12 then doVprm
  else if op = 0x13 then doViota
  else if op = 0x18 then doTld
  else if op = 0x19 then doTst
  else if op = 0x1A then doTtr
  else if op = 0x1B then doTop
  else if op = 0x1C then doTgv
  else if op = 0x1D then doTpv
  else if op = 0x20 then doWcv
  else if op = 0x21 then doWop
  else if op = 0x22 then doWfn
  else if op = 0x23 then doPcv
  else if op = 0x24 then doPadd
  else if op = 0x25 then doPmul
  else if op = 0x26 then doWsum
  else if op = 0x27 then doWnr
  else if op = 0x30 then doSetvl
  else if op = 0x31 then doSumc
  else fun s e _ => vecIllegal s e

/-- Execute a word of the program in context x. -/
def vecWord (x : Nat) (s : State) (w : Nat) : State := vecRow s x (vecOp w) (vecFields w) (vecWork (vecOp w))

/-- What is left of the present iteration of the VOP in slot t, or the end that ABORT asks for (R247, R250). -/
def vopStep (t : Nat) (s : State) : State :=
  match running s t 0x40, ctxOf s t with
  | some o, some (x, c) => (o.prog.drop c.at_).foldl (vecWord x) s
  | _, _ => s

/-- What VOP does while it runs. -/
def vopWork (t iters : Nat) (s : State) (_ : Op) : State := times (vopStep t) iters s

/-- VOP (R246, R247): accepted, then its next iterations. -/
def execVop (t : SlotId) (iters : Nat) (s : State) : Host.Outcome State Fault Refusal :=
  commit s (opRow s t.toNat 0x40 vopNeeds vopCheck (vopWork t.toNat iters))

/-- NLD: no OP of Table 9-6, so a program that holds it carries a reserved encoding (R247, R248). -/
def execNld (x : Fin 8) (f : VecF) (s : State) : Host.Outcome State Fault Refusal :=
  commit s (match vopAt s x.val, f with | some e, _ => vecIllegal s e | none, _ => s)

/-- VLD (R249): elements 0 to vl - 1 from the binding. -/
def execVld (x : Fin 8) (f : VecF) (s : State) : Host.Outcome State Fault Refusal := commit s (vecRow s x.val 0x01 f doVld)

/-- VST (R249): whole blocks to the binding. -/
def execVst (x : Fin 8) (f : VecF) (s : State) : Host.Outcome State Fault Refusal := commit s (vecRow s x.val 0x02 f doVst)

/-- VADD: va + b. -/
def execVadd (x : Fin 8) (f : VecF) (s : State) : Host.Outcome State Fault Refusal := commit s (vecRow s x.val 0x03 f doVadd)

/-- VSUB: va - b. -/
def execVsub (x : Fin 8) (f : VecF) (s : State) : Host.Outcome State Fault Refusal := commit s (vecRow s x.val 0x04 f doVsub)

/-- VMUL: va x b. -/
def execVmul (x : Fin 8) (f : VecF) (s : State) : Host.Outcome State Fault Refusal := commit s (vecRow s x.val 0x05 f doVmul)

/-- VMAX: the larger; void operands ignored. -/
def execVmax (x : Fin 8) (f : VecF) (s : State) : Host.Outcome State Fault Refusal := commit s (vecRow s x.val 0x06 f doVmax)

/-- VMIN: the smaller; void operands ignored. -/
def execVmin (x : Fin 8) (f : VecF) (s : State) : Host.Outcome State Fault Refusal := commit s (vecRow s x.val 0x07 f doVmin)

/-- VABS: the magnitude of va. -/
def execVabs (x : Fin 8) (f : VecF) (s : State) : Host.Outcome State Fault Refusal := commit s (vecRow s x.val 0x08 f doVabs)

/-- VNEG: -va. -/
def execVneg (x : Fin 8) (f : VecF) (s : State) : Host.Outcome State Fault Refusal := commit s (vecRow s x.val 0x09 f doVneg)

/-- VSCL: va x 2^IMM, exact. -/
def execVscl (x : Fin 8) (f : VecF) (s : State) : Host.Outcome State Fault Refusal := commit s (vecRow s x.val 0x0A f doVscl)

/-- VCLP: va clamped to -|b| to +|b|. -/
def execVclp (x : Fin 8) (f : VecF) (s : State) : Host.Outcome State Fault Refusal := commit s (vecRow s x.val 0x0B f doVclp)

/-- VCON: the constant of operand A or B (R194). -/
def execVcon (x : Fin 8) (f : VecF) (s : State) : Host.Outcome State Fault Refusal := commit s (vecRow s x.val 0x0C f doVcon)

/-- VCMP: 1 where the comparison holds, else 0, at X = 0. -/
def execVcmp (x : Fin 8) (f : VecF) (s : State) : Host.Outcome State Fault Refusal := commit s (vecRow s x.val 0x0D f doVcmp)

/-- VSEL: va where v[MSK] is active, else vb. -/
def execVsel (x : Fin 8) (f : VecF) (s : State) : Host.Outcome State Fault Refusal := commit s (vecRow s x.val 0x0E f doVsel)

/-- VDRP (R251): va with the elements zeroed that dropout drops; a VOP without a step has none to draw under (R179). -/
def execVdrp (x : Fin 8) (f : VecF) (s : State) : Host.Outcome State Fault Refusal := commit s (vecRow s x.val 0x0F f doVdrp)

/-- VRED (R253): a reduction of va to element 0. -/
def execVred (x : Fin 8) (f : VecF) (s : State) : Host.Outcome State Fault Refusal := commit s (vecRow s x.val 0x10 f doVred)

/-- TRED (R254): a reduction of a tile along an axis. -/
def execTred (x : Fin 8) (f : VecF) (s : State) : Host.Outcome State Fault Refusal := commit s (vecRow s x.val 0x11 f doTred)

/-- VPRM (R255): va permuted by vb. -/
def execVprm (x : Fin 8) (f : VecF) (s : State) : Host.Outcome State Fault Refusal := commit s (vecRow s x.val 0x12 f doVprm)

/-- VIOTA: element i is i, at X = 0. -/
def execViota (x : Fin 8) (f : VecF) (s : State) : Host.Outcome State Fault Refusal := commit s (vecRow s x.val 0x13 f doViota)

/-- TLD (R248): a tile from the binding, row by row. -/
def execTld (x : Fin 8) (f : VecF) (s : State) : Host.Outcome State Fault Refusal := commit s (vecRow s x.val 0x18 f doTld)

/-- TST (R248): a tile to the binding, row by row. -/
def execTst (x : Fin 8) (f : VecF) (s : State) : Host.Outcome State Fault Refusal := commit s (vecRow s x.val 0x19 f doTst)

/-- TTR: the transpose of a tile. -/
def execTtr (x : Fin 8) (f : VecF) (s : State) : Host.Outcome State Fault Refusal := commit s (vecRow s x.val 0x1A f doTtr)

/-- TOP: a tile and a tile, a column or a row. -/
def execTop (x : Fin 8) (f : VecF) (s : State) : Host.Outcome State Fault Refusal := commit s (vecRow s x.val 0x1B f doTop)

/-- TGV: a row or column of a tile to elements 0 to 63. -/
def execTgv (x : Fin 8) (f : VecF) (s : State) : Host.Outcome State Fault Refusal := commit s (vecRow s x.val 0x1C f doTgv)

/-- TPV: elements 0 to 63 to a row or column of a tile. -/
def execTpv (x : Fin 8) (f : VecF) (s : State) : Host.Outcome State Fault Refusal := commit s (vecRow s x.val 0x1D f doTpv)

/-- WCV (R256): va as wide numbers, exact. -/
def execWcv (x : Fin 8) (f : VecF) (s : State) : Host.Outcome State Fault Refusal := commit s (vecRow s x.val 0x20 f doWcv)

/-- WOP (R256): wide arithmetic. -/
def execWop (x : Fin 8) (f : VecF) (s : State) : Host.Outcome State Fault Refusal := commit s (vecRow s x.val 0x21 f doWop)

/-- WFN (R258): a wide function. -/
def execWfn (x : Fin 8) (f : VecF) (s : State) : Host.Outcome State Fault Refusal := commit s (vecRow s x.val 0x22 f doWfn)

/-- PCV (R256): a wide number as a pair, lo zero. -/
def execPcv (x : Fin 8) (f : VecF) (s : State) : Host.Outcome State Fault Refusal := commit s (vecRow s x.val 0x23 f doPcv)

/-- PADD (R256): pair addition or subtraction. -/
def execPadd (x : Fin 8) (f : VecF) (s : State) : Host.Outcome State Fault Refusal := commit s (vecRow s x.val 0x24 f doPadd)

/-- PMUL (R256): pair multiplication. -/
def execPmul (x : Fin 8) (f : VecF) (s : State) : Host.Outcome State Fault Refusal := commit s (vecRow s x.val 0x25 f doPmul)

/-- WSUM (R257): the sum as a pair, in fixed order. -/
def execWsum (x : Fin 8) (f : VecF) (s : State) : Host.Outcome State Fault Refusal := commit s (vecRow s x.val 0x26 f doWsum)

/-- WNR (R256): wide or pair values back to the lanes. -/
def execWnr (x : Fin 8) (f : VecF) (s : State) : Host.Outcome State Fault Refusal := commit s (vecRow s x.val 0x27 f doWnr)

/-- SETVL: the vector length. -/
def execSetvl (x : Fin 8) (f : VecF) (s : State) : Host.Outcome State Fault Refusal := commit s (vecRow s x.val 0x30 f doSetvl)

/-- SUMC (R259): COUNT of the summary from va[0]. -/
def execSumc (x : Fin 8) (f : VecF) (s : State) : Host.Outcome State Fault Refusal := commit s (vecRow s x.val 0x31 f doSumc)

end Sys2Proof.Machine
end

