-- ==== Sys2Proof/Machine/Dispatch.lean ====
section
/-!
DEFINITION. One arm per command of the block, each one call of its meaning.
-/

namespace Sys2Proof.Machine

/-- The effect of a command on everything but the queue of waiting commands. -/
def exec (i : Instr) (s : State) : Host.Outcome State Fault Refusal :=
  match i with
  | .op c rd rs1 rs2 func => Sys2Proof.Machine.execOp c rd rs1 rs2 func s
  | .addi c rd rs1 imm => Sys2Proof.Machine.execAddi c rd rs1 imm s
  | .andi c rd rs1 imm => Sys2Proof.Machine.execAndi c rd rs1 imm s
  | .ori c rd rs1 imm => Sys2Proof.Machine.execOri c rd rs1 imm s
  | .xori c rd rs1 imm => Sys2Proof.Machine.execXori c rd rs1 imm s
  | .shi c rd rs1 imm => Sys2Proof.Machine.execShi c rd rs1 imm s
  | .li c rd imm lo => Sys2Proof.Machine.execLi c rd imm lo s
  | .cmp c rd rs1 rs2 func => Sys2Proof.Machine.execCmp c rd rs1 rs2 func s
  | .cmpi c rd rs1 imm => Sys2Proof.Machine.execCmpi c rd rs1 imm s
  | .plog c rd rs1 rs2 func => Sys2Proof.Machine.execPlog c rd rs1 rs2 func s
  | .ld c rd rs1 imm => Sys2Proof.Machine.execLd c rd rs1 imm s
  | .st c rd rs1 imm => Sys2Proof.Machine.execSt c rd rs1 imm s
  | .ld32 c rd rs1 imm => Sys2Proof.Machine.execLd32 c rd rs1 imm s
  | .st32 c rd rs1 imm => Sys2Proof.Machine.execSt32 c rd rs1 imm s
  | .br c p neg off => Sys2Proof.Machine.execBr c p neg off s
  | .jal c rd imm => Sys2Proof.Machine.execJal c rd imm s
  | .jr c rd rs1 imm => Sys2Proof.Machine.execJr c rd rs1 imm s
  | .wait c rd rs1 => Sys2Proof.Machine.execWait c rd rs1 s
  | .summ c rd rs1 => Sys2Proof.Machine.execSumm c rd rs1 s
  | .tsts c rd rs1 imm => Sys2Proof.Machine.execTsts c rd rs1 imm s
  | .fence c rd rs1 imm => Sys2Proof.Machine.execFence c rd rs1 imm s
  | .mfs c rd imm => Sys2Proof.Machine.execMfs c rd imm s
  | .mts c rs1 imm => Sys2Proof.Machine.execMts c rs1 imm s
  | .tret c => Sys2Proof.Machine.execTret c s
  | .brk c => Sys2Proof.Machine.execBrk c s
  | .drx c rd rs1 rs2 => Sys2Proof.Machine.execDrx c rd rs1 rs2 s
  | .halt c => Sys2Proof.Machine.execHalt c s
  | .engineWord c w => Sys2Proof.Machine.execEngineWord c w s
  | .pendingTrap c => Sys2Proof.Machine.execPendingTrap c s
  | .coreStallEnd c => Sys2Proof.Machine.execCoreStallEnd c s
  | .stop t => Sys2Proof.Machine.execStop t s
  | .stepOpening => Sys2Proof.Machine.execStepOpening s
  | .stcl t => Sys2Proof.Machine.execStcl t s
  | .roundA n => Sys2Proof.Machine.execRoundA n s
  | .roundADone n => Sys2Proof.Machine.execRoundADone n s
  | .roundB n => Sys2Proof.Machine.execRoundB n s
  | .roundBDone n => Sys2Proof.Machine.execRoundBDone n s
  | .fenc t => Sys2Proof.Machine.execFenc t s
  | .copy t units => Sys2Proof.Machine.execCopy t units s
  | .import_ t p => Sys2Proof.Machine.execImport t p s
  | .export_ t p => Sys2Proof.Machine.execExport t p s
  | .rread t => Sys2Proof.Machine.execRread t s
  | .rwrite t => Sys2Proof.Machine.execRwrite t s
  | .racc t => Sys2Proof.Machine.execRacc t s
  | .acc t => Sys2Proof.Machine.execAcc t s
  | .upd t => Sys2Proof.Machine.execUpd t s
  | .smp t => Sys2Proof.Machine.execSmp t s
  | .gth t records => Sys2Proof.Machine.execGth t records s
  | .sct t msgs => Sys2Proof.Machine.execSct t msgs s
  | .clrs t => Sys2Proof.Machine.execClrs t s
  | .mma t blocks => Sys2Proof.Machine.execMma t blocks s
  | .vop t iters => Sys2Proof.Machine.execVop t iters s
  | .draw t p => Sys2Proof.Machine.execDraw t p s
  | .comb t rows => Sys2Proof.Machine.execComb t rows s
  | .flush t => Sys2Proof.Machine.execFlush t s
  | .ctxs t => Sys2Proof.Machine.execCtxs t s
  | .ctxr t => Sys2Proof.Machine.execCtxr t s
  | .dispatch t => Sys2Proof.Machine.execDispatch t s
  | .completion t => Sys2Proof.Machine.execCompletion t s
  | .cqHeadRecheck st => Sys2Proof.Machine.execCqHeadRecheck st s
  | .blockRelease t u => Sys2Proof.Machine.execBlockRelease t u s
  | .antlerReport t h antler => Sys2Proof.Machine.execAntlerReport t h antler s
  | .shadowVerdict t u v => Sys2Proof.Machine.execShadowVerdict t u v s
  | .bucketTrigger n b => Sys2Proof.Machine.execBucketTrigger n b s
  | .nld x f => Sys2Proof.Machine.execNld x f s
  | .vld x f => Sys2Proof.Machine.execVld x f s
  | .vst x f => Sys2Proof.Machine.execVst x f s
  | .vadd x f => Sys2Proof.Machine.execVadd x f s
  | .vsub x f => Sys2Proof.Machine.execVsub x f s
  | .vmul x f => Sys2Proof.Machine.execVmul x f s
  | .vmax x f => Sys2Proof.Machine.execVmax x f s
  | .vmin x f => Sys2Proof.Machine.execVmin x f s
  | .vabs x f => Sys2Proof.Machine.execVabs x f s
  | .vneg x f => Sys2Proof.Machine.execVneg x f s
  | .vscl x f => Sys2Proof.Machine.execVscl x f s
  | .vclp x f => Sys2Proof.Machine.execVclp x f s
  | .vcon x f => Sys2Proof.Machine.execVcon x f s
  | .vcmp x f => Sys2Proof.Machine.execVcmp x f s
  | .vsel x f => Sys2Proof.Machine.execVsel x f s
  | .vdrp x f => Sys2Proof.Machine.execVdrp x f s
  | .vred x f => Sys2Proof.Machine.execVred x f s
  | .tred x f => Sys2Proof.Machine.execTred x f s
  | .vprm x f => Sys2Proof.Machine.execVprm x f s
  | .viota x f => Sys2Proof.Machine.execViota x f s
  | .tld x f => Sys2Proof.Machine.execTld x f s
  | .tst x f => Sys2Proof.Machine.execTst x f s
  | .ttr x f => Sys2Proof.Machine.execTtr x f s
  | .top x f => Sys2Proof.Machine.execTop x f s
  | .tgv x f => Sys2Proof.Machine.execTgv x f s
  | .tpv x f => Sys2Proof.Machine.execTpv x f s
  | .wcv x f => Sys2Proof.Machine.execWcv x f s
  | .wop x f => Sys2Proof.Machine.execWop x f s
  | .wfn x f => Sys2Proof.Machine.execWfn x f s
  | .pcv x f => Sys2Proof.Machine.execPcv x f s
  | .padd x f => Sys2Proof.Machine.execPadd x f s
  | .pmul x f => Sys2Proof.Machine.execPmul x f s
  | .wsum x f => Sys2Proof.Machine.execWsum x f s
  | .wnr x f => Sys2Proof.Machine.execWnr x f s
  | .setvl x f => Sys2Proof.Machine.execSetvl x f s
  | .sumc x f => Sys2Proof.Machine.execSumc x f s
  | .nop t u f => Sys2Proof.Machine.execNop t u f s
  | .mov t u f => Sys2Proof.Machine.execMov t u f s
  | .add t u f => Sys2Proof.Machine.execAdd t u f s
  | .sub t u f => Sys2Proof.Machine.execSub t u f s
  | .mul t u f => Sys2Proof.Machine.execMul t u f s
  | .mulc t u f => Sys2Proof.Machine.execMulc t u f s
  | .mac t u f => Sys2Proof.Machine.execMac t u f s
  | .lrp t u f => Sys2Proof.Machine.execLrp t u f s
  | .sqr t u f => Sys2Proof.Machine.execSqr t u f s
  | .abs t u f => Sys2Proof.Machine.execAbs t u f s
  | .neg t u f => Sys2Proof.Machine.execNeg t u f s
  | .sgn t u f => Sys2Proof.Machine.execSgn t u f s
  | .max t u f => Sys2Proof.Machine.execMax t u f s
  | .min t u f => Sys2Proof.Machine.execMin t u f s
  | .ldc t u f => Sys2Proof.Machine.execLdc t u f s
  | .scl t u f => Sys2Proof.Machine.execScl t u f s
  | .rcp t u f => Sys2Proof.Machine.execRcp t u f s
  | .rsq t u f => Sys2Proof.Machine.execRsq t u f s
  | .pwr t u f => Sys2Proof.Machine.execPwr t u f s
  | .grp t u f => Sys2Proof.Machine.execGrp t u f s
  | .rsum t u f => Sys2Proof.Machine.execRsum t u f s
  | .rmax t u f => Sys2Proof.Machine.execRmax t u f s
  | .red t u f => Sys2Proof.Machine.execRed t u f s
  | .apl t u f => Sys2Proof.Machine.execApl t u f s
  | .clp t u f => Sys2Proof.Machine.execClp t u f s
  | .word p m => Sys2Proof.Machine.execWord p m s
  | .write p m => Sys2Proof.Machine.execWrite p m s
  | .read p m => Sys2Proof.Machine.execRead p m s
  | .sopen p m => Sys2Proof.Machine.execSopen p m s
  | .sclose p m => Sys2Proof.Machine.execSclose p m s
  | .rxcred p m => Sys2Proof.Machine.execRxcred p m s
  | .rdreq p k => Sys2Proof.Machine.execRdreq p k s
  | .wrreq p k => Sys2Proof.Machine.execWrreq p k s
  | .accm p k => Sys2Proof.Machine.execAccm p k s
  | .preq p k => Sys2Proof.Machine.execPreq p k s
  | .fwd p k => Sys2Proof.Machine.execFwd p k s
  | .pend p k => Sys2Proof.Machine.execPend p k s
  | .rply p k => Sys2Proof.Machine.execRply p k s
  | .rel p k => Sys2Proof.Machine.execRel p k s
  | .ring p k => Sys2Proof.Machine.execRing p k s
  | .bar p k => Sys2Proof.Machine.execBar p k s
  | .beac p k => Sys2Proof.Machine.execBeac p k s
  | .bleat p k => Sys2Proof.Machine.execBleat p k s
  | .excl p k => Sys2Proof.Machine.execExcl p k s
  | .packetForward p k => Sys2Proof.Machine.execPacketForward p k s
  | .linkReplay p fails => Sys2Proof.Machine.execLinkReplay p fails s
  | .fabricLinkDown p lost => Sys2Proof.Machine.execFabricLinkDown p lost s
  | .fabricLinkUp p far => Sys2Proof.Machine.execFabricLinkUp p far s
  | .moduleDown l => Sys2Proof.Machine.execModuleDown l s
  | .beaconSend => Sys2Proof.Machine.execBeaconSend s
  | .beaconSilence d => Sys2Proof.Machine.execBeaconSilence d s
  | .reissue t => Sys2Proof.Machine.execReissue t s
  | .reissueSilence t => Sys2Proof.Machine.execReissueSilence t s
  | .pendTimer src ticket => Sys2Proof.Machine.execPendTimer src ticket s
  | .rplyResend src ticket => Sys2Proof.Machine.execRplyResend src ticket s
  | .originatorSilence src ticket => Sys2Proof.Machine.execOriginatorSilence src ticket s
  | .residencyDiscard k => Sys2Proof.Machine.execResidencyDiscard k s
  | .quarantineEnd t => Sys2Proof.Machine.execQuarantineEnd t s
  | .filterEntryExpiry h src ticket => Sys2Proof.Machine.execFilterEntryExpiry h src ticket s
  | .heldKeyExpiry src ticket => Sys2Proof.Machine.execHeldKeyExpiry src ticket s
  | .remoteStreamIdleClose st => Sys2Proof.Machine.execRemoteStreamIdleClose st s
  | .hoofLinkTimeout h => Sys2Proof.Machine.execHoofLinkTimeout h s
  | .hostResponseTimeout p => Sys2Proof.Machine.execHostResponseTimeout p s
  | .linkRetrainTimeout l => Sys2Proof.Machine.execLinkRetrainTimeout l s
  | .fabricPortRetire p => Sys2Proof.Machine.execFabricPortRetire p s
  | .rateWindow d mhz => Sys2Proof.Machine.execRateWindow d mhz s
  | .dramRefresh h ch bank => Sys2Proof.Machine.execDramRefresh h ch bank s
  | .scrub h ch acc errs errs2 => Sys2Proof.Machine.execScrub h ch acc errs errs2 s
  | .patchMoveDone h ch patch => Sys2Proof.Machine.execPatchMoveDone h ch patch s
  | .parityDelta k => Sys2Proof.Machine.execParityDelta k s
  | .fullStripeComplete k => Sys2Proof.Machine.execFullStripeComplete k s
  | .streamRefill st => Sys2Proof.Machine.execStreamRefill st s
  | .streamCloseComplete st => Sys2Proof.Machine.execStreamCloseComplete st s
  | .domainWake d => Sys2Proof.Machine.execDomainWake d s
  | .domainIdleGate d => Sys2Proof.Machine.execDomainIdleGate d s
  | .functionDisabled f => Sys2Proof.Machine.execFunctionDisabled f s
  | .hoofTrained h p => Sys2Proof.Machine.execHoofTrained h p s
  | .rstNAssert ns => Sys2Proof.Machine.execRstNAssert ns s
  | .rstNRelease => Sys2Proof.Machine.execRstNRelease s
  | .wrstNAssert ns => Sys2Proof.Machine.execWrstNAssert ns s
  | .warmResetRemoteTimeout t => Sys2Proof.Machine.execWarmResetRemoteTimeout t s
  | .warmResetIdleDone => Sys2Proof.Machine.execWarmResetIdleDone s
  | .wrstNRelease => Sys2Proof.Machine.execWrstNRelease s
  | .refclkLoss d => Sys2Proof.Machine.execRefclkLoss d s
  | .supplyFault d => Sys2Proof.Machine.execSupplyFault d s
  | .thermAlert d celsius => Sys2Proof.Machine.execThermAlert d celsius s
  | .thermalTrip d celsius => Sys2Proof.Machine.execThermalTrip d celsius s
  | .coreRun c bootpc => Sys2Proof.Machine.execCoreRun c bootpc s
  | .coreHalt c => Sys2Proof.Machine.execCoreHalt c s
  | .wake c => Sys2Proof.Machine.execWake c s
  | .rateClr d => Sys2Proof.Machine.execRateClr d s
  | .rateLowClear d => Sys2Proof.Machine.execRateLowClear d s
  | .drxtestCall v => Sys2Proof.Machine.execDrxtestCall v s
  | .toutRead hi => Sys2Proof.Machine.execToutRead hi s
  | .streamOpen st img => Sys2Proof.Machine.execStreamOpen st img s
  | .streamClose st => Sys2Proof.Machine.execStreamClose st s
  | .streamReconfigure st img => Sys2Proof.Machine.execStreamReconfigure st img s
  | .enable f => Sys2Proof.Machine.execEnable f s
  | .drain f => Sys2Proof.Machine.execDrain f s
  | .abort f => Sys2Proof.Machine.execAbort f s
  | .pclr => Sys2Proof.Machine.execPclr s
  | .fabadmit d => Sys2Proof.Machine.execFabadmit d s
  | .fabcfgWrite v => Sys2Proof.Machine.execFabcfgWrite v s
  | .slayWrite n v => Sys2Proof.Machine.execSlayWrite n v s
  | .spaceWrite k b v => Sys2Proof.Machine.execSpaceWrite k b v s
  | .hresvWrite h v => Sys2Proof.Machine.execHresvWrite h v s
  | .pwrctlWrite v => Sys2Proof.Machine.execPwrctlWrite v s
  | .vecstatWrite v => Sys2Proof.Machine.execVecstatWrite v s
  | .drstatWrite v => Sys2Proof.Machine.execDrstatWrite v s
  | .lstatWrite p v => Sys2Proof.Machine.execLstatWrite p v s
  | .mlogptrWrite v => Sys2Proof.Machine.execMlogptrWrite v s
  | .fltstatWrite v => Sys2Proof.Machine.execFltstatWrite v s
  | .thermWrite v => Sys2Proof.Machine.execThermWrite v s
  | .sbstatRead => Sys2Proof.Machine.execSbstatRead s
  | .arrhsRead => Sys2Proof.Machine.execArrhsRead s
  | .arrmacRead => Sys2Proof.Machine.execArrmacRead s
  | .shdcnt0Read => Sys2Proof.Machine.execShdcnt0Read s
  | .shdcnt1Read => Sys2Proof.Machine.execShdcnt1Read s
  | .grcntRead h => Sys2Proof.Machine.execGrcntRead h s
  | .sholdRead => Sys2Proof.Machine.execSholdRead s
  | .strmcntRead => Sys2Proof.Machine.execStrmcntRead s
  | .drcntRead => Sys2Proof.Machine.execDrcntRead s
  | .fabcnt0Read => Sys2Proof.Machine.execFabcnt0Read s
  | .fabcnt1Read => Sys2Proof.Machine.execFabcnt1Read s
  | .lstatRead p => Sys2Proof.Machine.execLstatRead p s
  | .heccRead h => Sys2Proof.Machine.execHeccRead h s
  | .parcntRead h => Sys2Proof.Machine.execParcntRead h s
  | .fltcntRead => Sys2Proof.Machine.execFltcntRead s
  | .hpstatRead p => Sys2Proof.Machine.execHpstatRead p s
  | .hlstatRead h => Sys2Proof.Machine.execHlstatRead h s
  | .registerWrite off v => Sys2Proof.Machine.execRegisterWrite off v s
  | .i3cReadCommand addr => Sys2Proof.Machine.execI3cReadCommand addr s
  | .i3cWriteCommand addr data => Sys2Proof.Machine.execI3cWriteCommand addr data s
  | .i3cResultRead => Sys2Proof.Machine.execI3cResultRead s
  | .entdaa a => Sys2Proof.Machine.execEntdaa a s
  | .setdasa a => Sys2Proof.Machine.execSetdasa a s
  | .setnewda a => Sys2Proof.Machine.execSetnewda a s
  | .rstdaa => Sys2Proof.Machine.execRstdaa s
  | .getpid => Sys2Proof.Machine.execGetpid s
  | .getbcr => Sys2Proof.Machine.execGetbcr s
  | .getdcr => Sys2Proof.Machine.execGetdcr s
  | .getstatus => Sys2Proof.Machine.execGetstatus s
  | .tapReset => Sys2Proof.Machine.execTapReset s
  | .idcode => Sys2Proof.Machine.execIdcode s
  | .samplePreload => Sys2Proof.Machine.execSamplePreload s
  | .extest => Sys2Proof.Machine.execExtest s
  | .clamp => Sys2Proof.Machine.execClamp s
  | .highz => Sys2Proof.Machine.execHighz s
  | .ijtag instrument => Sys2Proof.Machine.execIjtag instrument s
  | .bypass => Sys2Proof.Machine.execBypass s
  | .bringUpComplete badBanks => Sys2Proof.Machine.execBringUpComplete badBanks s
  | .hostLinkUp p => Sys2Proof.Machine.execHostLinkUp p s
  | .hoofLinkUp h => Sys2Proof.Machine.execHoofLinkUp h s
  | .malformedPacket p => Sys2Proof.Machine.execMalformedPacket p s
  | .discardedHostMessage p => Sys2Proof.Machine.execDiscardedHostMessage p s
  | .otherCcc directed => Sys2Proof.Machine.execOtherCcc directed s

end Sys2Proof.Machine
end

