-- ==== Sys2Proof/WellFormed.lean ====
section
/-!
DEFINITION. Well-formed commands: what the spec makes true of the operands of every command that can come, beyond the widths of the
fields. A message or packet that breaks a rule the spec answers (a wrong LEN, a bad checksum) is well formed: the block answers it.
-/

namespace Sys2Proof

/-- The payload of a packet is a whole number of 64-byte units, at most 64 of them (R362). -/
def wholeUnits (k : Packet) : Bool := decide (k.payload.length % 64 = 0) && decide (k.payload.length ≤ 4096)

/-- A host message with a payload carries LEN units of 64 bytes (Table 17-5). -/
def sizedPayload (m : HostMsg) : Bool := decide (m.payload.length = 64 * m.len.toNat)

/-- The errors of one access name each symbol once. -/
def FaultUnit.wf : FaultUnit → Bool
  | .dram _ _ _ errs errs2 => (errs.map Prod.fst).Nodup && (errs2.map Prod.fst).Nodup
  | _ => true

/-- Is a command well formed? -/
def Instr.wf : Instr → Bool
  | .op .. => true
  | .addi .. => true
  | .andi .. => true
  | .ori .. => true
  | .xori .. => true
  | .shi .. => true
  | .li .. => true
  | .cmp .. => true
  | .cmpi .. => true
  | .plog .. => true
  | .ld .. => true
  | .st .. => true
  | .ld32 .. => true
  | .st32 .. => true
  | .br .. => true
  | .jal .. => true
  | .jr .. => true
  | .wait .. => true
  | .summ .. => true
  | .tsts .. => true
  | .fence .. => true
  | .mfs .. => true
  | .mts .. => true
  | .tret .. => true
  | .brk .. => true
  | .drx .. => true
  | .halt .. => true
  | .engineWord .. => true
  | .pendingTrap .. => true
  | .coreStallEnd .. => true
  | .stop .. => true
  | .stepOpening => true
  | .stcl .. => true
  | .roundA .. => true
  | .roundADone .. => true
  | .roundB .. => true
  | .roundBDone .. => true
  | .fenc .. => true
  | .copy .. => true
  | .import_ .. => true
  | .export_ .. => true
  | .rread .. => true
  | .rwrite .. => true
  | .racc .. => true
  | .acc .. => true
  | .upd .. => true
  | .smp .. => true
  | .gth .. => true
  | .sct .. => true
  | .clrs .. => true
  | .mma .. => true
  | .vop .. => true
  | .draw .. => true
  | .comb .. => true
  | .flush .. => true
  | .ctxs .. => true
  | .ctxr .. => true
  | .dispatch .. => true
  | .completion .. => true
  | .cqHeadRecheck .. => true
  | .blockRelease .. => true
  | .antlerReport .. => true
  | .shadowVerdict .. => true
  | .bucketTrigger .. => true
  | .nld .. => true
  | .vld .. => true
  | .vst .. => true
  | .vadd .. => true
  | .vsub .. => true
  | .vmul .. => true
  | .vmax .. => true
  | .vmin .. => true
  | .vabs .. => true
  | .vneg .. => true
  | .vscl .. => true
  | .vclp .. => true
  | .vcon .. => true
  | .vcmp .. => true
  | .vsel .. => true
  | .vdrp .. => true
  | .vred .. => true
  | .tred .. => true
  | .vprm .. => true
  | .viota .. => true
  | .tld .. => true
  | .tst .. => true
  | .ttr .. => true
  | .top .. => true
  | .tgv .. => true
  | .tpv .. => true
  | .wcv .. => true
  | .wop .. => true
  | .wfn .. => true
  | .pcv .. => true
  | .padd .. => true
  | .pmul .. => true
  | .wsum .. => true
  | .wnr .. => true
  | .setvl .. => true
  | .sumc .. => true
  | .nop .. => true
  | .mov .. => true
  | .add .. => true
  | .sub .. => true
  | .mul .. => true
  | .mulc .. => true
  | .mac .. => true
  | .lrp .. => true
  | .sqr .. => true
  | .abs .. => true
  | .neg .. => true
  | .sgn .. => true
  | .max .. => true
  | .min .. => true
  | .ldc .. => true
  | .scl .. => true
  | .rcp .. => true
  | .rsq .. => true
  | .pwr .. => true
  | .grp .. => true
  | .rsum .. => true
  | .rmax .. => true
  | .red .. => true
  | .apl .. => true
  | .clp .. => true
  | .word _ m => sizedPayload m
  | .write _ m => sizedPayload m
  | .read _ m => m.payload.isEmpty
  | .sopen _ m => sizedPayload m
  | .sclose _ m => m.payload.isEmpty
  | .rxcred _ m => m.payload.isEmpty
  | .rdreq _ k => wholeUnits k
  | .wrreq _ k => wholeUnits k
  | .accm _ k => wholeUnits k
  | .preq _ k => wholeUnits k
  | .fwd _ k => wholeUnits k
  | .pend _ k => wholeUnits k
  | .rply _ k => wholeUnits k
  | .rel _ k => wholeUnits k
  | .ring _ k => wholeUnits k
  | .bar _ k => wholeUnits k
  | .beac _ k => wholeUnits k
  | .bleat _ k => wholeUnits k
  | .excl _ k => wholeUnits k
  | .packetForward _ k => wholeUnits k
  | .linkReplay .. => true
  | .fabricLinkDown .. => true
  | .fabricLinkUp .. => true
  | .moduleDown l => l.unit.wf
  | .beaconSend => true
  | .beaconSilence .. => true
  | .reissue .. => true
  | .reissueSilence .. => true
  | .pendTimer .. => true
  | .rplyResend .. => true
  | .originatorSilence .. => true
  | .residencyDiscard .. => true
  | .quarantineEnd .. => true
  | .filterEntryExpiry .. => true
  | .heldKeyExpiry .. => true
  | .remoteStreamIdleClose .. => true
  | .hoofLinkTimeout .. => true
  | .hostResponseTimeout .. => true
  | .linkRetrainTimeout .. => true
  | .fabricPortRetire .. => true
  | .rateWindow .. => true
  | .dramRefresh .. => true
  | .scrub _ _ _ errs errs2 => (errs.map Prod.fst).Nodup && (errs2.map Prod.fst).Nodup
  | .patchMoveDone .. => true
  | .parityDelta .. => true
  | .fullStripeComplete .. => true
  | .streamRefill .. => true
  | .streamCloseComplete .. => true
  | .domainWake .. => true
  | .domainIdleGate .. => true
  | .functionDisabled .. => true
  | .hoofTrained .. => true
  | .rstNAssert .. => true
  | .rstNRelease => true
  | .wrstNAssert .. => true
  | .warmResetRemoteTimeout .. => true
  | .warmResetIdleDone => true
  | .wrstNRelease => true
  | .refclkLoss .. => true
  | .supplyFault .. => true
  | .thermAlert .. => true
  | .thermalTrip .. => true
  | .coreRun .. => true
  | .coreHalt .. => true
  | .wake .. => true
  | .rateClr .. => true
  | .rateLowClear .. => true
  | .drxtestCall .. => true
  | .toutRead .. => true
  | .streamOpen .. => true
  | .streamClose .. => true
  | .streamReconfigure .. => true
  | .enable .. => true
  | .drain .. => true
  | .abort .. => true
  | .pclr => true
  | .fabadmit .. => true
  | .fabcfgWrite .. => true
  | .slayWrite .. => true
  | .spaceWrite .. => true
  | .hresvWrite .. => true
  | .pwrctlWrite .. => true
  | .vecstatWrite .. => true
  | .drstatWrite .. => true
  | .lstatWrite .. => true
  | .mlogptrWrite .. => true
  | .fltstatWrite .. => true
  | .thermWrite .. => true
  | .sbstatRead => true
  | .arrhsRead => true
  | .arrmacRead => true
  | .shdcnt0Read => true
  | .shdcnt1Read => true
  | .grcntRead .. => true
  | .sholdRead => true
  | .strmcntRead => true
  | .drcntRead => true
  | .fabcnt0Read => true
  | .fabcnt1Read => true
  | .lstatRead .. => true
  | .heccRead .. => true
  | .parcntRead .. => true
  | .fltcntRead => true
  | .hpstatRead .. => true
  | .hlstatRead .. => true
  | .registerWrite off _ => decide (off.toNat % 8 = 0)
  | .i3cReadCommand .. => true
  | .i3cWriteCommand .. => true
  | .i3cResultRead => true
  | .entdaa .. => true
  | .setdasa .. => true
  | .setnewda .. => true
  | .rstdaa => true
  | .getpid => true
  | .getbcr => true
  | .getdcr => true
  | .getstatus => true
  | .tapReset => true
  | .idcode => true
  | .samplePreload => true
  | .extest => true
  | .clamp => true
  | .highz => true
  | .ijtag i => decide (i.toNat < 5)
  | .bypass => true
  | .bringUpComplete bs => bs.Nodup
  | .hostLinkUp .. => true
  | .hoofLinkUp .. => true
  | .malformedPacket .. => true
  | .discardedHostMessage .. => true
  | .otherCcc .. => true

end Sys2Proof
end

