-- ==== Sys2Proof/Safety.lean ====
section
/-!
DEFINITION. The terms in which statements about the block are made: what a command answers, when a core, an operation, a unit or a message
is at work, and what a command leaves as it was.
-/

namespace Sys2Proof.Machine

/-- The canonical form of a byte memory: addresses strictly rising, no entry equal to the zero that an unlisted address reads as. -/
def Memory.wf (m : List Host.Cell) : Bool := mwf (fun _ => (0 : Byte)) m

/-- The store and the DRAM are in canonical form. -/
def memoryWf (s : State) : Bool := Memory.wf s.store && Memory.wf s.dram

/-- The command completes and leaves `r`, but for the two things that the end of every command settles: the queue is as the command found it,
and TPPEAK has seen TPUSE (Table 11-11). -/
def Answers (i : Instr) (s r : State) : Prop := exec i s = .next (settle s r)

/-! ### Control cores -/

/-- Core c begins an instruction of n bytes: the device works, the core runs, does not stall and has no trap waiting at this boundary, and
its PC names n bytes of the store that may be fetched (R146, R151, R171). -/
def Fetches (s : State) (c : CoreId) (n : Nat) : Prop := coreReady s c.toNat = true ∧ fetchOk s (s.core c.toNat).pc n = true

/-- Whose turn it is in the pairs of cores under pair service may have passed on, and only for the pair of core c (R411). -/
def OnlyTurn (s t : State) (c : CoreId) : Prop :=
  (paired s c.toNat = false → t.mgmt.oddTurn = s.mgmt.oddTurn) ∧ ∀ p, p ≠ c.toNat / 2 → (p ∈ t.mgmt.oddTurn ↔ p ∈ s.mgmt.oddTurn)

/-- Nothing but core c differs: no other core, no register of the block, no byte of the store or of DRAM. -/
def OnlyCore (s t : State) (c : CoreId) : Prop :=
  t = settle s { s with cores := t.cores, mgmt := { s.mgmt with oddTurn := t.mgmt.oddTurn } } ∧ OnlyTurn s t c ∧ ∀ d, d ≠ c.toNat → t.core d = s.core d

/-- The command writes v to scalar register rd of core c and moves its PC on by n bytes; a write to s0 is discarded. Nothing else changes. -/
def WritesReg (i : Instr) (s : State) (c : CoreId) (rd : BitVec 5) (v : W64) (n : Nat) : Prop :=
  ∃ t, exec i s = .next t ∧ OnlyCore s t c
    ∧ t.core c.toNat = { s.core c.toNat with s := (t.core c.toNat).s, pc := (s.core c.toNat).pc + BitVec.ofNat 64 n }
    ∧ ∀ k, (t.core c.toNat).getS k = if k = rd.toNat ∧ k ≠ 0 then v else (s.core c.toNat).getS k

/-- The command writes b to predicate p of core c and moves its PC on by 4 bytes; a write to p0 is discarded. Nothing else changes. -/
def WritesPred (i : Instr) (s : State) (c : CoreId) (p : Nat) (b : Bool) : Prop :=
  ∃ t, exec i s = .next t ∧ OnlyCore s t c
    ∧ t.core c.toNat = { s.core c.toNat with p := (t.core c.toNat).p, pc := (s.core c.toNat).pc + 4 }
    ∧ ∀ k, (t.core c.toNat).getP k = if k = p ∧ k ≠ 0 then b else (s.core c.toNat).getP k

/-- The command changes core c to k and nothing else. -/
def SetsCore (i : Instr) (s : State) (c : CoreId) (k : Core) : Prop :=
  ∃ t, exec i s = .next t ∧ OnlyCore s t c ∧ t.core c.toNat = k

/-- Every byte of the store and of the DRAM window outside n bytes at local address a reads as before. -/
def SameOutside (s t : State) (a n : Nat) : Prop := ∀ x, x < a ∨ a + n ≤ x → localByte t x = localByte s x

/-- Nothing but cores, the store and what the buckets note of writes to them (R332) differs. -/
def OnlyStores (s t : State) (c : CoreId) : Prop :=
  t = settle s { s with cores := t.cores, store := t.store, armed := t.armed, mgmt := { s.mgmt with oddTurn := t.mgmt.oddTurn } } ∧ OnlyTurn s t c

/-- Core c takes a precise trap at the instruction at its PC (R171): the record enters the queue, the PC goes to EPC, IN_TRAP is set, and the
core continues at TVEC. -/
def TakesTrap (i : Instr) (s : State) (c : CoreId) (r : TrapRec) : Prop :=
  let k := s.core c.toNat
  ∃ t, exec i s = .next t
    ∧ OnlyStores s t c
    ∧ t.store = (s.stWrite (k.tqbase.toNat / 512 * 512 + 32 * (k.tqtail.toNat % 16)) (trapBytes r)).store
    ∧ t.core c.toNat = { k with stall := none, tqtail := k.tqtail + 1, epc := k.pc &&& ~~~3#64, inTrap := true, pc := k.tvec &&& ~~~3#64 }
    ∧ ∀ d, d ≠ c.toNat → t.core d = s.core d

/-- Core c can take a trap: it is in none, and its queue has room (R171, R173). -/
def TrapFree (s : State) (c : CoreId) : Prop := (s.core c.toNat).inTrap = false ∧ tqFull (s.core c.toNat) = false

/-! ### Operations -/

/-- Slot t holds an issued operation of code opc whose turn for acceptance has come. -/
def Accepts (s : State) (t : SlotId) (opc : Nat) (o : Op) : Prop :=
  s.op t.toNat = some o ∧ o.opc = opc ∧ acceptTurn s t.toNat = true

/-- Slot t holds a dispatched operation of code opc on a working device. -/
def Works (s : State) (t : SlotId) (opc : Nat) (o : Op) : Prop :=
  s.op t.toNat = some o ∧ o.opc = opc ∧ o.phase = .running ∧ s.live = true

/-- The command changes the operation in slot t to o and nothing else: the slot keeps its generation, every other slot its contents. -/
def SetsOp (i : Instr) (s : State) (t : SlotId) (o : Op) : Prop :=
  ∃ r, exec i s = .next r ∧ r = settle s { s with slots := r.slots } ∧ r.slot t.toNat = { s.slot t.toNat with st := .busy o }
    ∧ ∀ x, x ≠ t.toNat → r.slot x = s.slot x

/-- An operation that has met nothing yet: no status but OK, no void. -/
def Clean (o : Op) : Prop := o.status = 0 ∧ o.voids = none

/-- The operation o as the scheduler tags it at acceptance (R179). -/
def tagged (s : State) (o : Op) : Op := { o with step := (newestStep s).map (fun x => x.num) }

/-- A row of an engine operation: its slot, code, whether it needs a step, the check at acceptance, and the work of the command. -/
structure OpRow where
  slot : SlotId
  opc  : Nat
  need : State → Op → Bool
  chk  : State → Op → Chk
  work : State → Op → State

/-- The engine operations of Table 6-8 whose command both accepts and works; UPD works through its units. -/
def opRowOf : Instr → Option OpRow
  | .copy t n => some ⟨t, 0x10, fun _ _ => false, copyCheck, copyWork t.toNat n⟩
  | .import_ t p => some ⟨t, 0x11, fun _ _ => false, convCheck true p, importRow t.toNat⟩
  | .export_ t p => some ⟨t, 0x12, fun _ _ => false, convCheck false p, exportRow t.toNat⟩
  | .rread t => some ⟨t, 0x13, fun _ _ => false, remCheck true, fun s o => if o.isSub then s else readStep s t.toNat o⟩
  | .rwrite t => some ⟨t, 0x14, fun _ _ => false, remCheck false, fun s o => if o.isSub then s else writeStep s t.toNat o⟩
  | .racc t => some ⟨t, 0x15, fun _ _ => true, accCheck false, raccWork t.toNat⟩
  | .acc t => some ⟨t, 0x21, fun _ _ => true, accCheck true, accWork t.toNat⟩
  | .smp t => some ⟨t, 0x22, fun _ _ => true, smpCheck, smpWork t.toNat⟩
  | .gth t n => some ⟨t, 0x23, fun _ _ => false, gthCheck, gthWork t.toNat n⟩
  | .sct t n => some ⟨t, 0x24, fun _ _ => true, sctCheck, sctWork t.toNat n⟩
  | .clrs t => some ⟨t, 0x25, fun _ _ => true, clrsCheck, clrsWork t.toNat⟩
  | .mma t n => some ⟨t, 0x30, fun _ _ => false, mmaCheck, mmaWork t.toNat n⟩
  | .vop t n => some ⟨t, 0x40, vopNeeds, vopCheck, vopWork t.toNat n⟩
  | .draw t p => some ⟨t, 0x41, fun _ _ => true, drawCheck p, drawRow t.toNat p⟩
  | .comb t n => some ⟨t, 0x42, fun _ _ => true, combCheck, combWork t.toNat n⟩
  | .flush t => some ⟨t, 0x50, fun _ _ => true, flushCheck, fun s o => flushStep s t.toNat o⟩
  | _ => none

/-! ### Units of an update -/

/-- A micro-op row: the slot, the unit, the code of Table 7-3 and the fields. -/
def microRowOf : Instr → Option (SlotId × Nat × Nat × MicroF)
  | .nop t u f => some (t, u, 0x00, f) | .mov t u f => some (t, u, 0x01, f) | .add t u f => some (t, u, 0x02, f)
  | .sub t u f => some (t, u, 0x03, f) | .mul t u f => some (t, u, 0x04, f) | .mulc t u f => some (t, u, 0x05, f)
  | .mac t u f => some (t, u, 0x06, f) | .lrp t u f => some (t, u, 0x07, f) | .sqr t u f => some (t, u, 0x08, f)
  | .abs t u f => some (t, u, 0x09, f) | .neg t u f => some (t, u, 0x0A, f) | .sgn t u f => some (t, u, 0x0B, f)
  | .max t u f => some (t, u, 0x0C, f) | .min t u f => some (t, u, 0x0D, f) | .ldc t u f => some (t, u, 0x0E, f)
  | .scl t u f => some (t, u, 0x0F, f) | .rcp t u f => some (t, u, 0x10, f) | .rsq t u f => some (t, u, 0x11, f)
  | .pwr t u f => some (t, u, 0x12, f) | .grp t u f => some (t, u, 0x13, f) | .rsum t u f => some (t, u, 0x14, f)
  | .rmax t u f => some (t, u, 0x15, f) | .red t u f => some (t, u, 0x16, f) | .apl t u f => some (t, u, 0x17, f)
  | .clp t u f => some (t, u, 0x18, f) | _ => none

/-- The fields of a micro-op command as the word of the program gives them. -/
def mopOf (op : Nat) (f : MicroF) : MOp :=
  { op := op, d := f.d.toNat, a := f.a.toNat, b := f.b.toNat, k := f.k.toNat, imm := f.imm.toNat }

/-- Unit u of the UPD in slot t stands at the micro-op of the command: o, c and x are the operation, its context and the unit. -/
def AtMicro (s : State) (t : SlotId) (u op : Nat) (f : MicroF) (o : Op) (c : UpdCtx) (x : Unit) : Prop :=
  updUnit s t.toNat u = some (o, c, x) ∧ (o.prog[x.upc]?).map parseMOp = some (mopOf op f)

/-! ### Vector contexts -/

/-- Context x works for a VOP whose program names this instruction next, and which ABORT does not stop there (R242, R250). -/
def AtVec (s : State) (x : Fin 8) (op : Nat) (f : VecF) (e : VEnv) : Prop := vecNext s x.val op f = some e ∧ e.stopped = false

/-- The command leaves r, and the program of the VOP in context e moves on: to its next instruction, to its next iteration, or to its end (R242,
R247). -/
def VecLeaves (i : Instr) (s : State) (e : VEnv) (r : State) : Prop := Answers i s (vopAdvance r e.t)

/-! ### Messages and packets -/

/-- A packet of kind `kd` that reaches this device on port p whole and from a present partner. -/
def Reaches (s : State) (p : FabPort) (kd : Byte) (k : Packet) : Prop :=
  reaches s p.toNat { k with kind := kd } = true ∧ fromAbsent (ecrcGood s p.toNat { k with kind := kd }) { k with kind := kd } = false

/-- A host message arrives on the port of its requester with a length the spec admits. -/
def Arrives (s : State) (p : HostPort) (m : HostMsg) : Prop :=
  hostUp s p.toNat = true ∧ hostBadLen m = false ∧ reqPort m.req.toNat = p.toNat

/-! ### Invariants -/

/-- TPPEAK is at least TPUSE (Table 11-11). -/
def PeakInv (s : State) : Prop := tpuse s ≤ s.units.tppeak

end Sys2Proof.Machine
end

