-- ==== Sys2Proof/Certificates/Slice0/Obligations.lean ====
section
/-!
DEFINITION. The statements about the block, each a proposition named after what it says. OBLIGATIONS.json lists them.
-/

open Sys2Proof Sys2Proof.Machine

/-- A step runs the command at the front of the queue (00_scope.md R17). -/
def Obligations.StepRunsFrontCommand : Prop :=
  ∀ (c : Instr) (rest : List Instr) (s : State), step { s with pending := c :: rest } = exec c { s with pending := rest }

/-- A step on an empty queue is one tick of local time (model choice, log entry 6) (02_handshake_timing.md R52, 02_handshake_timing.md R56). -/
def Obligations.EmptyQueueTicks : Prop :=
  ∀ s : State, s.pending = [] → step s = .next (tick s)
    ∧ (s.phase ≠ .coldReset → s.mgmt.refclk = true → (tickAll s).mgmt = { s.mgmt with ltime := (s.mgmt.ltime + 1) % 2 ^ 64 })
    ∧ (s.phase = .coldReset ∨ s.mgmt.refclk = false → (tickAll s).mgmt = s.mgmt)

/-- What the registers with a reset value in the CSR tables read as after reset (Table 4-5, Table 11-8, Table 13-7, Table 14-6, Table 16-8, Table 16-9, Table 16-10, Table 17-7, Table 6-1, Table 6-5). -/
def Obligations.ResetRegisterValues : Prop :=
  csrRead State.reset (bSCHED + 0x200) = 0x0004400400C800C8 ∧ csrRead State.reset (bSCHED + 0x600) = 4
    ∧ (∀ k : BitVec 6, csrRead State.reset (bSCHED + 0x800 + 16 * k.toNat) = 0x24 ∧ csrRead State.reset (bSCHED + 0x808 + 16 * k.toNat) = 0)
    ∧ csrRead State.reset 0x300 = 0x4000000540 ∧ csrRead State.reset 0x308 = 1 ∧ csrRead State.reset 0x310 = 0x2690000
    ∧ csrRead State.reset bSTORE = 0x004003C000040000 ∧ csrRead State.reset (bSTORE + 8) = 0x00000001010002C0
    ∧ csrRead State.reset (bSTORE + 0x10) = 0x08080280 ∧ csrRead State.reset (bVEC + 0x100) = 0x6A ∧ csrRead State.reset bHOST = 0xF
    ∧ (∀ h : HoofId, csrRead State.reset (hoofReg h 0x310) = 0x1801 ∧ csrRead State.reset (hoofReg h 0x200) = 0)
    ∧ (∀ o ∈ [0x100, 0x108, 0x110, 0x200, 0x210, 0x218, bSCHED + 0x210, bSCHED + 0x218, bSCHED + 0x230, bSCHED + 0x508, bSCHED + 0x510,
          bSCHED + 0x628, bSCHED + 0x630, bSCHED + 0xC00, bSCHED + 0xC08, bSTORE + 0x20, bARRAY, bARRAY + 0x10, bARRAY + 0x18,
          bVEC + 0x110, bVEC + 0x118, bVEC + 0x200, bVEC + 0x210], csrRead State.reset o = 0)
    ∧ (∀ c : CoreId, (State.reset.core c.toNat).running = false ∧ (State.reset.core c.toNat).pc = 0
        ∧ (State.reset.core c.toNat).stream.toNat = c.toNat ∧ (∀ i, (State.reset.core c.toNat).getS i = 0)
        ∧ (State.reset.strm c.toNat).isSome = true)
    ∧ (∀ t : SlotId, State.reset.slot t.toNat = { gen := 15, st := .free }) ∧ State.reset.pending = []

/-- Every command completes in a next state: none faults, none is refused (00_scope.md R19, 06_instruction_set.md R151, 06_instruction_set.md R168). -/
def Obligations.EveryCommandCompletes : Prop :=
  (∀ (c : Instr) (s : State), ∃ t, exec c s = .next t) ∧ ∀ s : State, ∃ t, step s = .next t

/-- A step takes exactly the front command off the queue (17_ports_and_registers.md R315). -/
def Obligations.QueueIsFirstInFirstOut : Prop :=
  ∀ s t : State, step s = .next t → t.pending = s.pending.tail

/-- TPPEAK never falls below TPUSE: every step keeps it, whatever the command (Table 11-11, 11_store_and_streams.md R299, 11_store_and_streams.md R324). -/
def Obligations.TransitPeakCoversUse : Prop :=
  ∀ s t : State, PeakInv s → step s = .next t → PeakInv t

/-- TPPEAK covers TPUSE after reset (Table 11-11, 11_store_and_streams.md R299). -/
def Obligations.TransitPeakAtReset : Prop :=
  PeakInv State.reset ∧ tpuse State.reset = 0

/-- A fail-stopped device leaves that state only through RST_N, and until then nothing of its work changes (15_faults_and_service.md R423, 15_faults_and_service.md R424). -/
def Obligations.FailStopEndsOnlyByReset : Prop :=
  ∀ s t : State, s.failstop = true → step s = .next t →
    (∃ ns rest, s.pending = Instr.rstNAssert ns :: rest)
    ∨ (t.failstop = true ∧ t.cores = s.cores ∧ t.slots = s.slots ∧ t.steps = s.steps ∧ t.strms = s.strms ∧ t.store = s.store ∧ t.dram = s.dram)

/-- OP, ADDI, ANDI, ORI, XORI, SHI and LI: result, PC, and that nothing else changes (06_instruction_set.md R148, 06_instruction_set.md R149, Table 6-3, Table 6-4). -/
def Obligations.ScalarArithmetic : Prop :=
  ∀ (c : CoreId) (rd rs1 rs2 : BitVec 5) (s : State),
    let a := (s.core c.toNat).getS rs1.toNat
    let b := (s.core c.toNat).getS rs2.toNat
    (∀ func : BitVec 6, Fetches s c 4 → func.toNat ≤ 15 → (func = 15 → rs2 = 0) → WritesReg (.op c rd rs1 rs2 func) s c rd
        (match func.toNat with
          | 0 => a + b | 1 => a - b | 2 => a &&& b | 3 => a ||| b | 4 => a ^^^ b
          | 5 => a <<< (b.toNat % 64) | 6 => a >>> (b.toNat % 64) | 7 => a.sshiftRight (b.toNat % 64) | 8 => a * b
          | 9 => BitVec.ofNat 64 (a.toNat * b.toNat / 2 ^ 64) | 10 => BitVec.ofInt 64 (Int.fdiv (a.toInt * b.toInt) (2 ^ 64))
          | 11 => if a.toInt ≤ b.toInt then a else b | 12 => if a.toInt ≤ b.toInt then b else a
          | 13 => if a.toNat ≤ b.toNat then a else b | 14 => if a.toNat ≤ b.toNat then b else a
          | _ => BitVec.ofNat 64 (64 - bitLen a.toNat)) 4)
    ∧ (∀ imm : BitVec 16, Fetches s c 4 →
        WritesReg (.addi c rd rs1 imm) s c rd (a + imm.signExtend 64) 4 ∧ WritesReg (.andi c rd rs1 imm) s c rd (a &&& imm.setWidth 64) 4
        ∧ WritesReg (.ori c rd rs1 imm) s c rd (a ||| imm.setWidth 64) 4 ∧ WritesReg (.xori c rd rs1 imm) s c rd (a ^^^ imm.setWidth 64) 4
        ∧ (imm.toNat < 64 → WritesReg (.shi c rd rs1 imm) s c rd (a <<< imm.toNat) 4)
        ∧ (64 ≤ imm.toNat → imm.toNat < 128 → WritesReg (.shi c rd rs1 imm) s c rd (a >>> (imm.toNat - 64)) 4)
        ∧ (128 ≤ imm.toNat → imm.toNat < 192 → WritesReg (.shi c rd rs1 imm) s c rd (a.sshiftRight (imm.toNat - 128)) 4))
    ∧ (∀ (imm : BitVec 21) (lo : W32), Fetches s c 8 → WritesReg (.li c rd imm lo) s c rd ((imm ++ lo).signExtend 64) 8)

/-- CMP, CMPI and PLOG: the predicate written, PC, and that nothing else changes (Table 6-1, Table 6-3, 06_instruction_set.md R150). -/
def Obligations.ScalarPredicates : Prop :=
  ∀ (c : CoreId) (rd rs1 rs2 : BitVec 5) (s : State), Fetches s c 4 →
    let k := s.core c.toNat
    let a := k.getS rs1.toNat
    let b := k.getS rs2.toNat
    (rd.toNat < 8 →
      WritesPred (.cmp c rd rs1 rs2 0) s c rd.toNat (decide (a = b)) ∧ WritesPred (.cmp c rd rs1 rs2 1) s c rd.toNat (decide (a ≠ b))
      ∧ WritesPred (.cmp c rd rs1 rs2 2) s c rd.toNat (decide (a.toInt < b.toInt))
      ∧ WritesPred (.cmp c rd rs1 rs2 3) s c rd.toNat (decide (b.toInt ≤ a.toInt))
      ∧ WritesPred (.cmp c rd rs1 rs2 4) s c rd.toNat (decide (a.toNat < b.toNat))
      ∧ WritesPred (.cmp c rd rs1 rs2 5) s c rd.toNat (decide (b.toNat ≤ a.toNat)))
    ∧ (∀ imm : BitVec 16,
        (rd.toNat / 8 = 0 → WritesPred (.cmpi c rd rs1 imm) s c (rd.toNat % 8) (decide (a = imm.signExtend 64)))
        ∧ (rd.toNat / 8 = 1 → WritesPred (.cmpi c rd rs1 imm) s c (rd.toNat % 8) (decide (a ≠ imm.signExtend 64)))
        ∧ (rd.toNat / 8 = 2 → WritesPred (.cmpi c rd rs1 imm) s c (rd.toNat % 8) (decide (a.toInt < (imm.signExtend 64).toInt)))
        ∧ (rd.toNat / 8 = 3 → WritesPred (.cmpi c rd rs1 imm) s c (rd.toNat % 8) (decide ((imm.signExtend 64).toInt ≤ a.toInt))))
    ∧ (rd.toNat < 8 → rs1.toNat < 8 → rs2.toNat < 8 →
        WritesPred (.plog c rd rs1 rs2 0) s c rd.toNat (k.getP rs1.toNat && k.getP rs2.toNat)
        ∧ WritesPred (.plog c rd rs1 rs2 1) s c rd.toNat (k.getP rs1.toNat || k.getP rs2.toNat)
        ∧ WritesPred (.plog c rd rs1 rs2 2) s c rd.toNat (k.getP rs1.toNat ^^ k.getP rs2.toNat)
        ∧ WritesPred (.plog c rd rs1 rs2 3) s c rd.toNat (k.getP rs1.toNat && !k.getP rs2.toNat))

/-- LD and LD32: the value loaded, the PC, and that no byte of memory changes (06_instruction_set.md R151, 17_ports_and_registers.md R469, Table 6-3). -/
def Obligations.ScalarLoads : Prop :=
  ∀ (c : CoreId) (rd rs1 : BitVec 5) (imm : BitVec 16) (s : State), Fetches s c 4 →
    let a := scalarAddr (s.core c.toNat) rs1 imm
    (inCsr a = false → scalarReach s a 8 = true → a % 8 = 0 →
      WritesReg (.ld c rd rs1 imm) s c rd (BitVec.ofNat 64 (leNat (readBytes s.store (a - storeBase) 8))) 4)
    ∧ (inCsr a = false → scalarReach s a 4 = true → a % 4 = 0 →
      WritesReg (.ld32 c rd rs1 imm) s c rd (BitVec.ofNat 64 (leNat (readBytes s.store (a - storeBase) 4))) 4)
    ∧ (inCsr a = true → a % 8 = 0 → Answers (.ld c rd rs1 imm) s (turned s c.toNat
        (csrReadFx (s.setCore c.toNat (((s.core c.toNat).setS rd.toNat (BitVec.ofNat 64 (csrRead s (a - csrBase)))).adv 4)) (a - csrBase) true true)))
    ∧ (inCsr a = true → a % 8 = 0 → Answers (.ld32 c rd rs1 imm) s (turned s c.toNat
        (csrReadFx (s.setCore c.toNat (((s.core c.toNat).setS rd.toNat (BitVec.ofNat 64 (csrRead s (a - csrBase) % 2 ^ 32))).adv 4)) (a - csrBase)
          true false)))
    ∧ (inCsr a = true → a % 8 = 4 → Answers (.ld32 c rd rs1 imm) s (turned s c.toNat
        (csrReadFx (s.setCore c.toNat (((s.core c.toNat).setS rd.toNat (BitVec.ofNat 64 (csrRead s (a - 4 - csrBase) / 2 ^ 32 % 2 ^ 32))).adv 4))
          (a - 4 - csrBase) false true)))

/-- ST and ST32: the bytes stored, and that every other byte of memory is unchanged (06_instruction_set.md R151, 12_gradient_reduction.md R332, 17_ports_and_registers.md R469, Table 6-3). -/
def Obligations.ScalarStores : Prop :=
  ∀ (c : CoreId) (rd rs1 : BitVec 5) (imm : BitVec 16) (s : State), Fetches s c 4 →
    let k := s.core c.toNat
    let a := scalarAddr k rs1 imm
    let v := (k.getS rd.toNat).toNat
    (∀ i n, (i = Instr.st c rd rs1 imm ∧ n = 8) ∨ (i = Instr.st32 c rd rs1 imm ∧ n = 4) →
      inCsr a = false → scalarReach s a n = true → a % n = 0 →
      ∃ t, exec i s = .next t ∧ OnlyStores s t c ∧ t.armed = markedArmed s (a - storeBase) n
        ∧ (∀ d, d ≠ c.toNat → t.core d = s.core d) ∧ t.core c.toNat = { k with pc := k.pc + 4 }
        ∧ readBytes t.store (a - storeBase) n = leBytes n v ∧ SameOutside s t a n)
    ∧ (inCsr a = true → a % 8 = 0 →
        Answers (.st c rd rs1 imm) s (turned s c.toNat (csrWrite (s.setCore c.toNat (k.adv 4)) (a - csrBase) (2 ^ 64 - 1) v))
        ∧ Answers (.st32 c rd rs1 imm) s (turned s c.toNat (csrWrite (s.setCore c.toNat (k.adv 4)) (a - csrBase) (2 ^ 32 - 1) (v % 2 ^ 32))))
    ∧ (inCsr a = true → a % 8 = 4 →
        Answers (.st32 c rd rs1 imm) s (turned s c.toNat
          (csrWrite (s.setCore c.toNat (k.adv 4)) (a - 4 - csrBase) (2 ^ 64 - 2 ^ 32) (v % 2 ^ 32 * 2 ^ 32))))

/-- BR, JAL, JR, TRET, HALT, BRK and DRX: where the PC goes and what the core holds (Table 6-3, Table 6-2, Table 6-13, 06_instruction_set.md R146, 06_instruction_set.md R149, 06_instruction_set.md R171, 06_instruction_set.md R173, 05_random_bits.md R131, 15_faults_and_service.md R411). -/
def Obligations.ScalarJumpsHaltAndDraw : Prop :=
  ∀ (c : CoreId) (s : State), Fetches s c 4 →
    let k := s.core c.toNat
    (∀ (p : BitVec 3) (neg : Bool) (off : BitVec 22), SetsCore (.br c p neg off) s c
        { k with pc := if k.getP p.toNat ^^ neg then k.pc + off.signExtend 64 * 4 else k.pc + 4 })
    ∧ (∀ (rd : BitVec 5) (imm : BitVec 21), SetsCore (.jal c rd imm) s c { (k.setS rd.toNat (k.pc + 4)) with pc := k.pc + imm.signExtend 64 * 4 })
    ∧ (∀ (rd rs1 : BitVec 5) (imm : BitVec 16), SetsCore (.jr c rd rs1 imm) s c
        { (k.setS rd.toNat (k.pc + 4)) with pc := (k.getS rs1.toNat + imm.signExtend 64) &&& ~~~3#64 })
    ∧ SetsCore (.tret c) s c { k with inTrap := false, pc := k.epc }
    ∧ SetsCore (.halt c) s c { k with pc := k.pc + 4, running := false, byHalt := true }
    ∧ (k.inTrap = false → tqFull k = false → ∃ t, exec (.brk c) s = .next t ∧ OnlyStores s t c
        ∧ t.store = (s.stWrite (k.tqbase.toNat / 512 * 512 + 32 * (k.tqtail.toNat % 16)) (trapBytes (preciseRec s c.toNat 6 0 0x27 0 0 0))).store
        ∧ t.core c.toNat = { k with tqtail := k.tqtail + 1, epc := k.pc &&& ~~~3#64, inTrap := true, pc := k.tvec &&& ~~~3#64 }
        ∧ ∀ d, d ≠ c.toNat → t.core d = s.core d)
    ∧ (k.inTrap = true ∨ tqFull k = true → ∃ t, exec (.brk c) s = .next t ∧ t.store = s.store ∧ t.dram = s.dram
        ∧ t.core c.toNat = { k with running := false, byHalt := false, dfault := true } ∧ ∀ d, d ≠ c.toNat → t.core d = s.core d)
    ∧ (∀ rd rs1 rs2 : BitVec 5, rd.toNat % 2 = 0 → rd ≠ 0 →
        let y := dritex s.sched.drxkey.toNat (drxCtr (k.getS rs1.toNat).toNat (stepn s).toNat 7 (k.getS rs2.toNat).toNat)
        SetsCore (.drx c rd rs1 rs2) s c (((k.setS rd.toNat (BitVec.ofNat 64 y)).setS (rd.toNat + 1) (BitVec.ofNat 64 (y / 2 ^ 64))).adv 4))
    ∧ (paired s c.toNat = true → ∃ t, exec (.tret c) s = .next t ∧ (c.toNat / 2 ∈ t.mgmt.oddTurn ↔ c.toNat % 2 = 0))

/-- WAIT, SUMM and TSTS on a completed operation, a ticket of no slot, and one in flight (06_instruction_set.md R164). -/
def Obligations.WaitingForOperations : Prop :=
  ∀ (c : CoreId) (rd rs1 : BitVec 5) (imm : BitVec 16) (s : State), Fetches s c 4 → imm.toNat < 64 →
    let k := s.core c.toNat
    let tk := (k.getS rs1.toNat).toNat % 65536
    (viewTicket s c.toNat tk = .gone →
      WritesReg (.wait c rd rs1) s c rd 0xFF 4 ∧ WritesReg (.summ c rd rs1) s c rd 0 4
      ∧ (rd.toNat < 8 → WritesPred (.tsts c rd rs1 imm) s c rd.toNat false))
    ∧ (∀ t o, viewTicket s c.toNat tk = .done t o →
      let s1 := s.setCore c.toNat ((k.setS rd.toNat (BitVec.ofNat 64 (finalStatus o))).adv 4)
      (o.phase = .held → o.retried = false → Answers (.wait c rd rs1) s (turned s c.toNat { s1.setSlot t { s1.slot t with st := .free } with freeq := s1.freeq ++ [t] }))
      ∧ (o.phase = .held → o.retried = true → Answers (.wait c rd rs1) s (turned s c.toNat (s1.setSlot t { s1.slot t with st := .quarantine o.doneAt })))
      ∧ (o.phase ≠ .held → Answers (.wait c rd rs1) s (turned s c.toNat (s1.setOp t { o with hold := false })))
      ∧ WritesReg (.summ c rd rs1) s c rd (BitVec.ofNat 64 (summaryOf o)) 4
      ∧ (rd.toNat < 8 → WritesPred (.tsts c rd rs1 imm) s c rd.toNat (bitAt (summaryOf o) imm.toNat)))
    ∧ (viewTicket s c.toNat tk = .flying →
      SetsCore (.wait c rd rs1) s c { k with stall := some (.wait rd.toNat tk) }
      ∧ SetsCore (.summ c rd rs1) s c { k with stall := some (.summ rd.toNat tk) }
      ∧ (rd.toNat < 8 → SetsCore (.tsts c rd rs1 imm) s c { k with stall := some (.tsts rd.toNat imm.toNat tk) }))

/-- FENCE stalls on the operations of its kind, and CORE_STALL_END lets the core go on (06_instruction_set.md R164, 06_instruction_set.md R176, Table 6-6). -/
def Obligations.FenceAndStallEnd : Prop :=
  (∀ (c : CoreId) (rd rs1 : BitVec 5) (imm : BitVec 16) (s : State), Fetches s c 4 → imm.toNat < 3 → (imm.toNat = 1 ∨ (rd = 0 ∧ rs1 = 0)) →
    let k := s.core c.toNat
    let ts := fenceSet s c.toNat imm.toNat (k.getS rs1.toNat).toNat (k.getS rd.toNat).toNat
    let early := fenceAwaits s imm.toNat (k.getS rd.toNat).toNat
    (early = false → ts = [] → SetsCore (.fence c rd rs1 imm) s c { k with pc := k.pc + 4 })
    ∧ (early = false → ts ≠ [] → SetsCore (.fence c rd rs1 imm) s c { k with stall := some (.fence ts) })
    ∧ (early = true → Answers (.fence c rd rs1 imm) s (turned s c.toNat s)))
  ∧ (∀ (c : CoreId) (s : State), s.live = true → (s.core c.toNat).running = true →
    let k := s.core c.toNat
    let fin := fun (q : Core) => if k.halting then { q with running := false, byHalt := false, halting := false, stall := none } else q
    (k.halting = true → k.async = []) →
    (∀ rd v, k.stall = some (.ready rd v) → SetsCore (.coreStallEnd c) s c (fin (({ k with stall := none }.setS rd v).adv 4)))
    ∧ (∀ p b, k.stall = some (.readyP p b) → SetsCore (.coreStallEnd c) s c (fin (({ k with stall := none }.setP p b).adv 4)))
    ∧ (∀ ts, k.stall = some (.fence ts) → ts.any (ticketFlying s) = false →
        SetsCore (.coreStallEnd c) s c (fin ({ k with stall := none }.adv 4)))
    ∧ (∀ ts, k.stall = some (.fence ts) → ts.any (ticketFlying s) = true → Answers (.coreStallEnd c) s s))

/-- MFS and MTS: every special register of Table 6-5, and ILLEGAL elsewhere (R153). -/
def Obligations.SpecialRegisters : Prop :=
  ∀ (c : CoreId) (s : State), Fetches s c 4 →
    let k := s.core c.toNat
    (∀ (rd : BitVec 5) (imm : BitVec 16) (v : W64), imm.toNat ≠ 9 →
        [k.pc, k.epc, k.tvec, k.tqbase, k.tqhead.setWidth 64, k.tqtail.setWidth 64, k.stream.setWidth 64, BitVec.ofNat 64 c.toNat,
          BitVec.ofNat 64 (tstat k), 0, stepn s, BitVec.ofNat 64 (heldBy s c.toNat)][imm.toNat]? = some v →
        WritesReg (.mfs c rd imm) s c rd v 4)
    ∧ (∀ rd : BitVec 5, SetsCore (.mfs c rd 9) s c (({ k with tqlost := 0, overrun := false }.setS rd.toNat (k.tqlost.setWidth 64)).adv 4))
    ∧ (∀ rs1 : BitVec 5,
        let v := k.getS rs1.toNat
        SetsCore (.mts c rs1 1) s c ({ k with epc := v &&& ~~~3#64 }.adv 4) ∧ SetsCore (.mts c rs1 2) s c ({ k with tvec := v &&& ~~~3#64 }.adv 4)
        ∧ SetsCore (.mts c rs1 3) s c ({ k with tqbase := v &&& ~~~511#64 }.adv 4)
        ∧ SetsCore (.mts c rs1 4) s c ({ k with tqhead := v.setWidth 5 }.adv 4)
        ∧ SetsCore (.mts c rs1 6) s c ({ k with stream := v.setWidth 20 }.adv 4))
    ∧ (TrapFree s c → ∀ (rd rs1 : BitVec 5) (imm : BitVec 16),
        (12 ≤ imm.toNat → TakesTrap (.mfs c rd imm) s c (preciseRec s c.toNat 1 0 0x24 0 0 0x18))
        ∧ (imm.toNat ∉ [1, 2, 3, 4, 6] → TakesTrap (.mts c rs1 imm) s c (preciseRec s c.toNat 1 0 0x25 0 0 0x18)))

/-- BRK, misaligned and unreachable accesses, and reserved fields take their precise trap (06_instruction_set.md R151, 06_instruction_set.md R171, 06_instruction_set.md R172, Table 6-13). -/
def Obligations.PreciseTraps : Prop :=
  ∀ (c : CoreId) (rd rs1 rs2 : BitVec 5) (imm : BitVec 16) (func : BitVec 6) (s : State), Fetches s c 4 → TrapFree s c →
    let a := scalarAddr (s.core c.toNat) rs1 imm
    TakesTrap (.brk c) s c (preciseRec s c.toNat 6 0 0x27 0 0 0)
    ∧ (15 < func.toNat → TakesTrap (.op c rd rs1 rs2 func) s c (preciseRec s c.toNat 1 0 0x01 func.toNat 0 0x18))
    ∧ (imm.toNat = 0 ∨ imm.toNat = 2 → rd ≠ 0 ∨ rs1 ≠ 0 → TakesTrap (.fence c rd rs1 imm) s c (preciseRec s c.toNat 1 0 0x23 0 0 0x18))
    ∧ (∀ w : BitVec 128, w.toNat % 64 = 0 ∨ w.toNat % 64 = 0x30 → TakesTrap (.engineWord c w) s c (preciseRec s c.toNat 1 0 (w.toNat % 64) 0 0 0x18))
    ∧ (scalarReach s a 8 = true → a % 8 ≠ 0 → TakesTrap (.ld c rd rs1 imm) s c (preciseRec s c.toNat 5 0 0x10 0 0 0)
        ∧ TakesTrap (.st c rd rs1 imm) s c (preciseRec s c.toNat 5 0 0x11 0 0 0))
    ∧ (scalarReach s a 4 = true → a % 4 ≠ 0 → TakesTrap (.ld32 c rd rs1 imm) s c (preciseRec s c.toNat 5 0 0x12 0 0 0)
        ∧ TakesTrap (.st32 c rd rs1 imm) s c (preciseRec s c.toNat 5 0 0x13 0 0 0))
    ∧ (inCsr a = false → inStore a = false → TakesTrap (.ld c rd rs1 imm) s c (preciseRec s c.toNat 4 0 0x10 0 0 0x16)
        ∧ TakesTrap (.st c rd rs1 imm) s c (preciseRec s c.toNat 4 0 0x11 0 0 0x16)
        ∧ TakesTrap (.ld32 c rd rs1 imm) s c (preciseRec s c.toNat 4 0 0x12 0 0 0x16)
        ∧ TakesTrap (.st32 c rd rs1 imm) s c (preciseRec s c.toNat 4 0 0x13 0 0 0x16))

/-- PENDING_TRAP: the oldest asynchronous record enters the queue and the core jumps once (06_instruction_set.md R171, 06_instruction_set.md R172). -/
def Obligations.PendingTrapTaken : Prop :=
  ∀ (c : CoreId) (s : State), s.live = true → (s.core c.toNat).running = true → (s.core c.toNat).stall = none → TrapFree s c →
    let k := s.core c.toNat
    (∀ r, k.jumps = 0 → k.async = [r] →
      ∃ t, exec (.pendingTrap c) s = .next t ∧ OnlyStores s t c
        ∧ t.store = (s.stWrite (k.tqbase.toNat / 512 * 512 + 32 * (k.tqtail.toNat % 16)) (trapBytes r)).store
        ∧ t.core c.toNat = { k with async := [], tqtail := k.tqtail + 1, epc := k.pc &&& ~~~3#64, inTrap := true, pc := k.tvec &&& ~~~3#64 }
        ∧ ∀ d, d ≠ c.toNat → t.core d = s.core d)
    ∧ (0 < k.jumps → k.async = [] →
      SetsCore (.pendingTrap c) s c { k with jumps := k.jumps - 1, epc := k.pc &&& ~~~3#64, inTrap := true, pc := k.tvec &&& ~~~3#64 })

/-- ENGINE_WORD: the operation takes a slot and the core its ticket, or the core waits for a slot (06_instruction_set.md R158, 06_instruction_set.md R161, 06_instruction_set.md R157, 17_ports_and_registers.md R475). -/
def Obligations.EngineWordIssues : Prop :=
  ∀ (c : CoreId) (w : BitVec 128) (s : State) (q : Strm), Fetches s c 16 →
    let k := s.core c.toNat
    let e := parseEWord w.toNat
    e.ok = true → s.strm k.stream.toNat = some q → q.closing = false → q.kind = 0 → q.resident = true → s.quiesce = none →
    (e.hold = true → heldBy s c.toNat < 256) →
    let o := Op.fresh (.core c.toNat k.pc.toNat) e (k.getS e.sA).toNat (k.getS e.sB).toNat k.stream.toNat s.car.seq
    (∀ t, pickSlot s (wordDests s e) = some t → ∃ r, exec (.engineWord c w) s = .next r
        ∧ r = settle s { occupy s t o with cores := r.cores, mgmt := { s.mgmt with oddTurn := r.mgmt.oddTurn } } ∧ OnlyTurn s r c ∧ r.op t = some o ∧ (r.slot t).gen = (s.slot t).gen + 1
        ∧ (r.core c.toNat) = { k.setS e.sD (BitVec.ofNat 64 (ticketOf r t)) with stall := none, pc := k.pc + 16 }
        ∧ ∀ d, d ≠ c.toNat → r.core d = s.core d)
    ∧ (pickSlot s (wordDests s e) = none → SetsCore (.engineWord c w) s c { k with stall := some (.word w) })

/-- STOP opens the step of operand A, or ends with STEP_ORDER and opens nothing (06_instruction_set.md R178, Table 6-10). -/
def Obligations.StopOpensOneStepAtATime : Prop :=
  ∀ (t : SlotId) (o : Op) (s : State), Accepts s t 0x01 o → Clean o →
    let n := o.opA % 2 ^ 32
    let may := s.steps = [] ∨ ∃ x, s.steps = [x] ∧ x.stcl ≠ none ∧ n = (x.num + 1) % 2 ^ 32
    (may → ∃ r, exec (.stop t) s = .next r ∧ r.steps = s.steps ++ [StepSt.fresh n o.seq] ∧ r = settle s { s with steps := r.steps, slots := r.slots }
      ∧ r.op t.toNat = some { o with step := (newestStep s).map (fun x => x.num), phase := .ended } ∧ ∀ x, x ≠ t.toNat → r.slot x = s.slot x)
    ∧ (¬ may → SetsOp (.stop t) s t { o with step := (newestStep s).map (fun x => x.num), phase := .ended, status := 0x19, detail := 0 })

/-- STEP_OPENING: seed latch, class capture, regime and Velvet of the step that opens (06_instruction_set.md R178, 05_random_bits.md R130, 04_rounding_and_scaling.md R108, 04_rounding_and_scaling.md R116, 04_rounding_and_scaling.md R120, 01_architecture.md R37, 01_architecture.md R39). -/
def Obligations.OpeningLatchesSeedAndRegime : Prop :=
  (∀ (x : StepSt) (rest : List StepSt) (s : State), s.steps = x :: rest → x.opened = false → s.live = true → sweepWaits s x = false →
    let regs := velRegions s
    let s1 := (velEntries regs).foldl (fun s j => openEntry s x.num regs s.car.skipMap j) s
    let mf := (openWishes s1).2 || (velEntries regs).any (fun j => decide ((s1.velvet j).hcount = 0))
    let g := (openWishes s1).1 || mf
    ∃ s4, s4.sched = { s1.sched with drxkey := s1.sched.drxseed, scalepol := setFlag (setFlag s1.sched.scalepol 33 mf) 34 g }
      ∧ s4.steps = s1.steps.map (fun y => if y.num = x.num then
          { y with opened := true, guarded := g, mfirst := mf, key := s1.sched.drxseed,
                   classes := classesNow s1,
                   vel := (velEntries regs).map (fun j => (j, (s1.velvet j).c, (s1.velvet j).g, (s1.velvet j).srb)),
                   ovf := ((s1.car.early.filter (fun e => e.1 = x.num)).map Prod.snd).foldl addNew y.ovf,
                   wrote := (s1.car.earlyW.filter (fun e => e.1 = x.num)).map Prod.snd } else y)
      ∧ s4.car.lastOpened = x.num ∧ s4.store = s1.store ∧ s4.dram = s1.dram ∧ s4.cores = s1.cores
      ∧ Answers .stepOpening s (checkHeld (retryRings (if planWanted s4 then armPlan s4 x.num else s4))))
  ∧ (∀ (x : StepSt) (rest : List StepSt) (s : State), s.steps = x :: rest → sweepWaits s x = true → Answers .stepOpening s s)
  ∧ (∀ s : State, (s.steps = [] ∨ ∃ x rest, s.steps = x :: rest ∧ x.opened = true) → Answers .stepOpening s s)

/-- STCL: accepted for an open step without one; STEP_ORDER, ILLEGAL or ADDR_ERROR otherwise (06_instruction_set.md R180, 06_instruction_set.md R181, 12_gradient_reduction.md R333). -/
def Obligations.StclStartsTheClose : Prop :=
  ∀ (t : SlotId) (o : Op) (s : State), Accepts s t 0x02 o →
    let n := o.opA % 2 ^ 32
    let p : Op := { o with step := (newestStep s).map (fun x => x.num) }
    let s0 := s.setOp t.toNat p
    let m := fieldAt (descAt s0 o.doff 64) 4 2
    let b := descAt s0 o.doff (64 + 2 * m)
    let a := storeBase + o.doff * 64
    (∀ x, badAddr s0 a 64 = some x → Answers (.stcl t) s (endOp s0 t.toNat 0x16 x))
    ∧ (badAddr s0 a 64 = none → m = 0 ∨ 4096 < m → Answers (.stcl t) s (endIllegal s0 t.toNat))
    ∧ (∀ x, badAddr s0 a 64 = none → 0 < m → m ≤ 4096 → badAddr s0 a b.length = some x → Answers (.stcl t) s (endOp s0 t.toNat 0x16 x))
    ∧ (badAddr s0 a 64 = none → 0 < m → m ≤ 4096 → badAddr s0 a b.length = none →
      (barrierOk s0 (parseBarD b) = false → Answers (.stcl t) s (endIllegal s0 t.toNat))
      ∧ (barrierOk s0 (parseBarD b) = true →
        ((stepOf s0 n = none ∨ ∃ x, stepOf s0 n = some x ∧ x.stcl ≠ none) → Answers (.stcl t) s (endOp s0 t.toNat 0x19 0))
        ∧ (∀ x, stepOf s0 n = some x → x.stcl = none →
            let s1 := (s0.setOp t.toNat { p with desc := b, phase := .running }).onStep n (fun y => { y with stcl := some t.toNat })
            let s2 := s1.onArmed n (fun a => { a with flushed := true })
            Answers (.stcl t) s (if heldMismatch s2 n then endMismatch s2 n else s2))))

/-- ROUND_A, ROUND_A_DONE, ROUND_B and ROUND_B_DONE each wait for their condition and do their step of R180 (06_instruction_set.md R180, 04_rounding_and_scaling.md R116, 04_rounding_and_scaling.md R120, 12_gradient_reduction.md R351). -/
def Obligations.BarrierRoundsRunInOrder : Prop :=
  (∀ (n : W32) (x : StepSt) (rest : List StepSt) (t : Nat) (s : State), s.steps = x :: rest → x.stcl = some t → x.num = n.toNat →
    (s.live = true → x.opened = true → x.round = .none → stepIdle s x.num t = true →
      Answers (.roundA n) s (joinRound (s.onStep x.num (fun y => { y with round := .aSent })) x.num 0 (wishByte false false false x.mfirst) 0 []))
    ∧ (stepIdle s x.num t = false ∨ x.opened = false ∨ x.round ≠ .none → Answers (.roundA n) s s))
  ∧ (∀ (n : W32) (x : StepSt) (s : State), stepOf s n.toNat = some x → s.live = true →
    (∀ cs, x.round = .aSent → roundContribs s x.num 0 = some cs →
      let m := cs.any (fun c => bitAt c.wish 3)
      Answers (.roundADone n) s
        (clearBitmap (releaseUpds (noteMeasure (s.onStep x.num (fun y => { y with round := .aDone, mAny := m })) m) x.num (x.guarded || m)) x.num cs.length))
    ∧ (x.round = .aSent → roundContribs s x.num 0 = none → Answers (.roundADone n) s s)
    ∧ (x.round = .aDone → x.again = true → Answers (.roundB n) s (runAgain s x))
    ∧ (x.round = .aDone → x.again = false → updsSettled s x.num = true → passRepeats s x = true → Answers (.roundB n) s (nextPass s x))
    ∧ (x.round = .aDone → x.again = false → updsSettled s x.num = true → passRepeats s x = false →
      let gl := fld s.sched.scalepol 31 16
      let trial := x.guarded || x.mAny
      Answers (.roundB n) s (joinRound (s.onStep x.num (fun y => { y with round := .bSent })) x.num 1
        (wishByte (flag s.sched.scalepol 32 || decide (1 < gl) || (decide (gl = 1) && !trial)) (measureWish s x) (decide (gl = 1) && trial) false)
        (keyFold x.key.toNat) x.ovf))
    ∧ (x.round = .aDone → x.again = false → updsSettled s x.num = false → Answers (.roundB n) s s)
    ∧ (∀ cs, x.round = .bSent → roundContribs s x.num 1 = some cs → Answers (.roundBDone n) s (tryClose (mergeB s x cs) x.num))
    ∧ (x.round = .bSent → roundContribs s x.num 1 = none → Answers (.roundBDone n) s s)
    ∧ (x.round = .bDone → Answers (.roundBDone n) s (tryClose s x.num)))

/-- FENC ends once every earlier operation of its stream has completed, and waits until then (R177). -/
def Obligations.FencWaitsForItsStream : Prop :=
  (∀ (t : SlotId) (o : Op) (s : State), s.op t.toNat = some o → o.opc = 0x03 → s.live = true → o.phase = .waiting ∨ o.phase = .running → Clean o →
    (streamClear s o = true → SetsOp (.fenc t) s t { o with phase := .ended })
    ∧ (streamClear s o = false → Answers (.fenc t) s s))
  ∧ (∀ (t : SlotId) (o : Op) (s : State), o.fb = true → streamClear s o = false → dispatchable s t.toNat o = false)
  ∧ (∀ (t u : SlotId) (f o : Op) (s : State), (t.toNat, f) ∈ busySlots s → f.opc = 0x03 → f.phase = .waiting → (∃ c pc, f.src = .core c pc) ∨ (∃ r, f.src = .host r) →
    f.stream = o.stream → f.seq < o.seq → dispatchable s u.toNat o = false)
  ∧ (∀ (t : SlotId) (f : Op) (s : State), f.opc = 0x03 → dispatchable s t.toNat f = false)

/-- DISPATCH starts an operation whose conditions hold, and changes nothing before (01_architecture.md R32, 01_architecture.md R33, 01_architecture.md R34, 06_instruction_set.md R177, 06_instruction_set.md R178, 07_update_engine.md R184, 07_update_engine.md R187, 08_matrix_array.md R222, 09_vector_engine.md R241, 16_power_reset_context.md R433, 16_power_reset_context.md R442, 16_power_reset_context.md R446). -/
def Obligations.DispatchWaitsForItsConditions : Prop :=
  ∀ (t : SlotId) (o : Op) (s : State), s.op t.toNat = some o →
    (dispatchable s t.toNat o = false → Answers (.dispatch t) s s)
    ∧ ((∀ d k n, o.src ≠ .remote d k n) → o.src ≠ .plan → o.opc ≠ 0x03 → o.phase = .waiting → s.live = true →
        streamBehind s o = false → (o.fb = true → streamClear s o = true) → rangeBlocked s o = false → stepReady s o = true →
        (o.opc = 0x20 → updReady s o = true) → (o.arrayOp = true → arrayFree s = true) → (o.vectorOp = true → freeCtxNo s ≠ none) →
        (opDomains s o).all (powered s) = true → (o.touchesDram = true → s.dramUp = true) → awaitsMove s o = false → (o.opc = 0x60 ∨ o.opc = 0x61 → alone s t.toNat = true) →
      (∀ f, startFinds s o = some f → Answers (.dispatch t) s (if f.1 = 0x18 then endIllegal s t.toNat else endOp s t.toNat f.1 f.2))
      ∧ (startFinds s o = none →
        let o1 : Op := { o with phase := .running, ranges := startRanges s o, tabs := if o.opc = 0x20 then decayWords s o else [], dispAt := s.car.seq,
                                prog := if o.arrayOp then [arrayMode (arrayHalf s) o.arrayKN.1 o.arrayKN.2 + 1] else o.prog }
        ∃ r, exec (.dispatch t) s = .next r ∧ r.op t.toNat = some o1 ∧ (r.slot t.toNat).gen = (s.slot t.toNat).gen ∧ (∀ y, y ≠ t.toNat → r.slot y = s.slot y)
          ∧ r = settle s { s with slots := r.slots, ctxs := r.ctxs, car := { s.car with seq := s.car.seq + 1 } }
          ∧ (o.vectorOp = false → r.ctxs = s.ctxs)
          ∧ (∀ x, o.vectorOp = true → freeCtxNo s = some x →
              r.ctxs = s.ctxs ++ [(x, VCtx.fresh t.toNat (if o.opc = 0x40 then vopVl0 o.desc else 0))])))
    ∧ (∀ d k n, o.src = .remote d k n → dispatchable s t.toNat o = true → Answers (.dispatch t) s (serveRemote s t.toNat o))

/-- COMPLETION: held for WAIT, freed, or quarantined; CQ_HEAD_RECHECK writes the oldest held record once there is room (06_instruction_set.md R164, 06_instruction_set.md R165, 06_instruction_set.md R166, 14_memory_stacks.md R401, 11_store_and_streams.md R318, 11_store_and_streams.md R319, 11_store_and_streams.md R321). -/
def Obligations.CompletionSettlesAnOperation : Prop :=
  (∀ (t : SlotId) (o : Op) (s : State), s.op t.toNat = some o →
    ((o.phase ≠ .ended ∨ s.failstop = true ∨ parityHeld s t.toNat = true ∨ deliveryHeld s t.toNat o = true) → Answers (.completion t) s s)
    ∧ (o.phase = .ended → s.failstop = false → parityHeld s t.toNat = false → deliveryHeld s t.toNat o = false →
      let o1 : Op := { o with degraded := o.degraded || touchesPatched s o || onMasking s o, doneAt := s.now }
      let s1 := endStep { noteUse (s.setOp t.toNat o1) (opDomains s o1) with quiesce := if s.quiesce = some t.toNat then none else s.quiesce } t.toNat o1
      let s2 := wakeWaiters s1 t.toNat o1
      (∀ p, o.src = .sub p → Answers (.completion t) s (freeSlot (strmDone (subReport s2 p o1) o1.stream) t.toNat o1.retried))
      ∧ (∀ d k n, o.src = .remote d k n → Answers (.completion t) s (completeRemote s2 t.toNat o1))
      ∧ (o.src = .plan → Answers (.completion t) s (freeSlot s2 t.toNat o1.retried))
      ∧ (o.src = .again → Answers (.completion t) s (freeSlot (strmDone (keepPass s2 o1) o1.stream) t.toNat o1.retried))
      ∧ ((∃ c pc, o.src = .core c pc) ∨ (∃ r, o.src = .host r) → Answers (.completion t) s (completeHere (keepPass s1 o1) t.toNat o1)
        ∧ (o.crec = false → o.hold = false → ∃ r, exec (.completion t) s = .next r ∧ r.store = s.store ∧ r.dram = s.dram
            ∧ r.slot t.toNat = { s.slot t.toNat with st := if o.retried then .quarantine s.now else .free } ∧ ∀ x, x ≠ t.toNat → r.slot x = s.slot x)
        ∧ (o.crec = false → o.hold = true → waitedFor s t.toNat o = false → ∃ r, exec (.completion t) s = .next r ∧ r.store = s.store ∧ r.dram = s.dram
            ∧ r.op t.toNat = some { o1 with phase := .held } ∧ ∀ x, x ≠ t.toNat → r.slot x = s.slot x))))
  ∧ (∀ (st : StreamId) (q : Strm) (s : State), s.strm st.toNat = some q →
    (q.heldRecs = [] → Answers (.cqHeadRecheck st) s s)
    ∧ (cqFull s q = true ∨ q.resident = false ∨ pushHeld s st.toNat = true → Answers (.cqHeadRecheck st) s s)
    ∧ (∀ t o, q.heldRecs = [t] → cqFull s q = false → s.failstop = false → q.resident = true → pushHeld s st.toNat = false → s.op t = some o →
      let s1 := s.setStrm st.toNat { q with heldRecs := [] }
      Answers (.cqHeadRecheck st) s
        (releaseSlot (writeRecord s1 st.toNat { q with heldRecs := [] } (recordBytes s1 t o)) t o)
      ∧ ∃ r, exec (.cqHeadRecheck st) s = .next r ∧ (r.strm st.toNat).map (fun q => q.heldRecs) = some [] ∧ r.dram = s.dram
        ∧ (o.hold = false → o.retried = false → (r.slot t).st = .free) ∧ ∀ x, x ≠ t → r.slot x = s.slot x))

/-- A retried operation leaves its slot in quarantine, which 1.024 ms of local time end (R160). -/
def Obligations.RetriedSlotsAreQuarantined : Prop :=
  (∀ (t : SlotId) (o : Op) (s : State), o.hold = false → o.retried = true →
    (releaseSlot s t.toNat o).slot t.toNat = { s.slot t.toNat with st := .quarantine o.doneAt } ∧ (releaseSlot s t.toNat o).freeq = s.freeq)
  ∧ (∀ (t : SlotId) (o : Op) (s : State), s.op t.toNat = some o → o.phase = .ended → s.failstop = false → parityHeld s t.toNat = false → deliveryHeld s t.toNat o = false → o.src = .plan → o.retried = true →
    ∃ r, exec (.completion t) s = .next r ∧ r.slot t.toNat = { s.slot t.toNat with st := .quarantine s.now })
  ∧ (∀ (t : SlotId) (o : Op) (s : State), o.phase = .held → o.retried = true → (waitFrees s t.toNat o).slot t.toNat = { s.slot t.toNat with st := .quarantine o.doneAt })
  ∧ (∀ (t : SlotId) (n : Nat) (s : State), (s.slot t.toNat).st = .quarantine n → s.failstop = false →
    ∃ r, exec (.quarantineEnd t) s = .next r ∧ r.slot t.toNat = { s.slot t.toNat with st := .free } ∧ r.freeq = s.freeq ++ [t.toNat]
      ∧ r.now = Nat.max s.now (n + 102400) ∧ (∀ x, x ≠ t.toNat → r.slot x = s.slot x) ∧ r.cores = s.cores ∧ r.store = s.store ∧ r.dram = s.dram)
  ∧ (∀ (t : SlotId) (s : State), (∀ n, (s.slot t.toNat).st ≠ .quarantine n) → Answers (.quarantineEnd t) s s)

/-- Acceptance of every engine operation: tagged, checked, its ranges recorded, or ended by the first status of R168 (06_instruction_set.md R162, 06_instruction_set.md R168, 06_instruction_set.md R174, 06_instruction_set.md R179, 00_scope.md R15, 16_power_reset_context.md R445). -/
def Obligations.OperationsAreAccepted : Prop :=
  ∀ (i : Instr) (w : OpRow) (o : Op) (s : State), opRowOf i = some w → Accepts s w.slot w.opc o →
    let s1 := s.setOp w.slot.toNat (tagged s o)
    (w.chk s1 (tagged s o) = .illegal → Answers i s (endIllegal s1 w.slot.toNat))
    ∧ (∀ rs imgs desc prog, w.chk s1 (tagged s o) = .ok rs imgs desc prog →
      let f := acceptFinds s1 (tagged s o) (decide (o.opc = 0x23) && gthProj desc) (w.need s1 (tagged s o))
      (f = 0 → SetsOp i s w.slot { tagged s o with phase := .waiting, ranges := recordRanges rs, imgs := imgs, desc := desc, prog := prog, writes := rs.filter (fun r => r.wr && !r.remote) })
      ∧ (f ≠ 0 → Answers i s (endOp s1 w.slot.toNat f 0)))
    ∧ (∀ st d, w.chk s1 (tagged s o) = .bad st d →
      let f := acceptFinds s1 (tagged s o) (decide (o.opc = 0x23) && gthProj (descAt s1 o.doff 64)) (w.need s1 (tagged s o))
      Answers i s (if f ≠ 0 ∧ statusMin f st = f then endOp s1 w.slot.toNat f 0 else endOp s1 w.slot.toNat st d))

/-- A dispatched engine operation does the work its rules give it (11_store_and_streams.md R322, 03_number_formats.md R95, 03_number_formats.md R96, 13_fabric.md R357, 10_graph_operations.md R271, 10_graph_operations.md R275, 10_graph_operations.md R279, 10_graph_operations.md R281, 10_graph_operations.md R282, 08_matrix_array.md R224, 09_vector_engine.md R247, 05_random_bits.md R138). -/
def Obligations.OperationsDoTheirWork : Prop :=
  ∀ (i : Instr) (w : OpRow) (o : Op) (s : State), opRowOf i = some w → Works s w.slot w.opc o → Answers i s (w.work s o)

/-- CTXS and CTXR: acceptance quiesces the device; once dispatched they save or restore (16_power_reset_context.md R446, 16_power_reset_context.md R447, 16_power_reset_context.md R448, 05_random_bits.md R130). -/
def Obligations.ContextOperationsQuiesceTheDevice : Prop :=
  ∀ (t : SlotId) (o : Op) (s : State),
    (Works s t 0x60 o → Answers (.ctxs t) s (saveWork s t.toNat o)) ∧ (Works s t 0x61 o → Answers (.ctxr t) s (restoreWork s t.toNat o))
    ∧ (∀ (i : Instr) (opc : Nat) (sv : Bool), (i, opc, sv) ∈ [(Instr.ctxs t, 0x60, true), (Instr.ctxr t, 0x61, false)] → Accepts s t opc o →
        let s1 := s.setOp t.toNat (tagged s o)
        ∀ rs imgs desc prog, ctxCheck sv s1 (tagged s o) = .ok rs imgs desc prog →
        ∃ r, exec i s = .next r ∧ r.quiesce = some t.toNat ∧ r = settle s { s with slots := r.slots, quiesce := r.quiesce } ∧ (∀ x, x ≠ t.toNat → r.slot x = s.slot x)
          ∧ r.op t.toNat = some { tagged s o with phase := .waiting, ranges := recordRanges rs, imgs := imgs, desc := desc, prog := prog, writes := rs.filter (fun r => r.wr && !r.remote) })
    ∧ (let d := parseCtx o.desc
       let im := ctxImage s o d
       Works s t 0x60 o → o.subs = 0 → o.aborted = false → o.status < 0x10 → o.progress ≠ 2 → saveBad s d im.2 = false → remServer s d.dev d.addr = some s.dev →
        let x := serveWrite s t.toNat (ownRefusal s (tenantOf s o) d.akey (d.addr + 4096) (pad64 im.2).length) (d.addr + 4096) (pad64 im.2)
        let y := serveWrite x.1 t.toNat (ownRefusal x.1 (tenantOf s o) d.akey d.addr 4096) d.addr im.1
        let y0 := serveWrite s t.toNat (ownRefusal s (tenantOf s o) d.akey d.addr 4096) d.addr im.1
        (im.2 ≠ [] → x.2.1 < 0x10 → Answers (.ctxs t) s (endOp y.1 t.toNat y.2.1 y.2.2))
        ∧ (im.2 = [] → Answers (.ctxs t) s (endOp y0.1 t.toNat y0.2.1 y0.2.2)))
    ∧ (let d := parseCtx o.desc
       Works s t 0x61 o → o.subs = 0 → o.aborted = false → o.status < 0x10 → remServer s d.dev d.addr = some s.dev →
        let x := serveRead s (ownRefusal s (tenantOf s o) d.akey d.addr 4096) d.addr 4096
        let n := cdiv (Nat.min (imageLen x.2.2.2) (2 ^ 41)) 64 * 64
        let y := serveRead s (ownRefusal s (tenantOf s o) d.akey d.addr n) d.addr n
        x.2.1 < 0x10 → y.2.1 < 0x10 → restoreBad s d y.2.2.2 = false → imageLen y.2.2.2 ≤ d.cap →
        Answers (.ctxr t) s (endOp (restoreAll y.1 t.toNat d y.2.2.2) t.toNat 0 0))

/-- UPD: accepted, it waits for release, as a trial where its step is guarded or measured first (07_update_engine.md R184, 06_instruction_set.md R180, 04_rounding_and_scaling.md R116, 04_rounding_and_scaling.md R120). -/
def Obligations.UpdatesAreAcceptedAsTrials : Prop :=
  ∀ (t : SlotId) (o : Op) (s : State), Accepts s t 0x20 o →
    let s1 := s.setOp t.toNat (tagged s o)
    (∀ rs imgs desc prog, updCheck s1 (tagged s o) = .ok rs imgs desc prog → fnRefuses s [0] = false → stepFor s1 ≠ none →
      SetsOp (.upd t) s t { tagged s o with phase := .waiting, ranges := recordRanges rs, imgs := imgs, desc := desc, prog := prog, writes := rs.filter (fun r => r.wr && !r.remote), trial := stepGuarded s (tagged s o).step })
    ∧ (updCheck s1 (tagged s o) = .illegal → Clean o → ∃ r, exec (.upd t) s = .next r
        ∧ r.op t.toNat = some { tagged s o with trapped := true, phase := .ended, status := 0x18, detail := 0 })

/-- Each micro-op writes its register in every block of its unit, and the unit moves on by one (07_update_engine.md R192, 07_update_engine.md R193, 07_update_engine.md R195, 07_update_engine.md R197, 07_update_engine.md R214, Table 7-3). -/
def Obligations.MicroOpsWriteTheirRegister : Prop :=
  (∀ (i : Instr) (t : SlotId) (u op : Nat) (f : MicroF) (o : Op) (c : UpdCtx) (x : Machine.Unit) (s : State), microRowOf i = some (t, u, op, f) →
    AtMicro s t u op f o c x →
    let w := mopOf op f
    let B := c.p.B
    let pass := fun (b : TBlock) => if (x.upc + 1) % 8 = 0 then { b with regs := b.next.foldl (fun m q => aput m q.1 q.2) b.regs, next := [] } else b
    let row := rowRes op (x.blocks.map (fun b => b.reg B w.a))
    ∃ bl, (unitStep s o c x).1 = { x with upc := x.upc + 1, blocks := bl }
      ∧ Answers i s (noteMade (putUnit s (unitStep s o c x).1) t.toNat o c (unitStep s o c x).2)
      ∧ (op = 0x00 → bl = x.blocks.map pass)
      ∧ (op = 0x14 ∨ op = 0x15 → bl = x.blocks.map (fun b => pass { b with next := aput b.next w.d { x := row.r.x, m := List.replicate B (row.r.m.headD (some 0)) }, sat := b.sat || row.sat, clamp := b.clamp || row.clamp }))
      ∧ (op = 0x16 → bl = x.blocks.map (fun b => pass { b with norm := b.norm ++ [(w.imm % 2, (redSum c.d.ngrid (b.reg B w.a)).1, (redSum c.d.ngrid (b.reg B w.a)).2)] }))
      ∧ (op ∉ [0x00, 0x14, 0x15, 0x16] → bl = x.blocks.map (fun b =>
          let r := microRes (microEnv s o c x.gap b.idx w) w (b.reg B w.a) (b.reg B w.b)
          pass { b with regs := aput b.regs w.d r.r, sat := b.sat || r.sat, clamp := b.clamp || r.clamp })))
  ∧ (∀ (env : MEnv) (a b : MReg) (d ra rb k imm : Nat),
    let va := a.vals
    let vb := b.vals
    let cn : Machine.Num := .fin env.c.1 env.c.2
    let R := fun op => microRes env { op := op, d := d, a := ra, b := rb, k := k, imm := imm } a b
    let z := fun (g : Machine.Num → Machine.Num → Machine.Num) => (List.zip va vb).map (fun e => g e.1 e.2)
    R 0x01 = exactRes a.x va ∧ R 0x02 = exactRes (min a.x b.x) (z Machine.Num.add) ∧ R 0x03 = exactRes (min a.x b.x) (z Machine.Num.sub)
    ∧ R 0x04 = exactRes (a.x + b.x) (z Machine.Num.mul) ∧ R 0x05 = exactRes (a.x + env.c.2) (va.map (fun v => Machine.Num.mul v cn))
    ∧ R 0x06 = exactRes (min a.x (b.x + env.c.2)) (z (fun x y => Machine.Num.add x (Machine.Num.mul y cn)))
    ∧ R 0x07 = exactRes (min a.x (min a.x b.x + env.c.2)) (z (fun x y => Machine.Num.add x (Machine.Num.mul (Machine.Num.sub y x) cn)))
    ∧ R 0x08 = exactRes (2 * a.x) (va.map (fun v => Machine.Num.mul v v)) ∧ R 0x09 = exactRes a.x (va.map Machine.Num.abs) ∧ R 0x0A = exactRes a.x (va.map Machine.Num.neg)
    ∧ R 0x0B = exactRes 0 (va.map Machine.Num.sgn) ∧ R 0x0C = exactRes (min a.x b.x) (z Machine.Num.max) ∧ R 0x0D = exactRes (min a.x b.x) (z Machine.Num.min)
    ∧ R 0x0E = exactRes env.c.2 (va.map (fun _ => cn)) ∧ R 0x0F = exactRes (a.x + sext 10 imm) (va.map (Machine.Num.scl (sext 10 imm)))
    ∧ R 0x18 = exactRes (min a.x env.c.2) (va.map (fun v => Machine.Num.clamp v cn)))

/-- BLOCK_RELEASE, ANTLER_REPORT and SHADOW_VERDICT act on a unit, an Antler or a held tile of a running UPD (07_update_engine.md R189, 07_update_engine.md R201, 07_update_engine.md R202, 07_update_engine.md R206, 09_vector_engine.md R260, 09_vector_engine.md R261, 09_vector_engine.md R262, 09_vector_engine.md R265, 15_faults_and_service.md R410). -/
def Obligations.UnitsAreReleasedAndReported : Prop :=
  (∀ (t : SlotId) (u : Nat) (o : Op) (c : UpdCtx) (x : Machine.Unit) (s : State), updUnit s t.toNat u = some (o, c, x) →
    let r := finishProgram s t.toNat o c (c.d.nops - x.upc) x
    let pl := unitPlace s c u
    let sm := sampleUpd r.1 pl.1 pl.2.1 x.blocks.length
    let o1 := (r.1.op t.toNat).getD o
    let want := if siblingUnit s c u then List.range x.blocks.length else sm.2
    let room := 64 - heldTiles s
    (want = [] → Answers (.blockRelease t u) s (finishUnit sm.1 t.toNat o1 c r.2))
    ∧ (want ≠ [] → want.length ≤ room → Answers (.blockRelease t u) s (putUnit sm.1 { r.2 with held := want }))
    ∧ (want ≠ [] → room < want.length → siblingUnit s c u = true → Answers (.blockRelease t u) s s)
    ∧ (want ≠ [] → room = 0 → siblingUnit s c u = false → Answers (.blockRelease t u) s (finishUnit (times bumpSkipped want.length sm.1) t.toNat o1 c r.2)))
  ∧ (∀ (t : SlotId) (h : HoofId) (a : Fin 8) (o : Op) (c : UpdCtx) (s : State), Works s t 0x20 o → updCtx o = some c →
    let n := h.val * 8 + a.val
    let o1 : Op := { o with reports := o.reports ++ [n] }
    let s1 := s.setOp t.toNat o1
    (n ∈ updAntlers s c → n ∉ o.reports → antlerDone s t.toNat o c n = true →
      (allReported s1 o1 c = false → SetsOp (.antlerReport t h a) s t o1)
      ∧ (allReported s1 o1 c = true → o.trial = true → o.aborted = false → SetsOp (.antlerReport t h a) s t o1)
      ∧ (allReported s1 o1 c = true → o.trial = false → o.aborted = false → Clean o →
          ∃ r o', exec (.antlerReport t h a) s = .next r ∧ r.op t.toNat = some o' ∧ o' = { o1 with count := normCount o1 c, phase := .ended }
            ∧ r.cores = s.cores ∧ r.store = s.store ∧ r.dram = s.dram ∧ ∀ y, y ≠ t.toNat → r.slot y = s.slot y)
      ∧ (allReported s1 o1 c = true → o.trial = false → o.aborted = true → Answers (.antlerReport t h a) s (endAborted (s1.onOp t.toNat (fun p => { p with count := normCount o1 c })) t.toNat (o1.count / c.p.B)))
      ∧ (allReported s1 o1 c = true → o.trial = true → o.aborted = true → Answers (.antlerReport t h a) s (endAborted s1 t.toNat 0)))
    ∧ (n ∉ updAntlers s c ∨ n ∈ o.reports ∨ antlerDone s t.toNat o c n = false → Answers (.antlerReport t h a) s s))
  ∧ (∀ (t : SlotId) (u k : Nat) (rest : List Nat) (v : Verdict) (o : Op) (c : UpdCtx) (x : Machine.Unit) (b : TBlock) (s : State), Works s t 0x20 o → updCtx o = some c →
    tineUnit s t.toNat u = some x → x.held = k :: rest → x.blocks[k]? = some b → s.failstop = false →
    (updChk s t.toNat o c x k b).agrees v.tile v.ref1 = true →
    let x' := { x with held := rest, blocks := x.blocks.set k (b.off (wmapRegs c (decide (k = 0))) v.tile) }
    (rest = [] → Answers (.shadowVerdict t u v) s (finishUnit (bumpChecked s) t.toNat o c x'))
    ∧ (rest ≠ [] → Answers (.shadowVerdict t u v) s (putUnit (bumpChecked s) x')))
  ∧ (∀ (t : SlotId) (u : Nat) (h : HoofId) (a : Fin 8) (v : Verdict) (s : State), s.op t.toNat = none →
    Answers (.blockRelease t u) s s ∧ Answers (.antlerReport t h a) s s ∧ Answers (.shadowVerdict t u v) s s)

/-- BUCKET_TRIGGER: a filling bucket that is full under AUTO, or flushed, starts its agree lap (12_gradient_reduction.md R332, 12_gradient_reduction.md R333, 12_gradient_reduction.md R335). -/
def Obligations.BucketsTriggerWhenFull : Prop :=
  ∀ (n : W32) (bi : BitVec 12) (a : Armed) (b : Bucket) (z s : State), z = seatPlans s → bucketOf z n.toNat bi.toNat = some (a, b) →
    let cap := capOf z
    let len := a.d.bucketLen cap bi.toNat
    let inovf := sumNat ((List.range len).map (fun t => (List.range 2).countP (fun h => bbOvf (bktByte z cap b t h))))
    let codes := (List.range len).map (fun t => logCode (maxMag (contribVals z cap a b t)))
    let due := a.flushed = true ∨ (autoOf (a.btab.getD bi.toNat 0) = true ∧ ∀ u ∈ extentUnits cap len, u ∈ b.units)
    (z.live = true → b.st = .filling → a.absent = none → armedReady z a = true → due →
      (let s1 := oregOverflow { z with units := { z.units with drcnt := bump z.units.drcnt 63 48 inovf } } a inovf
       let s2 := ((s1.onOp a.slot (fun p => { p with phase := .running })).onArmed n.toNat (fun x => { x with ready := true })).onBucket n.toNat bi.toNat (fun x =>
         { x with st := .reducing, codes := codes, lap := 0, items := (List.range len).map (fun t => (t, 0)), global := [] })
       Answers (.bucketTrigger n bi) s (retryRings (advanceLaps (startLap s2 n.toNat bi.toNat) n.toNat bi.toNat lapFuel)))
      ∧ ((∀ x ∈ s.armed, x.wait = none) → 1 < a.n → 0 < len → s.fab.rings = [] →
        ∃ r a' b', exec (.bucketTrigger n bi) s = .next r ∧ bucketOf r n.toNat bi.toNat = some (a', b') ∧ a'.ready = true ∧ b'.st = .reducing ∧ b'.lap = 0
          ∧ b'.codes = codes ∧ r.units.drcnt = bump s.units.drcnt 63 48 inovf ∧ r.cores = s.cores ∧ r.store = s.store ∧ r.dram = s.dram))
    ∧ (z.live = false ∨ b.st ≠ .filling ∨ a.absent ≠ none ∨ armedReady z a = false ∨ ¬ due → Answers (.bucketTrigger n bi) s z)

/-- VADD to VCMP, VSEL, VDRP and VIOTA: each active element below vl receives its value, in register form (Table 9-6, 09_vector_engine.md R243, 09_vector_engine.md R244, 09_vector_engine.md R248, 09_vector_engine.md R251). -/
def Obligations.VectorLaneArithmetic : Prop :=
  ∀ (x : Fin 8) (f : VecF) (e : VEnv) (s : State),
    let b := fun i => e.b f i
    let a := fun i => e.a f i
    let lo := fun g => min (e.ea f g) (e.eb f g)
    let W := fun (i : Instr) (val : Nat → Machine.Num) (e0 : Nat → Int) => VecLeaves i s e (setCtx s e.n (e.lanes f val e0))
    (AtVec s x 0x03 f e → W (.vadd x f) (fun i => Machine.Num.add (a i) (b i)) lo) ∧ (AtVec s x 0x04 f e → W (.vsub x f) (fun i => Machine.Num.sub (a i) (b i)) lo)
    ∧ (AtVec s x 0x05 f e → W (.vmul x f) (fun i => Machine.Num.mul (a i) (b i)) (fun g => e.ea f g + e.eb f g))
    ∧ (AtVec s x 0x06 f e → W (.vmax x f) (fun i => Machine.Num.max (a i) (b i)) lo) ∧ (AtVec s x 0x07 f e → W (.vmin x f) (fun i => Machine.Num.min (a i) (b i)) lo)
    ∧ (AtVec s x 0x08 f e → W (.vabs x f) (fun i => Machine.Num.abs (a i)) (fun g => e.ea f g + 0))
    ∧ (AtVec s x 0x09 f e → W (.vneg x f) (fun i => Machine.Num.neg (a i)) (fun g => e.ea f g + 0))
    ∧ (AtVec s x 0x0A f e → W (.vscl x f) (fun i => Machine.Num.scl (vimm f) (a i)) (fun g => e.ea f g + vimm f))
    ∧ (AtVec s x 0x0B f e → W (.vclp x f) (fun i => Machine.Num.clamp (a i) (b i)) lo)
    ∧ (AtVec s x 0x0C f e → VecLeaves (.vcon x f) s e (setCtx s e.n (laneConst e f)))
    ∧ (AtVec s x 0x0D f e → W (.vcmp x f) (fun i => cmpVal (f.fn.toNat % 4) (a i) (b i)) (fun _ => 0))
    ∧ (AtVec s x 0x0E f e → VecLeaves (.vsel x f) s e (setCtx s e.n (laneSel e f)))
    ∧ (AtVec s x 0x0F f e → e.o.step ≠ none → W (.vdrp x f) (fun i => if dropped s e f i then Machine.Num.zero else a i) (e.ea f))
    ∧ (AtVec s x 0x0F f e → e.o.step = none → Answers (.vdrp x f) s (endWork s e.t 0x14 0))
    ∧ (AtVec s x 0x13 f e → W (.viota x f) (fun i => .fin i 0) (fun _ => 0))

/-- VLD, VST, TLD, TST, TTR, TOP, TGV, TPV and VPRM: elements between registers, tiles and the bound region (Table 9-6, 09_vector_engine.md R242, 09_vector_engine.md R249, 09_vector_engine.md R255). -/
def Obligations.VectorLoadsStoresAndTiles : Prop :=
  ∀ (x : Fin 8) (f : VecF) (e : VEnv) (s : State),
    let L := fun (i : Instr) (c : VCtx) => VecLeaves i s e (setCtx s e.n c)
    let va := e.x.reg f.va.toNat
    let ta := e.x.tile f.va.toNat
    let td := e.x.tile f.vd.toNat
    let k := (vimm f).toNat % 64
    (∀ r, AtVec s x 0x01 f e → e.reg f = some r →
      let base := (e.off f + 64 * vimm f).toNat
      let val := fun i => elemVal s r (coarseOf s e.o.step r) (base + i)
      let is := (List.range e.x.vl).filter (e.x.active f)
      (r.fmt ≠ fWIDE → r.fmt ≠ fPAIR → L (.vld x f) (e.lanes f val (fun g => readExp ((List.range (Nat.min 64 (e.x.vl - 64 * g))).map (fun k => val (64 * g + k))))))
      ∧ (r.fmt = fWIDE → L (.vld x f) (e.x.putWide f.vd.toNat (is.map (fun i => (i, leNat (rdLocal s (r.base + 8 * (base + i)) 8))))))
      ∧ (r.fmt = fPAIR → L (.vld x f) ((e.x.putWide f.vd.toNat (is.map (fun i => (i, leNat (rdLocal s (r.base + 16 * (base + i)) 8))))).putWide (f.vd.toNat + 2)
          (is.map (fun i => (i, leNat (rdLocal s (r.base + 16 * (base + i) + 8) 8)))))))
    ∧ (∀ r, AtVec s x 0x02 f e → e.reg f = some r → r.fmt ≠ fWIDE → r.fmt ≠ fPAIR →
      let base := (e.off f + 64 * vimm f).toNat
      ∃ z, VecLeaves (.vst x f) s e z ∧ z.ctxs = s.ctxs ∧ z.cores = s.cores ∧ z = keepCount e ((List.range (cdiv e.x.vl r.B)).foldl (fun (s : State) k =>
        let is := (List.range r.B).map (fun i => k * r.B + i)
        vecBlock s e.t (e.bind f).reg r (base / r.B + k) (is.map (fun i => if i < e.x.vl then va.lane i else Machine.Num.zero))
          (is.any (fun i => decide (i < e.x.vl) && decide (i / 64 ∈ va.sat)))) s))
    ∧ (∀ r, AtVec s x 0x02 f e → e.reg f = some r → r.fmt = fWIDE ∨ r.fmt = fPAIR →
      ∃ z, VecLeaves (.vst x f) s e z ∧ z = keepCount e (wideStore s e f r (e.off f + 64 * vimm f).toNat) ∧ z.ctxs = s.ctxs ∧ z.cores = s.cores)
    ∧ (∀ r, AtVec s x 0x18 f e → e.reg f = some r →
      L (.tld x f) (e.x.setTile f.vd.toNat ((List.range 64).foldl (fun (q : VReg) (row : Nat) =>
        let vals := (List.range 64).map (fun c => elemVal s r (coarseOf s e.o.step r) ((e.off f + 64 * vimm f * (row : Int)).toNat + c))
        q.putGroup row (readExp vals) vals) VReg.zero)))
    ∧ (∀ r, AtVec s x 0x19 f e → e.reg f = some r →
      ∃ z, VecLeaves (.tst x f) s e z ∧ z.ctxs = s.ctxs ∧ z.cores = s.cores ∧ z = keepCount e ((List.range 64).foldl (fun s (row : Nat) =>
        vecBlocks s e (e.bind f).reg r (e.off f + 64 * vimm f * (row : Int)).toNat ta (64 * row) 64 (64 / r.B)) s))
    ∧ (AtVec s x 0x1A f e → L (.ttr x f) (e.x.setTile f.vd.toNat (tileOf (fun r c => ta.lane (64 * c + r)) (fun _ => minExp ta 4096))))
    ∧ (AtVec s x 0x1B f e → ∀ (op : Machine.Num → Machine.Num → Machine.Num), (f.fn.toNat % 8, op) ∈ [(0, Machine.Num.add), (1, Machine.Num.sub), (2, Machine.Num.mul), (3, Machine.Num.max), (4, Machine.Num.min)] →
      let tb := e.x.tile f.vb.toNat
      let vb := e.x.reg f.vb.toNat
      let ex := fun (p q : Int) => if f.fn.toNat % 8 = 2 then p + q else min p q
      (f.fn.toNat / 16 = 0 → L (.top x f) (e.x.setTile f.vd.toNat (tileOf (fun r c => op (ta.lane (64 * r + c)) (tb.lane (64 * r + c))) (fun r => ex (ta.exp r) (tb.exp r)))))
      ∧ (f.fn.toNat / 16 = 1 → L (.top x f) (e.x.setTile f.vd.toNat (tileOf (fun r c => op (ta.lane (64 * r + c)) (vb.lane r)) (fun r => ex (ta.exp r) (vb.exp 0)))))
      ∧ (f.fn.toNat / 16 = 2 → L (.top x f) (e.x.setTile f.vd.toNat (tileOf (fun r c => op (ta.lane (64 * r + c)) (vb.lane c)) (fun r => ex (ta.exp r) (vb.exp 0))))))
    ∧ (AtVec s x 0x1C f e →
      (f.fn = 0 → L (.tgv x f) (e.x.setReg f.vd.toNat ((e.x.reg f.vd.toNat).putGroup 0 (ta.exp k) ((List.range 64).map (fun i => ta.lane (64 * k + i))))))
      ∧ (f.fn = 1 → L (.tgv x f) (e.x.setReg f.vd.toNat ((e.x.reg f.vd.toNat).putGroup 0 (minExp ta 4096) ((List.range 64).map (fun i => ta.lane (64 * i + k)))))))
    ∧ (AtVec s x 0x1D f e →
      (f.fn = 0 → L (.tpv x f) (e.x.setTile f.vd.toNat (td.putGroup k (va.exp 0) ((List.range 64).map (fun i => va.lane i)))))
      ∧ (f.fn = 1 → L (.tpv x f) (e.x.setTile f.vd.toNat ((List.range 64).foldl (fun (q : VReg) r =>
          q.putGroup r (min (q.exp r) (va.exp 0)) ((List.range 64).map (fun c => if c = k then va.lane r else q.lane (64 * r + c)))) td))))
    ∧ (AtVec s x 0x12 f e →
      let inRange := fun (i : Nat) => ∃ j : Int, Machine.Num.trunc ((e.x.reg f.vb.toNat).lane i) = some j ∧ 0 ≤ j ∧ j < e.x.vl
      let c := e.lanes f (fun i => match Machine.Num.trunc ((e.x.reg f.vb.toNat).lane i) with
        | some j => if 0 ≤ j ∧ j < e.x.vl then va.lane j.toNat else Machine.Num.zero
        | none => Machine.Num.zero) (fun _ => minExp va e.x.vl)
      ((∀ i, i < e.x.vl → e.x.active f i = true → inRange i) → L (.vprm x f) c)
      ∧ ((∃ i, i < e.x.vl ∧ e.x.active f i = true ∧ ¬ inRange i) →
        let z := (setCtx s e.n c).onOp e.t (fun o => { o with flags := o.flags ||| 16 })
        VecLeaves (.vprm x f) s e { z with units := { z.units with vecstat := setFlag z.units.vecstat 16 true } }))

/-- VRED, TRED and the wide path WCV, WOP, WFN, PCV, PADD, PMUL, WSUM and WNR (Table 9-7, Table 9-8, 09_vector_engine.md R242, 09_vector_engine.md R252, 09_vector_engine.md R253, 09_vector_engine.md R254, 09_vector_engine.md R256, 09_vector_engine.md R257, 09_vector_engine.md R258, 15_faults_and_service.md R412). -/
def Obligations.VectorReductionsAndWidePath : Prop :=
  ∀ (x : Fin 8) (f : VecF) (e : VEnv) (s : State),
    let va := e.x.reg f.va.toNat
    let ta := e.x.tile f.va.toNat
    let vd := f.vd.toNat
    let is := (List.range e.x.vl).filter (e.x.active f)
    let C := match e.reg f with | some r => coarseOf s e.o.step r | none => 0
    let fn := f.fn.toNat
    let empty := fun (z : State) =>
      let z1 := z.onOp e.t (fun o => { o with flags := o.flags ||| 2 })
      { z1 with units := { z1.units with vecstat := setFlag z1.units.vecstat 17 true } }
    let W := fun (i : Instr) (z : State) => VecLeaves i s e (if fld s.mgmt.fltstat 19 16 ≠ 0 then markDegraded z e.t else z)
    let note := fun (z : State) (sat : Bool) (unf : Nat) => { z with units := { z.units with wsat := z.units.wsat || sat, wunf := z.units.wunf + unf } }
    let wide := fun (val : Nat → WideRes) => note (setCtx s e.n (e.x.putWide vd (is.map (fun i => (i, (val i).w))))) (is.any (fun i => (val i).sat)) (is.countP (fun i => (val i).unf))
    let pair := fun (val : Nat → Machine.Num) => note (setCtx s e.n ((e.x.putWide vd (is.map (fun i => (i, (toPair (val i)).1)))).putWide (vd + 2) (is.map (fun i => (i, (toPair (val i)).2.1)))))
      (is.any (fun i => (toPair (val i)).2.2.1)) (is.countP (fun i => (toPair (val i)).2.2.2))
    let wb := fun i => e.x.wide f.vb.toNat (if vbc f then 0 else i)
    (AtVec s x 0x10 f e →
      let r := reduceEls (fn % 8) C (is.map (fun i => ({ i := i, x := va.exp (i / 64), v := va.lane i } : RedEl)))
      let z := setCtx s e.n (e.x.setReg vd (VReg.ofGroup0 r.2.1 [r.1]))
      (is ≠ [] → VecLeaves (.vred x f) s e z) ∧ (is = [] → VecLeaves (.vred x f) s e (empty z)))
    ∧ (AtVec s x 0x11 f e →
      let part := (List.range 64).filter (fun k => decide (e.x.vl ≠ 0) && (!f.men || ((e.x.reg f.msk.toNat).lane k).active))
      let rs := (List.range 64).map (fun j => reduceEls (fn % 8) C (part.map (fun k =>
        if bitAt fn 3 then ({ i := k, x := ta.exp k, v := ta.lane (64 * k + j) } : RedEl) else { i := k, x := ta.exp j, v := ta.lane (64 * j + k) })))
      let z := setCtx s e.n (e.x.setReg vd (VReg.ofGroup0 (rs.foldl (fun a r => min a r.2.1) (match rs with | r :: _ => r.2.1 | [] => 0)) (rs.map (fun r => r.1))))
      (part ≠ [] → VecLeaves (.tred x f) s e z) ∧ (part = [] → VecLeaves (.tred x f) s e (empty z)))
    ∧ (∀ C : Int, reduceEls 0 C [] = (.fin 0 C, C, true) ∧ reduceEls 1 C [] = (Machine.Num.zero, 0, true) ∧ (∀ k ∈ [2, 3, 4, 5], reduceEls k C [] = (.void, 0, true))
        ∧ (∀ k ∈ [6, 7], reduceEls k C [] = (.fin (-1) 0, 0, true)))
    ∧ (∀ (C : Int) (l : List RedEl), l ≠ [] → reduceEls 1 C l = (.fin (l.countP (fun e => !e.v.isVoid)) 0, 0, false))
    ∧ (AtVec s x 0x20 f e → W (.wcv x f) (wide (fun i => toWide (va.lane i))))
    ∧ (AtVec s x 0x21 f e → ∀ (g : Machine.Num → Machine.Num → Machine.Num), (fn % 8, g) ∈ [(0, Machine.Num.add), (1, Machine.Num.sub), (2, Machine.Num.mul), (3, Machine.Num.max), (4, Machine.Num.min), (5, fun a _ => Machine.Num.abs a), (6, fun a _ => Machine.Num.neg a)] →
      W (.wop x f) (wide (fun i => toWide (g (e.x.wide f.va.toNat i) (wb i)))))
    ∧ (AtVec s x 0x22 f e →
      let res := fun i => wideFn fn (e.x.wide f.va.toNat i) (e.x.wide f.vb.toNat i)
      let z := wide (fun i => (res i).1)
      ((∀ i ∈ is, (res i).2 = false) → W (.wfn x f) z) ∧ ((∃ i ∈ is, (res i).2 = true) → W (.wfn x f) (noteVoid z e.t)))
    ∧ (∀ (y : Machine.Num) (m ex : Int), (∀ k, wideFn k .void y = (WideRes.void, false)) ∧ wideFn 0 (.fin 0 ex) y = (WideRes.void, true) ∧ (m < 0 → wideFn 1 (.fin m ex) y = (WideRes.void, true))
        ∧ (m ≤ 0 → wideFn 2 (.fin m ex) y = (WideRes.void, true)) ∧ (m < 0 → wideFn 4 (.fin m ex) y = (WideRes.void, true) ∧ wideFn 6 (.fin m ex) y = (WideRes.void, true)))
    ∧ (AtVec s x 0x23 f e →
      let h := fun i => toWide (e.x.wide f.va.toNat i)
      W (.pcv x f) (note (setCtx s e.n ((e.x.putWide vd (is.map (fun i => (i, (h i).w)))).putWide (vd + 2) (is.map (fun i => (i, 0))))) (is.any (fun i => (h i).sat)) (is.countP (fun i => (h i).unf))))
    ∧ (AtVec s x 0x24 f e →
      (fn = 0 → W (.padd x f) (pair (fun i => Machine.Num.add (e.x.pair f.va.toNat i) (e.x.pair f.vb.toNat i))))
      ∧ (fn = 1 → W (.padd x f) (pair (fun i => Machine.Num.sub (e.x.pair f.va.toNat i) (e.x.pair f.vb.toNat i)))))
    ∧ (AtVec s x 0x25 f e → W (.pmul x f) (pair (fun i => Machine.Num.mul (e.x.pair f.va.toNat i) (e.x.pair f.vb.toNat i))))
    ∧ (AtVec s x 0x26 f e →
      let p := pairSum (is.map (fun i => (i, if fn = 0 then e.x.wide f.va.toNat i else e.x.pair f.va.toNat i)))
      let c := (List.range 4).foldl (fun (c : VCtx) k => c.setReg (vd + k) { (c.reg (vd + k)) with m := [] }) e.x
      let z := note (setCtx s e.n ((c.putWide vd [(0, (toPair p.1).1)]).putWide (vd + 2) [(0, (toPair p.1).2.1)])) p.2.sat p.2.unf
      (is ≠ [] → W (.wsum x f) z) ∧ (is = [] → W (.wsum x f) (empty z)))
    ∧ (AtVec s x 0x27 f e →
      let val := fun i => if fn = 0 then e.x.wide f.va.toNat i else e.x.pair f.va.toNat i
      W (.wnr x f) (setCtx s e.n (e.lanes f val (fun g =>
        if (List.range 64).any (fun k => decide (64 * g + k < e.x.vl) && e.x.active f (64 * g + k) && (val (64 * g + k)).active) then -100000 else 0))))

/-- SETVL and SUMC, NLD, the place in the program, and what ABORT leaves (09_vector_engine.md R242, 09_vector_engine.md R247, 09_vector_engine.md R248, 09_vector_engine.md R250, 09_vector_engine.md R259). -/
def Obligations.VectorControl : Prop :=
  ∀ (x : Fin 8) (f : VecF) (e : VEnv) (s : State),
    (AtVec s x 0x30 f e → VecLeaves (.setvl x f) s e
      (setCtx s e.n { e.x with vl := if f.fn = 0 then (vimm f).toNat else e.o.opA }))
    ∧ (AtVec s x 0x31 f e → VecLeaves (.sumc x f) s e
      ((setCtx s e.n { e.x with sumc := true }).onOp e.t (fun o => { o with count := sumCount ((e.x.reg f.va.toNat).lane 0) })))
    ∧ (vopAt s x.val = some e → Answers (.nld x f) s (endIllegal (freeCtx s e.t) e.t)
        ∧ (Clean e.o → ∃ t, exec (.nld x f) s = .next t ∧ t.op e.t = some { e.o with trapped := true, phase := .ended, status := 0x18, detail := 0 }
            ∧ t.ctxs = s.ctxs.filter (fun c => c.2.slot ≠ e.t)))
    ∧ (vopAt s x.val = none → Answers (.nld x f) s s)
    ∧ (∀ (i : Instr) (op : Nat), (i, op) ∈ [(Instr.vld x f, 0x01), (.vst x f, 0x02), (.vadd x f, 0x03), (.vred x f, 0x10), (.tld x f, 0x18), (.wcv x f, 0x20), (.setvl x f, 0x30), (.sumc x f, 0x31)] →
        (vecNext s x.val op f = none → Answers i s s)
        ∧ (vecNext s x.val op f = some e → e.stopped = true → Answers i s (endAborted s e.t e.x.iter)))
    ∧ (∀ (c : VCtx) (o : Op) (n : Nat), running s e.t 0x40 = some o → ctxOf s e.t = some (n, c) →
        (c.at_ + 1 < o.prog.length → vopAdvance s e.t = setCtx s n { c with at_ := c.at_ + 1 })
        ∧ (o.prog.length ≤ c.at_ + 1 →
            let s1 := (setCtx s n { c with at_ := 0, iter := c.iter + 1 }).onOp e.t (fun o => { o with progress := c.iter + 1 })
            (c.iter + 1 < vopIter o.desc → vopAdvance s e.t = s1) ∧ (vopIter o.desc ≤ c.iter + 1 → o.aborted = false → vopAdvance s e.t = endWork s1 e.t 0 0)
            ∧ (vopIter o.desc ≤ c.iter + 1 → o.aborted = true → vopAdvance s e.t = endAborted s1 e.t (c.iter + 1))))

/-- WRITE and READ: refused at the wrong port, held while they must wait, performed and acknowledged otherwise (17_ports_and_registers.md R458, 17_ports_and_registers.md R459, 17_ports_and_registers.md R460, 14_memory_stacks.md R442, 11_store_and_streams.md R295, 11_store_and_streams.md R300, 11_store_and_streams.md R323). -/
def Obligations.HostReadsAndWrites : Prop :=
  ∀ (p : HostPort) (m : HostMsg) (s : State),
    let r := m.req.toNat
    let n := 64 * m.len.toNat
    let a := m.addr.toNat
    let s1 := { s with host := { s.host with wcred := mput (fun _ => 0) s.host.wcred r (mget (fun _ => 0) s.host.wcred r - cdiv m.len.toNat 4) } }
    (hostUp s p.toNat = false → Answers (.write p m) s s ∧ Answers (.read p m) s s)
    ∧ (hostUp s p.toNat = true → (64 < m.len.toNat ∨ r / 512 ≠ p.toNat) →
        Answers (.write p m) s (hostRefuse s p.toNat r m.stream.toNat) ∧ Answers (.read p m) s (hostRefuse s p.toNat r m.stream.toNat))
    ∧ (Arrives s p m →
      (hostRange s (reqPort r) a n = 0 → hostWaits s1 true m = true ∨ unitsHeld s m = true →
        Answers (.write p m) s { s1 with host := { s1.host with hold := s.host.hold ++ [{ m with kind := 2 }] } })
      ∧ (hostRange s (reqPort r) a n = 0 → hostWaits s false m = true ∨ unitsHeld s m = true →
        Answers (.read p m) s { s with host := { s.host with hold := s.host.hold ++ [{ m with kind := 3 }] } })
      ∧ (hostRange s (reqPort r) a n ≠ 0 → Answers (.write p m) s (ackWrite s1 m (hostRange s (reqPort r) a n))
          ∧ Answers (.read p m) s (sendCredited s (hostMsg 0x83 r m.stream.toNat 0 (hostRange s (reqPort r) a n) m.tag.toNat a 0 true [])))
      ∧ (hostRange s (reqPort r) a n = 0 → hostWaits s1 true m = false → unitsHeld s m = false → m.payload.length = n →
        (inCsr a = true → Answers (.write p m) s (ackWrite (csrWrites s1 (a - csrBase) (n / 8) m.payload) m 0))
        ∧ (inCsr a = false → inStore a = true → Answers (.write p m) s (ackWrite (wrLocal s1 4096 a m.payload) m 0))
        ∧ (inCsr a = false → inStore a = false →
            let s2 := wrLocal s1 (wackNo s1) a m.payload
            Answers (.write p m) s (releaseWacks { s2 with host := { s2.host with wack := s2.host.wack ++ [(wackNo s1, m)] } })))
      ∧ (hostRange s (reqPort r) a n = 0 → hostWaits s false m = false → unitsHeld s m = false →
        (inCsr a = false → Answers (.read p m) s (sendCredited s (hostMsg 0x83 r m.stream.toNat 0 0 m.tag.toNat a 0 true (rdLocal s a n))))
        ∧ (inCsr a = true → Answers (.read p m) s (sendCredited (csrReads s (a - csrBase) (n / 8)).1
            (hostMsg 0x83 r m.stream.toNat 0 0 m.tag.toNat a 0 true (csrReads s (a - csrBase) (n / 8)).2)))))

/-- WORD, SOPEN, SCLOSE, RXCRED, HOST_LINK_UP, DISCARDED_HOST_MESSAGE, STREAM_REFILL and STREAM_CLOSE_COMPLETE (11_store_and_streams.md R310, 11_store_and_streams.md R313, 11_store_and_streams.md R314, 11_store_and_streams.md R315, 17_ports_and_registers.md R458, 17_ports_and_registers.md R460). -/
def Obligations.HostWordsAndStreams : Prop :=
  (∀ (p : HostPort) (m : HostMsg) (s : State), Arrives s p m →
    let n := m.stream.toNat
    let r := m.req.toNat
    Answers (.word p m) s (drainPort (queueWord { s with host := { s.host with
        icred := mput (fun _ => 0) s.host.icred n (mget (fun _ => 0) s.host.icred n - 1) } } p.toNat { m with kind := 1 }) p.toNat)
    ∧ Answers (.rxcred p m) s (flushRx { s with host := { s.host with
        rxcred := mput (fun _ => 0) s.host.rxcred r (mget (fun _ => 0) s.host.rxcred r + m.count.toNat) } } r)
    ∧ Answers (.sclose p m) s (closeByHost s n r m.tag.toNat)
    ∧ (m.payload.length = 64 →
        let o := openStrm s n m.payload 1 (some r)
        (o.2 ≠ 0 → Answers (.sopen p m) s (sendHost o.1 (hostMsg 0x84 r n 0 o.2 m.tag.toNat 0 0 true [])))
        ∧ (o.2 = 0 → Answers (.sopen p m) s (sendHost { o.1 with host := { o.1.host with
              icred := mput (fun _ => 0) o.1.host.icred n (parseStrm m.payload).win } }
            (hostMsg 0x84 r n 0 0 m.tag.toNat 0 (parseStrm m.payload).win true [])))))
  ∧ (∀ (p : HostPort) (s : State), (hostUp s p.toNat = true → Answers (.discardedHostMessage p) s (hostRefuse s p.toNat 0 0))
    ∧ (s.live = true → s.phase = .up → powered s .hostp = true → (s.hport p.toNat).up = false → (s.hport p.toNat).training = false →
      ∃ t, exec (.hostLinkUp p) s = .next t ∧ (t.hport p.toNat).up = true
        ∧ (∀ i, i < 512 → mget (fun _ => 0) t.host.wcred (512 * p.toNat + i) = 4)
        ∧ (∀ q, q / 512 ≠ p.toNat → mget (fun _ => 0) t.host.wcred q = mget (fun _ => 0) s.host.wcred q)))
  ∧ (∀ (st : StreamId) (k : Strm) (s : State), s.live = true → s.strm st.toNat = some k →
    Answers (.streamRefill st) s (hostTurn (refillStrm s st.toNat))
    ∧ (k.infl ≠ 0 ∨ k.heldRecs ≠ [] → Answers (.streamCloseComplete st) s s)
    ∧ (∀ q, k.infl = 0 → k.heldRecs = [] → k.cmd = 2 → k.closers = [] → (refillStrm s st.toNat).strm st.toNat = some q →
        Answers (.streamCloseComplete st) s (strmcmdDone ((refillStrm s st.toNat).setStrm st.toNat (q.reconf k.img)) 0))
    ∧ (k.infl = 0 → k.heldRecs = [] → k.cmd = 1 ∨ k.closers ≠ [] → ∃ t, exec (.streamCloseComplete st) s = .next t
        ∧ t.strms = adel s.strms st.toNat ∧ mget (fun _ => 0) t.host.icred st.toNat = 0 ∧ (k.cmd ≠ 0 → flag t.sched.strmcmd 63 = false)
        ∧ t.cores = s.cores ∧ t.store = s.store ∧ t.dram = s.dram))

/-- RDREQ, WRREQ, ACCM, PREQ and FWD: the first part of a request takes a key and a slot, later parts join it, copies are answered (13_fabric.md R362, 13_fabric.md R367, 13_fabric.md R368, 13_fabric.md R380, 11_store_and_streams.md R300, 11_store_and_streams.md R317, Table 13-4). -/
def Obligations.RequestsLandOnTheirTarget : Prop :=
  ∀ (p : FabPort) (k : Packet) (s : State),
    (∀ (i : Instr) (kd : Byte), (i, kd) ∈ [(Instr.rdreq p k, 0x01#8), (Instr.wrreq p k, 0x02#8), (Instr.accm p k, 0x03#8), (Instr.preq p k, 0x04#8), (Instr.fwd p k, 0x05#8)] →
      Reaches s p kd k →
      let q := { k with kind := kd }
      let s1 := ecrcGood s p.toNat q
      let back := s1.setFport p.toNat { s1.fport p.toNat with held := (s1.fport p.toNat).held ++ [q] }
      let mine := fun (x : HKey) => x.src = k.src.toNat && x.ticket = k.ticket.toNat
      let join := mapKey s1 mine (fun x => { x with req := x.req ++ [q] })
      (keyOf s1 k.src.toNat k.ticket.toNat = none →
        (s1.quiesce.isSome = true ∨ 65536 ≤ s1.fab.keys.length ∨ openKey s1 p.toNat q = none → Answers i s back)
        ∧ (s1.quiesce = none → s1.fab.keys.length < 65536 → ∀ s2, openKey s1 p.toNat q = some s2 → Answers i s (takePart s2 true q))
        ∧ (s1.quiesce = none → s1.fab.keys.length < 65536 → k.last = false → s1.freeq ≠ [] → ∀ n, remoteStrm s1 k.src.toNat k.sstr.toNat = some n →
            ∃ r hk t o, exec i s = .next r ∧ keyOf r k.src.toNat k.ticket.toNat = some hk ∧ hk.req = [q] ∧ hk.st = .running ∧ hk.slot = some t ∧ r.op t = some o
              ∧ o.phase = .issued ∧ o.stream = n ∧ s1.freeq.head? = some t ∧ ∀ x, x ≠ t → r.slot x = s1.slot x))
      ∧ (∀ hk, keyOf s1 k.src.toNat k.ticket.toNat = some hk →
        let hk1 := { hk with via := (viaOf s1 q).getD hk.via }
        let s2 := mapKey (bumpFab1 s1 31 16 1) mine (fun x => { x with via := hk1.via })
        ((∃ x ∈ hk.req, x.part = k.part) → (hk.st = .running → Answers i s (sendPend s2 hk1)) ∧ (hk.st ≠ .running → Answers i s (resendReply s2 hk1)))
        ∧ ((∀ x ∈ hk.req, x.part ≠ k.part) → (hk.st = .running → Answers i s (takePart join false q)) ∧ (hk.st ≠ .running → Answers i s join))))

/-- PEND, RPLY, REL, RING, BAR, BEAC, BLEAT and EXCL do what their kind says at the device they name (Table 13-3, Table 13-4, 13_fabric.md R369, 13_fabric.md R370, 13_fabric.md R371, 13_fabric.md R374, 13_fabric.md R376, 13_fabric.md R382, 12_gradient_reduction.md R350, 06_instruction_set.md R159). -/
def Obligations.RepliesAndMessagesArrive : Prop :=
  ∀ (p : FabPort) (k : Packet) (s : State),
    let q := fun (kd : Byte) => { k with kind := kd }
    let g := fun (kd : Byte) => ecrcGood s p.toNat (q kd)
    let bleatOk := k.payload.length = 64 ∧ fieldAt k.payload 1 1 = 0 ∧ fieldAt k.payload 6 2 < 4096 ∧ fieldAt k.payload 8 24 = 0
    let exclOk := k.payload.length = 64 ∧ fieldAt k.payload 0 64 < 4096
    (Reaches s p 0x08 k → Answers (.pend p k) s (pendArrive (g 0x08) (q 0x08))) ∧ (Reaches s p 0x09 k → Answers (.rply p k) s (rplyArrive (g 0x09) (q 0x09)))
    ∧ (Reaches s p 0x0A k → Answers (.rel p k) s (relArrive (g 0x0A) (q 0x0A))) ∧ (Reaches s p 0x0C k → Answers (.ring p k) s (ringTake (g 0x0C) p.toNat (q 0x0C)))
    ∧ (Reaches s p 0x10 k → barPayloadOk k.payload = true → Answers (.bar p k) s (barArrive (g 0x10) (q 0x10)))
    ∧ (Reaches s p 0x10 k → barPayloadOk k.payload = false → Answers (.bar p k) s (bumpFab0 (g 0x10) 63 48))
    ∧ (Reaches s p 0x11 k → Answers (.beac p k) s
        { g 0x11 with fab := { (g 0x11).fab with lastB := aput (g 0x11).fab.lastB k.src.toNat (g 0x11).now } })
    ∧ (reaches s p.toNat (q 0x11) = true → fromAbsent (g 0x11) (q 0x11) = true → Answers (.beac p k) s (noteBeacon (bumpFab1 (g 0x11) 47 32 1) k.src.toNat))
    ∧ (Reaches s p 0x08 k → answered (g 0x08) (q 0x08) = none → Answers (.pend p k) s (bumpStale (g 0x08)))
    ∧ (∀ e, Reaches s p 0x08 k → answered (g 0x08) (q 0x08) = some e → Answers (.pend p k) s { g 0x08 with fab := { (g 0x08).fab with
        orig := (g 0x08).fab.orig.map (fun x => if x = e then { x with pend := true } else x) } })
    ∧ (∀ e, Reaches s p 0x09 k → answered (g 0x09) (q 0x09) = some e → e.parts = [] → e.lastPart = none → k.last = false → k.retry = false →
        Answers (.rply p k) s { g 0x09 with fab := { (g 0x09).fab with
          orig := (g 0x09).fab.orig.map (fun x => if x = e then { e with parts := [(k.part.toNat, k.payload)] } else x) } })
    ∧ (Reaches s p 0x0A k → keyOf (g 0x0A) k.src.toNat k.ticket.toNat = none → Answers (.rel p k) s (bumpStale (g 0x0A)))
    ∧ (∀ hk t o, Reaches s p 0x0A k → keyOf (g 0x0A) k.src.toNat k.ticket.toNat = some hk → hk.st = .replied → hk.slot = some t → (g 0x0A).op t = some o →
        o.ofKey hk.src hk.ticket = true → o.phase = .held →
        ∃ r, exec (.rel p k) s = .next r ∧ (r.slot t).st = (if o.retried then .quarantine o.doneAt else .free)
          ∧ r.fab.keys = (g 0x0A).fab.keys.map (fun x => if x = hk then { x with st := .released, relAt := (g 0x0A).now } else x))
    ∧ (∀ hk, Reaches s p 0x0A k → keyOf (g 0x0A) k.src.toNat k.ticket.toNat = some hk → hk.st ≠ .replied → Answers (.rel p k) s (bumpStale (g 0x0A)))
    ∧ (Reaches s p 0x10 k → barPayloadOk k.payload = true → barOf (g 0x10) (fieldAt k.payload 4 4) = none →
        Answers (.bar p k) s (putContrib (g 0x10) (parseContrib k.src.toNat k.payload)))
    ∧ (Reaches s p 0x13 k → exclOk → fieldAt k.payload 0 2 % 4096 = s.dev → Answers (.excl p k) s (failStop (g 0x13) .central 0xFF 0xFFFF k.src.toNat))
    ∧ (Reaches s p 0x13 k → exclOk → fieldAt k.payload 0 2 % 4096 ≠ s.dev → isPartner s k.src.toNat = true → isPartner s (fieldAt k.payload 0 2 % 4096) = true →
        Answers (.excl p k) s (declareAbsent (g 0x13) (fieldAt k.payload 0 2 % 4096)))
    ∧ (Reaches s p 0x12 k → bleatOk → Answers (.bleat p k) s (bleatArrive (g 0x12) (q 0x12))) ∧ (Reaches s p 0x12 k → ¬ bleatOk → Answers (.bleat p k) s (bumpFab0 (g 0x12) 63 48))
    ∧ (Reaches s p 0x13 k → exclOk → Answers (.excl p k) s (exclArrive (g 0x13) (q 0x13))) ∧ (Reaches s p 0x13 k → ¬ exclOk → Answers (.excl p k) s (bumpFab0 (g 0x13) 63 48))

/-- PACKET_FORWARD, corrupt and malformed packets, and the filter on absent sources (13_fabric.md R359, 13_fabric.md R360, 13_fabric.md R361, 13_fabric.md R363, 13_fabric.md R365, 13_fabric.md R366, 13_fabric.md R370, 13_fabric.md R377, 02_handshake_timing.md R54, 11_store_and_streams.md R300). -/
def Obligations.PacketsOfOthersPassOn : Prop :=
  (∀ (p : FabPort) (k : Packet) (s : State),
    (s.live = false ∨ portUp s p.toNat = false → Answers (.packetForward p k) s s ∧ Answers (.malformedPacket p) s s)
    ∧ (s.live = true → portUp s p.toNat = true →
      Answers (.malformedPacket p) s (bumpFab0 s 63 48)
      ∧ (heldBack s p.toNat k = true → Answers (.packetForward p k) s (s.setFport p.toNat { s.fport p.toNat with held := (s.fport p.toNat).held ++ [k] }))
      ∧ (heldBack s p.toNat k = false →
      (k.ecrc.toNat ≠ ecrcOf k → Answers (.packetForward p k) s (ecrcMismatch s p.toNat k))
      ∧ (k.ecrc.toNat = ecrcOf k → packetMalformed k = true → Answers (.packetForward p k) s (bumpFab0 s 63 48))
      ∧ (k.ecrc.toNat = ecrcOf k → packetMalformed k = false → packetKind k.kind.toNat = true →
        let s1 := ecrcGood s p.toNat k
        (fromAbsent s1 k = true → Answers (.packetForward p k) s (bumpFab1 s1 47 32 1))
        ∧ (fromAbsent s1 k = false → k.dst.toNat ≠ s1.dev → Answers (.packetForward p k) s (forwardPacket s1 p.toNat k))
        ∧ (fromAbsent s1 k = false → k.dst.toNat ≠ s1.dev → k.hb = 0 → Answers (.packetForward p k) s (bumpFab0 s1 31 16))
        ∧ (fromAbsent s1 k = false → k.dst.toNat ≠ s1.dev → k.hb ≠ 0 →
            let k1 := { k with hb := k.hb - 1 }
            let k2 := if p.toNat < 12 ∧ coord k.dst.toNat (p.toNat / 4) = coord s1.dev (p.toNat / 4) then { k1 with dir := 0 } else k1
            (route s1 k2 = none → Answers (.packetForward p k) s (bumpFab0 s1 47 32))
            ∧ (∀ o d, route s1 k2 = some (o, d) → Answers (.packetForward p k) s { s1 with fab := { s1.fab with
                egress := enqueue s1.fab.egress { port := o, pk := dressed k2 d, from_ := some p.toNat, at_ := s1.now } } }))))))
  ∧ (∀ (i : Nat) (e : Leaving) (s : State), s.fab.egress[i]? = some e →
    (∀ q, e.from_ = some q → s.live = true → s.mgmt.refclk = true → Answers (.residencyDiscard i) s (bumpFab0 { s.atLeast (e.at_ + 6401) with fab := { s.fab with egress := s.fab.egress.eraseIdx i } } 15 0))
    ∧ (e.from_ = none ∨ s.live = false ∨ s.mgmt.refclk = false → Answers (.residencyDiscard i) s s))

/-- The timers of requests, keys, filters, streams and beacons act once their time has passed (Table 13-4, 13_fabric.md R369, 13_fabric.md R374, 13_fabric.md R375, 10_graph_operations.md R284, 11_store_and_streams.md R317). -/
def Obligations.FabricTimersAct : Prop :=
  (∀ (src : DevId) (tk : BitVec 16) (hk : HKey) (s : State), keyOf s src.toNat tk.toNat = some hk → s.live = true →
    (hk.st = .running → hk.pended = false → hk.viaKnown = true → Answers (.pendTimer src tk) s
        (mapKey (sendPend (s.atLeast (hk.landed + 1600)) hk) (fun x => x = hk) (fun x => { x with pended := true })))
    ∧ (hk.pended = true ∨ hk.st ≠ .running ∨ hk.viaKnown = false → Answers (.pendTimer src tk) s s)
    ∧ (hk.st = .replied → hk.resends < 4 →
        let s1 := s.atLeast (hk.relAt + rtoTicks s)
        Answers (.rplyResend src tk) s (resendReply (mapKey s1 (fun x => x = hk) (fun x => { x with resends := x.resends + 1, relAt := s1.now })) hk))
    ∧ (hk.st = .replied → hk.resends = 4 → Answers (.rplyResend src tk) s s
        ∧ (hk.viaKnown = true → Answers (.originatorSilence src tk) s (declareAbsent (s.atLeast (hk.relAt + 110000)) hk.via)))
    ∧ (hk.st = .released → ∃ t, exec (.heldKeyExpiry src tk) s = .next t ∧ t.fab.keys = s.fab.keys.filter (fun k => k ≠ hk)
        ∧ t.now = Nat.max s.now (hk.relAt + 57600) ∧ t.cores = s.cores ∧ t.slots = s.slots ∧ t.store = s.store ∧ t.dram = s.dram)
    ∧ (hk.st ≠ .released → Answers (.heldKeyExpiry src tk) s s))
  ∧ (∀ (h : HoofId) (src : DevId) (tk : BitVec 16) (e : FiltEnt) (s : State),
    (s.hoof h.val).filter.find? (fun e => e.src = src.toNat && e.ticket = tk.toNat) = some e →
    ((s.hoof h.val).haon = true → (s.hoof h.val).refclk = true → Answers (.filterEntryExpiry h src tk) s (s.setHoof h.val { s.hoof h.val with ltime := Nat.max (s.hoof h.val).ltime (e.at_ + 57600), filter := (s.hoof h.val).filter.filter (fun x => x ≠ e) }))
    ∧ ((s.hoof h.val).haon = false ∨ (s.hoof h.val).refclk = false → Answers (.filterEntryExpiry h src tk) s s))
  ∧ (∀ (st : StreamId) (k : Strm) (s : State), s.strm st.toNat = some k → s.live = true →
    (k.kind = 2 → k.infl = 0 → ∃ t, exec (.remoteStreamIdleClose st) s = .next t ∧ t.strms = adel s.strms st.toNat ∧ t.now = Nat.max s.now (k.last + 1000000))
    ∧ (k.kind ≠ 2 ∨ k.infl ≠ 0 → Answers (.remoteStreamIdleClose st) s s))
  ∧ (∀ (t : SlotId) (e : Orig) (s : State), s.live = true →
    (s.fab.orig.find? (fun e => e.slot = t.toNat && e.silent && !e.retried) = some e → Answers (.reissue t) s (reissueSlot s t.toNat)
        ∧ fld (reissueSlot s t.toNat).sched.fabcnt1 15 0 = satAdd 16 (fld s.sched.fabcnt1 15 0) 1)
    ∧ (s.fab.orig.find? (fun e => e.slot = t.toNat && e.silent && e.retried) = some e → Answers (.reissueSilence t) s (declareAbsent (s.atLeast (e.sentAt + 110000)) e.dst)))
  ∧ (∀ (d : DevId) (s : State), s.live = true → flag s.sched.fabcfg 8 = true →
    (let s1 := s.atLeast (s.fab.beaconAt + 10000)
     Answers .beaconSend s (sendAll { s1 with fab := { s1.fab with beaconAt := s1.now } } ((partners s).map (fun d => { bare 0x11 s.dev d 0 with step := beaconStep s }))))
    ∧ (isPartner s d.toNat = true → isAbsent s d.toNat = false →
        Answers (.beaconSilence d) s (declareAbsent (s.atLeast ((aget s.fab.lastB d.toNat).getD 0 + 35000)) d.toNat)))

/-- FABRIC_LINK_DOWN and UP, LINK_REPLAY, FABRIC_PORT_RETIRE and MODULE_DOWN with the units that it carries (13_fabric.md R364, Table 15-1, Table 15-2, 15_faults_and_service.md R406, 15_faults_and_service.md R408, 15_faults_and_service.md R412, 17_ports_and_registers.md R456, Table 13-11). -/
def Obligations.FabricLinksGoDownAndUp : Prop :=
  ∀ (p : FabPort) (s : State),
    let f := s.fport p.toNat
    (∀ lost, flag f.lstat 0 = true → ∃ t, exec (.fabricLinkDown p lost) s = .next t
        ∧ t.fport p.toNat = { f with lstat := bump (setFlag f.lstat 0 false) 47 32 1, downAt := s.now, held := [] }
        ∧ t.fab.egress = dropLast (fun e => decide (e.port = p.toNat)) lost s.fab.egress
        ∧ t.fab.wire = dropLast (fun e => decide (e.1 = p.toNat)) (lost - s.fab.egress.countP (fun e => decide (e.port = p.toNat))) s.fab.wire ∧ (∀ q, q ≠ p.toNat → t.fport q = s.fport q) ∧ t = settle s { s with fab := t.fab })
    ∧ (∀ lost, flag f.lstat 0 = false → Answers (.fabricLinkDown p lost) s s)
    ∧ (∀ n, s.live = true → portUp s p.toNat = true →
        let s1 := s.setFport p.toNat { f with lstat := bump f.lstat 31 16 (Nat.min (n + 1) 8) }
        ∀ lost, Answers (.linkReplay p ⟨n, lost⟩) s (if 8 ≤ n then linkDown s1 p.toNat (Nat.max 1 lost) else transient s1 .central 0x01 p.toNat n))
    ∧ (∀ far : DevId, s.live = true → flag s.sched.fabcfg 8 = true → flag s.mgmt.fltstat (40 + p.toNat) = false → powered s (fabDomain p.toNat) = true →
        flag f.lstat 0 = false → f.mods ≠ 0 →
        let w := setFld f.lstat 15 4 far.toNat
        ((12 ≤ p.toNat ∨ far.toNat = neighbour s.dev (p.toNat / 2)) → Answers (.fabricLinkUp p far) s (s.setFport p.toNat { f with lstat := setFlag w 0 true }))
        ∧ (p.toNat < 12 → far.toNat ≠ neighbour s.dev (p.toNat / 2) → Answers (.fabricLinkUp p far) s
            (portFault (addLog (s.setFport p.toNat { f with lstat := setFlag w 1 true }) 6 0x0202 p.toNat far.toNat) p.toNat)))
    ∧ (s.live = true → flag s.sched.fabcfg 8 = true → powered s (fabDomain p.toNat) = true → flag f.lstat 0 = false → f.downAt ≠ 0 →
        Answers (.fabricPortRetire p) s (portFault (s.atLeast (f.downAt + 100001)) p.toNat))
    ∧ (s.live = true →
        ∀ (lasting : Bool) (t : SlotId) (lost : Nat),
        (f.mods = 2 → Answers (.moduleDown ⟨.module (.fabric p) lost, lasting, t⟩) s (s.setFport p.toNat { f with mods := 1 }))
        ∧ (f.mods ≤ 1 → Answers (.moduleDown ⟨.module (.fabric p) lost, lasting, t⟩) s (linkDown (s.setFport p.toNat { f with mods := f.mods - 1 }) p.toNat lost))
        ∧ (∀ h : HoofId, h.val < s.part.hoofs → 3 < fld (s.hoof h.val).hlstat 3 1 →
            let n := fld (s.hoof h.val).hlstat 3 1
            Answers (.moduleDown ⟨.module (.hoof h) lost, lasting, t⟩) s (maskFault (s.setHoof h.val { s.hoof h.val with hlstat := setFld (s.hoof h.val).hlstat 3 1 (n - 1) }) .central 0x05 h.val (n - 1) (fun s => s)))
        ∧ (∀ q : HostPort, 4 < (s.hport q.toNat).mods → Answers (.moduleDown ⟨.module (.host q) lost, lasting, t⟩) s
            (maskFault (s.setHport q.toNat { s.hport q.toNat with mods := (s.hport q.toNat).mods - 1 }) .central 0x07 q.toNat ((s.hport q.toNat).mods - 1) (fun s => s)))
        ∧ (∀ u : FaultUnit, (∀ l n, u ≠ .module l n) → Answers (.moduleDown ⟨u, lasting, t⟩) s (unitFault s u lasting t.toNat))
        ∧ (∀ k : BitVec 2, flag s.mgmt.fltstat (12 + k.toNat) = false →
            Answers (.moduleDown ⟨.slice k, false, t⟩) s (transient (markRetried s t.toNat) .central 0x07 k.toNat 0)
            ∧ Answers (.moduleDown ⟨.slice k, true, t⟩) s (sliceFault (markMasked s t.toNat) k.toNat)))

/-- SCRUB, DRAM_REFRESH, PATCH_MOVE_DONE, PARITY_DELTA and FULL_STRIPE_COMPLETE on a stack at work (14_memory_stacks.md R390, 14_memory_stacks.md R393, 14_memory_stacks.md R400, 14_memory_stacks.md R401, 14_memory_stacks.md R404, 15_faults_and_service.md R414). -/
def Obligations.StackServiceEvents : Prop :=
  (∀ (h : HoofId) (ch : BitVec 5) (acc : BitVec 27) (e1 e2 : List (Fin 38 × BitVec 16)) (s : State),
    (stackUp s h.val = true → s.phase = .up → fld (s.hoof h.val).href 15 8 ≠ 0 → acc.toNat < channelAccesses (s.hoof h.val) →
      let s1 := scrubPass s h.val ch.toNat
      let k := s1.hoof h.val
      ((ch.toNat, acc.toNat) ∈ k.scrubs → Answers (.scrub h ch acc e1 e2) s s1)
      ∧ ((ch.toNat, acc.toNat) ∉ k.scrubs → Answers (.scrub h ch acc e1 e2) s
          (readAccess (s1.setHoof h.val { k with scrubs := k.scrubs ++ [(ch.toNat, acc.toNat)] }) none h.val ch.toNat (acc.toNat * 64) (errNums e1) (errNums e2)))
      ∧ ((ch.toNat, acc.toNat) ∉ (s.hoof h.val).scrubs → (s.hoof h.val).ltime - (s.hoof h.val).scrubAt < scrubPeriod (s.hoof h.val) → e1 = [] →
          eccDecode (eccWord s h.val ch.toNat (acc.toNat * 64)) = .clean →
          Answers (.scrub h ch acc e1 e2) s (s.setHoof h.val { s.hoof h.val with scrubs := (s.hoof h.val).scrubs ++ [(ch.toNat, acc.toNat)] })))
    ∧ (stackUp s h.val = false ∨ s.phase ≠ .up → Answers (.scrub h ch acc e1 e2) s s))
  ∧ (∀ (h : HoofId) (ch : BitVec 5) (bank : BitVec 7) (s : State), ∃ t, exec (.dramRefresh h ch bank) s = .next t
      ∧ t = settle s { s with hoofs := t.hoofs } ∧ t.hoof h.val = { s.hoof h.val with refreshed := (t.hoof h.val).refreshed }
      ∧ (∀ g, g ≠ h.val → t.hoof g = s.hoof g) ∧ t.store = s.store ∧ t.dram = s.dram
      ∧ (h.val < s.part.hoofs → (s.hoof h.val).haon = true → (s.hoof h.val).refclk = true → flag (s.hoof h.val).hmem 24 = true → flag (s.hoof h.val).href 1 = false →
          lostStack s h.val = false → flag (s.hoof h.val).href 0 = true → (∃ b, b < 128 ∧ b ≠ bank.toNat ∧ ch.toNat * 128 + b ∉ (s.hoof h.val).refreshed) →
          ch.toNat * 128 + bank.toNat ∈ (t.hoof h.val).refreshed))
  ∧ (∀ (h : HoofId) (ch : BitVec 5) (pa : BitVec 13) (q : Patch) (s : State), patchOf s h.val ch.toNat pa.toNat = some q →
    (stackUp s h.val = true → q.state = 0 → Answers (.patchMoveDone h ch pa) s
        (startMove (setPatch (rebuildPatch s h.val ch.toNat pa.toNat) h.val ch.toNat pa.toNat 1) h.val ch.toNat))
    ∧ (stackUp s h.val = false ∨ q.state ≠ 0 → Answers (.patchMoveDone h ch pa) s s))
  ∧ (∀ (i : Nat) (e : Delta) (s : State), s.deltas[i]? = some e →
    (stackUp s e.hoof = true →
      let s1 := xorLine { s with deltas := s.deltas.eraseIdx i } e.hoof e.ch e.off e.bytes
      Answers (.parityDelta i) s (s1.setHoof e.hoof { s1.hoof e.hoof with parcnt := bump (s1.hoof e.hoof).parcnt 31 0 1 }))
    ∧ (stackUp s e.hoof = false → Answers (.parityDelta i) s s))
  ∧ (∀ (i : Nat) (e : Full) (s : State), s.fulls[i]? = some e → e.complete = true ∨ (∀ o, s.op e.slot = some o → o.phase ≠ .running) →
    (stackUp s e.hoof = true → ∃ t, exec (.fullStripeComplete i) s = .next t ∧ t.fulls = s.fulls.eraseIdx i
      ∧ readBytes t.dram (physKey e.hoof e.ch e.off) 256 = e.parity { s with fulls := s.fulls.eraseIdx i }
      ∧ (e.complete = true → s.deltas = [] → readBytes t.dram (physKey e.hoof e.ch e.off) 256 = (List.range 256).map (fun i => e.bytes.getD i 0))
      ∧ (∀ a, a < physKey e.hoof e.ch e.off ∨ physKey e.hoof e.ch e.off + 256 ≤ a → mget (fun _ => 0) t.dram a = mget (fun _ => 0) s.dram a)
      ∧ t.store = s.store ∧ t.cores = s.cores ∧ (t.hoof e.hoof).parcnt = bump (s.hoof e.hoof).parcnt 63 32 1)
    ∧ (stackUp s e.hoof = false → Answers (.fullStripeComplete i) s s))

/-- HOOF_LINK_TIMEOUT, HOOF_LINK_UP, HOST_RESPONSE_TIMEOUT and LINK_RETRAIN_TIMEOUT follow Tables 15-1 and 15-2 (Table 15-1, Table 15-2, 15_faults_and_service.md R407, 17_ports_and_registers.md R461, 17_ports_and_registers.md R463). -/
def Obligations.LinkTimeoutsRetryThenRetrain : Prop :=
  (∀ (h : HoofId) (t : SlotId) (s : State), s.live = true → h.val < s.part.hoofs →
    let k := s.hoof h.val
    let s1 := s.atLeast (k.linkAt + 2000)
    (k.retrain = false → lostStack s h.val = false → k.resent = false → Answers (.hoofLinkTimeout ⟨h, t⟩) s
        (markRetried (transient (s1.setHoof h.val { k with linkAt := s1.now, resent := true, hlstat := bump k.hlstat 47 32 1 }) .central 0x03 h.val 0) t.toNat))
    ∧ (k.retrain = false → lostStack s h.val = false → k.resent = true → Answers (.hoofLinkTimeout ⟨h, t⟩) s
        (s1.setHoof h.val { k with linkAt := s1.now, resent := false, retrain := true, hlstat := bump (setFlag k.hlstat 0 false) 31 16 1 }))
    ∧ (k.retrain = true → Answers (.hoofLinkUp h) s (s.setHoof h.val { k with retrain := false, resent := false, hlstat := setFlag k.hlstat 0 true })
        ∧ Answers (.linkRetrainTimeout (.hoof h)) s (stackFault ((s.atLeast (k.linkAt + 100000)).setHoof h.val { k with retrain := false }) h.val))
    ∧ (k.retrain = false → Answers (.hoofLinkUp h) s s ∧ Answers (.linkRetrainTimeout (.hoof h)) s s))
  ∧ (∀ (p : HostPort) (s : State), s.live = true →
    let k := s.hport p.toNat
    let s1 := s.atLeast (k.linkAt + 2000)
    (∀ m, k.up = true → k.resent = false → lastResponse s p.toNat = some m → Answers (.hostResponseTimeout p) s
        (markResponse (transient (sendHost (s1.setHport p.toNat { k with linkAt := s1.now, resent := true }) m) .central 0x0A p.toNat 0) m))
    ∧ (k.up = true → k.resent = true → Answers (.hostResponseTimeout p) s
        (s1.setHport p.toNat { k with linkAt := s1.now, resent := false, training := true, up := false, retrain := satAdd 16 k.retrain 1 }))
    ∧ (k.up = false → Answers (.hostResponseTimeout p) s s)
    ∧ (k.training = true → Answers (.linkRetrainTimeout (.host p)) s (failStop ((s.atLeast (k.linkAt + 100000)).setHport p.toNat { k with training := false }) .central 0x07 p.toNat 0)))

/-- REFCLK_LOSS, SUPPLY_FAULT, THERM_ALERT, THERMAL_TRIP and RATE_WINDOW (02_handshake_timing.md R57, 02_handshake_timing.md R58, 16_power_reset_context.md R434, 16_power_reset_context.md R436). -/
def Obligations.ClocksSuppliesAndHeat : Prop :=
  (∀ (s : State), s.phase ≠ .coldReset →
    let c1 := { s with mgmt := { s.mgmt with refclk := false } }
    (s.mgmt.refclk = true → s.failstop = false → Answers (.refclkLoss .central) s (failStop c1 .central 0x0D 0xFFFF 0))
    ∧ (s.mgmt.refclk = true → s.failstop = true → Answers (.refclkLoss .central) s (addLogAt c1 .central 3 0x0D 0xFFFF 0 0 0))
    ∧ (s.mgmt.refclk = false → Answers (.refclkLoss .central) s s)
    ∧ (s.failstop = false → Answers (.supplyFault .central) s (failStop s .central 0x0D 0xFFFF 0))
    ∧ (∀ h : HoofId, h.val < s.part.hoofs → (s.failstop = false → Answers (.supplyFault (.hoof h)) s (stackFault s h.val))
        ∧ ((s.hoof h.val).refclk = true →
           let s1 := s.setHoof h.val { s.hoof h.val with refclk := false }
           (s.failstop = false → lostStack s h.val = false → Answers (.refclkLoss (.hoof h)) s (stackFaultBy s1 (.hoof h) h.val))
           ∧ (s.failstop = false → lostStack s h.val = true → Answers (.refclkLoss (.hoof h)) s (addLogAt s1 (.hoof h) 2 0x04 h.val 0 0 0))
           ∧ (s.failstop = true → Answers (.refclkLoss (.hoof h)) s (addLogAt s1 (.hoof h) 3 0x04 h.val 0 0 0)))
        ∧ ((s.hoof h.val).refclk = false → Answers (.refclkLoss (.hoof h)) s s)))
  ∧ (∀ (d : Die) (c : Byte) (s : State), s.phase ≠ .coldReset →
    let s1 := noteTemp s d c.toNat
    let hot := fld s1.mgmt.therm 7 0
    let s2 := { s1 with mgmt := { s1.mgmt with therm := setFlag s1.mgmt.therm 24 true } }
    (c.toNat < 125 →
      (hot < fld s1.mgmt.therm 23 16 → Answers (.thermAlert d c) s s1)
      ∧ (fld s1.mgmt.therm 23 16 ≤ hot → flag s1.mgmt.therm 25 = false ∨ flag s1.mgmt.therm 24 = true → Answers (.thermAlert d c) s s2)
      ∧ (fld s1.mgmt.therm 23 16 ≤ hot → flag s1.mgmt.therm 25 = true → flag s1.mgmt.therm 24 = false → Answers (.thermAlert d c) s (addLogAt s2 (hotDie s1) 4 0 0xFFFF 0 0 hot))
      ∧ Answers (.thermalTrip d c) s s)
    ∧ (125 ≤ c.toNat → ∀ (i : Instr), i ∈ [Instr.thermAlert d c, Instr.thermalTrip d c] →
        ∃ t, exec i s = .next t ∧ t.mgmt.trip = true ∧ t.failstop = true ∧ (s.failstop = false → Answers i s (thermTrip (thermAlarm s1)))))
  ∧ (∀ (mhz : BitVec 16) (s : State), s.phase ≠ .coldReset →
    let m := s.mgmt
    (m.refclk = false → Answers (.rateWindow .central mhz) s s) ∧ (m.refclk = true → ∃ t, exec (.rateWindow .central mhz) s = .next t ∧ t.mgmt.ltime = (m.ltime / 1000 + 1) * 1000 ∧ fld t.mgmt.rate 15 0 = mhz.toNat
      ∧ fld t.mgmt.rate 47 32 = Nat.max (fld m.rate 47 32) mhz.toNat
      ∧ fld t.mgmt.rate 31 16 = (if m.rated then Nat.min (fld m.rate 31 16) mhz.toNat else mhz.toNat) ∧ t.mgmt.rated = true
      ∧ flag t.mgmt.rate 48 = (flag m.rate 48 || decide (mhz.toNat < fld m.ratelim 15 0)) ∧ t.cores = s.cores ∧ t.store = s.store ∧ t.dram = s.dram))

/-- In fail-stop no instruction begins, nothing is accepted, dispatched, completed or answered on a port (15_faults_and_service.md R423, 15_faults_and_service.md R424). -/
def Obligations.FailStopStandsStill : Prop :=
  ∀ s : State, s.failstop = true →
    (∀ (c : CoreId) (rd rs1 : BitVec 5) (imm : BitVec 16) (w : BitVec 128), Answers (.addi c rd rs1 imm) s s ∧ Answers (.ld c rd rs1 imm) s s ∧ Answers (.st c rd rs1 imm) s s
      ∧ Answers (.engineWord c w) s s ∧ Answers (.brk c) s s ∧ Answers (.pendingTrap c) s s ∧ Answers (.coreStallEnd c) s s)
    ∧ (∀ (i : Instr) (w : OpRow), opRowOf i = some w → Answers i s s)
    ∧ (∀ t : SlotId, Answers (.dispatch t) s s ∧ Answers (.completion t) s s ∧ Answers (.stop t) s s ∧ Answers (.stcl t) s s ∧ Answers (.fenc t) s s)
    ∧ (∀ (p : HostPort) (m : HostMsg), Answers (.word p m) s s ∧ Answers (.write p m) s s ∧ Answers (.read p m) s s)
    ∧ (∀ (p : FabPort) (k : Packet), Answers (.rdreq p k) s s ∧ Answers (.wrreq p k) s s ∧ Answers (.accm p k) s s ∧ Answers (.rply p k) s s ∧ Answers (.beac p k) s s)
    ∧ Answers .stepOpening s s ∧ Answers .beaconSend s s
    ∧ (∀ (x : Fin 8) (f : VecF), Answers (.vadd x f) s s ∧ Answers (.vst x f) s s) ∧ (∀ (t : SlotId) (u : Nat), Answers (.blockRelease t u) s s)

/-- DOMAIN_WAKE, DOMAIN_IDLE_GATE and FUNCTION_DISABLED (16_power_reset_context.md R430, 16_power_reset_context.md R431, 16_power_reset_context.md R433, 16_power_reset_context.md R445). -/
def Obligations.DomainsFollowDemandAndPolicy : Prop :=
  (∀ (d : Domain) (s : State), s.live = true → s.phase = .up → domainHere s d = true →
    (policy s d = 0 → powered s d = false → retiredHalf s d = false → demand s d = true → Answers (.domainWake d) s (noteUse (ungate s d) [d]))
    ∧ (policy s d = 0 → fld s.mgmt.pwrctl 39 32 ≠ 0 → powered s d = true → demand s d = false →
        Answers (.domainIdleGate d) s (gate (s.atLeast ((aget s.mgmt.usedAt d).getD 0 + 100 * fld s.mgmt.pwrctl 39 32)) d))
    ∧ (policy s d ≠ 0 → Answers (.domainWake d) s s ∧ Answers (.domainIdleGate d) s s)
    ∧ (demand s d = false → Answers (.domainWake d) s s) ∧ (demand s d = true → Answers (.domainIdleGate d) s s))
  ∧ (∀ (f : Fin 8) (s : State), s.live = true →
    (fnState s f.val = 1 ∨ fnState s f.val = 2 → fnBusy s f.val = false → Answers (.functionDisabled f) s (applyPolicies (setFn s f.val 3)))
    ∧ (fnBusy s f.val = true → Answers (.functionDisabled f) s s))

/-- RST_N, BRING_UP_COMPLETE and HOOF_TRAINED take the block from reset into service (16_power_reset_context.md R437, 16_power_reset_context.md R440, 16_power_reset_context.md R442, 17_ports_and_registers.md R453, 14_memory_stacks.md R387, Table 16-4). -/
def Obligations.ResetAndBringUp : Prop :=
  (∀ (ns : Nat) (s : State), (ns < 100 → Answers (.rstNAssert ns) s s)
    ∧ (1000 ≤ ns → ∃ t, exec (.rstNAssert ns) s = .next t ∧ t.phase = .coldReset ∧ t.store = [] ∧ t.cores = [] ∧ t.slots = [] ∧ t.steps = []
        ∧ t.strms = State.reset.strms ∧ t.sched = State.reset.sched ∧ t.mgmt = { Mgmt.reset with pwrstat := 0 } ∧ t.hoofs = [] ∧ t.dram = s.dram ∧ t.failstop = false))
  ∧ (∀ s : State, (s.phase = .coldReset → Answers .rstNRelease s
      (let s1 := tapReset s; { s1 with phase := .bringUp, mgmt := { s1.mgmt with pwrstat := 1 } }))
    ∧ (s.phase ≠ .coldReset → Answers .rstNRelease s s)
    ∧ (s.phase = .bringUp → s.failstop = false → Answers (.bringUpComplete []) s (inService s) ∧ (inService s).phase = .up)
    ∧ (s.phase ≠ .bringUp → ∀ l, Answers (.bringUpComplete l) s s))
  ∧ (∀ (h : HoofId) (p : TrainP) (s : State), s.live = true → s.phase = .up → h.val < s.part.hoofs → (s.hoof h.val).hctl = true → trainedOrLost s h.val = false →
    (p.ok = false → Answers (.hoofTrained h p) s (trainingDone (stackFault s h.val)))
    ∧ (p.ok = true → geometryOk p = true → p.badChan = 0 → Answers (.hoofTrained h p) s (trainingDone (s.setHoof h.val { s.hoof h.val with
        hmem := BitVec.ofNat 64 (p.height.toNat + p.dens.toNat * 2 ^ 8 + binOf p * 2 ^ 16 + 2 ^ 24) }))))

/-- WRST_N_ASSERT, WARM_RESET_REMOTE_TIMEOUT, WARM_RESET_IDLE_DONE and WRST_N_RELEASE (16_power_reset_context.md R438, 16_power_reset_context.md R424, 17_ports_and_registers.md R453). -/
def Obligations.WarmResetDrainsThenResets : Prop :=
  (∀ (ns : Nat) (s : State),
    (1000 ≤ ns → s.phase = .up → s.failstop = false →
      let s1 := (List.range 8).foldl (fun s f => abortFn s f) { s with phase := .warmDrain, wrstHeld := true, warmAt := s.now }
      Answers (.wrstNAssert ns) s (abortAll s1))
    ∧ (1000 ≤ ns → (s.phase ≠ .up ∨ s.failstop = true) → Answers (.wrstNAssert ns) s s) ∧ (ns < 100 → Answers (.wrstNAssert ns) s s))
  ∧ (∀ (t : SlotId) (o : Op) (s : State), s.phase = .warmDrain → s.failstop = false → s.fab.orig.any (fun e => e.slot = t.toNat) = true → s.op t.toNat = some o → o.phase = .running →
    Answers (.warmResetRemoteTimeout t) s
      (endOp ((dropOrig (s.atLeast (s.warmAt + 200000)) (fun e => e.slot = t.toNat)).onOp t.toNat (fun o => { o with retried := true })) t.toNat 0x11 (2 ^ 64 - 1)))
  ∧ (∀ s : State,
    (s.phase = .warmDrain → s.failstop = false → (busySlots s).all (fun e => !e.2.inFlight) = true →
      let s1 := warmState (drainParity (s.atLeast (s.warmAt + 40000)))
      (s1.wrstHeld = true → Answers .warmResetIdleDone s s1) ∧ (s1.wrstHeld = false → Answers .warmResetIdleDone s (warmUp s1)))
    ∧ ((busySlots s).all (fun e => !e.2.inFlight) = false → Answers .warmResetIdleDone s s)
    ∧ (s.phase = .warmIdle → s.failstop = false → Answers .wrstNRelease s (warmUp { s with wrstHeld := false }))
    ∧ (s.phase ≠ .warmIdle ∨ s.failstop = true → Answers .wrstNRelease s { s with wrstHeld := false }))

/-- CORE_RUN, CORE_HALT and WAKE on CORECTL of core c (06_instruction_set.md R154, Table 6-6). -/
def Obligations.CoreControlRegister : Prop :=
  ∀ (c : CoreId) (b : BitVec 28) (s : State), s.live = true →
    let k := s.core c.toNat
    (k.running = false → SetsCore (.coreRun c b) s c
        { Core.reset c.toNat with bootpc := b, dfault := k.dfault, running := true, pc := BitVec.ofNat 64 (b.toNat * 4) })
    ∧ (k.running = true → SetsCore (.coreRun c b) s c { k with bootpc := b })
    ∧ (k.running = true → k.async = [] → (k.stall = none ∨ ∃ rd w, k.stall = some (.wait rd w)) →
        SetsCore (.coreHalt c) s c { k with running := false, byHalt := false, halting := false, stall := none })
    ∧ (∀ st, k.running = true → k.stall = some st → (∀ rd w, st ≠ .wait rd w) → SetsCore (.coreHalt c) s c { k with halting := true })
    ∧ (k.running = false → SetsCore (.coreHalt c) s c k)
    ∧ (k.running = false → k.byHalt = true → SetsCore (.wake c) s c { k with running := true, byHalt := false })
    ∧ (k.running = false → k.byHalt = false → SetsCore (.wake c) s c k) ∧ (k.running = true → SetsCore (.wake c) s c k)

/-- FABADMIT of device d clears its absent state, and packets from d are accepted from then on (R378). -/
def Obligations.FabadmitReadmits : Prop :=
  ∀ (d : DevId) (s : State),
    (s.live = true → ∃ t, exec (.fabadmit d) s = .next t ∧ isAbsent t d.toNat = false
      ∧ (∀ k : Packet, k.kind ≠ 0x05 → k.src = d → fromAbsent t k = false) ∧ (∀ k : Packet, k.kind = 0x05 → ownerOf t k = some d.toNat → fromAbsent t k = false)
      ∧ (∀ e, e ≠ d.toNat → isAbsent t e = isAbsent s e) ∧ t = settle s { s with fab := t.fab, sched := t.sched }
      ∧ t = settle s (resendContribs { s with fab := { s.fab with absent := s.fab.absent.filter (fun x => x ≠ d.toNat) } }))
    ∧ (s.live = false → Answers (.fabadmit d) s s)

/-- RATE_CLR, RATE_LOW_CLEAR, DRXTEST_CALL, TOUT_READ and PCLR (02_handshake_timing.md R58, Table 2-6, 05_random_bits.md R142, 11_store_and_streams.md R324, Table 11-11). -/
def Obligations.MonitorTestCallAndPeakRegisters : Prop :=
  ∀ s : State,
    (s.phase ≠ .coldReset →
      Answers (.rateClr .central) s { s with mgmt := { s.mgmt with rate := setFld (setFld s.mgmt.rate 31 16 (fld s.mgmt.rate 15 0)) 47 32 (fld s.mgmt.rate 15 0) } }
      ∧ Answers (.rateLowClear .central) s { s with mgmt := { s.mgmt with rate := setFlag s.mgmt.rate 48 false } })
    ∧ (∀ h : HoofId, s.live = true → hoofThere s h.val = true →
        let r := (s.hoof h.val).rate
        Answers (.rateClr (.hoof h)) s (s.setHoof h.val { s.hoof h.val with rate := setFld (setFld r 31 16 (fld r 15 0)) 47 32 (fld r 15 0) })
        ∧ Answers (.rateLowClear (.hoof h)) s (s.setHoof h.val { s.hoof h.val with rate := setFlag r 48 false }))
    ∧ (∀ v : W64, s.live = true →
        let y := dritex s.sched.tkey.toNat (s.sched.tctr0.toNat + v.toNat * 2 ^ 64)
        Answers (.drxtestCall v) s { s with sched := { s.sched with tctr1 := v, tout0 := BitVec.ofNat 64 y, tout1 := BitVec.ofNat 64 (y / 2 ^ 64), tbusy := true } })
    ∧ (∀ hi : Bool, s.live = true → Answers (.toutRead hi) s { s with sched := { s.sched with tbusy := false } })
    ∧ (s.live = true → ∃ t, exec .pclr s = .next t ∧ t.units.tppeak = tpuse s ∧ t = settle s { s with units := { s.units with tppeak := t.units.tppeak } })

/-- STREAM_OPEN, STREAM_CLOSE, STREAM_RECONFIGURE, ENABLE, DRAIN and ABORT (11_store_and_streams.md R310, 11_store_and_streams.md R314, Table 11-15, 16_power_reset_context.md R445, Table 16-11). -/
def Obligations.StreamAndFunctionCommands : Prop :=
  (∀ (st : StreamId) (img : BitVec 24) (s : State), s.live = true →
    (flag s.sched.strmcmd 63 = true →
      Answers (.streamOpen st img) s (addLog s 4 6 0xFFFF (csrBase + (bSCHED + 0x510))) ∧ Answers (.streamClose st) s (addLog s 4 6 0xFFFF (csrBase + (bSCHED + 0x510)))
      ∧ Answers (.streamReconfigure st img) s (addLog s 4 6 0xFFFF (csrBase + (bSCHED + 0x510))))
    ∧ (flag s.sched.strmcmd 63 = false → ∀ (i : Instr) (op im : Nat),
        (i, op, im) ∈ [(Instr.streamOpen st img, 0, img.toNat), (Instr.streamClose st, 1, 0), (Instr.streamReconfigure st img, 2, img.toNat)] →
        Answers i s (runStrmcmd { s with sched := { s.sched with strmcmd := setFld (setFld (setFld s.sched.strmcmd 19 0 st.toNat) 21 20 op) 47 24 im } })))
  ∧ (∀ (f : Fin 8) (s : State), s.live = true → (∀ g : Fin 8, fld s.sched.fnctl (2 * g.val + 1) (2 * g.val) < 3) → flag s.sched.fnctl 16 = false →
    s.sched.fnctl.toNat < 65536 → ∀ (i : Instr) (c : Nat), (i, c) ∈ [(Instr.enable f, 0), (Instr.drain f, 1), (Instr.abort f, 2)] →
      let w := setFld s.sched.fnctl (2 * f.val + 1) (2 * f.val) c
      let s1 := { s with sched := { s.sched with fnctl := w } }
      Answers i s (applyPolicies (if fld s.sched.fnctl (2 * f.val + 1) (2 * f.val) ≠ c then fnCommand s1 f.val c else s1)))

/-- FABCFG, SLAY, SPACE, HRESV, PWRCTL, VECSTAT, DRSTAT, LSTAT, MLOGPTR, FLTSTAT and THERM writes, and REGISTER_WRITE (00_scope.md R16, 00_scope.md R17, 11_store_and_streams.md R297, 14_memory_stacks.md R394, 15_faults_and_service.md R420, 15_faults_and_service.md R426, 15_faults_and_service.md R428, 16_power_reset_context.md R432, 16_power_reset_context.md R436, 12_gradient_reduction.md R354, 13_fabric.md R383, 09_vector_engine.md R266). -/
def Obligations.ConfigurationWrites : Prop :=
  ∀ (v : W64) (s : State),
    (s.live = true →
      (∀ i : Fin 3, idle s = false → Answers (.slayWrite i v) s (addLog s 4 2 0xFFFF (csrBase + (bSTORE + 8 * i.val))))
      ∧ (∀ i : Fin 3, Answers (.slayWrite i v) s (writeSlay s i.val (2 ^ 64 - 1) v.toNat))
      ∧ (∀ (k : BitVec 6) (b : Bool), idle s = false → Answers (.spaceWrite k b v) s (addLog s 4 2 0xFFFF (csrBase + (bSCHED + 0x800 + 16 * k.toNat + (if b then 8 else 0)))))
      ∧ (∀ (k : BitVec 6) (b : Bool), Answers (.spaceWrite k b v) s (writeSpace s k.toNat b (2 ^ 64 - 1) v.toNat))
      ∧ (∀ h : HoofId, hoofThere s h.val = true → Answers (.hresvWrite h v) s (writeHresv s h.val (2 ^ 64 - 1) v.toNat))
      ∧ Answers (.fabcfgWrite v) s (writeFabcfg s (2 ^ 64 - 1) v.toNat)
      ∧ Answers (.vecstatWrite v) s { s with units := { s.units with vecstat :=
          (let a := if flag v 16 then setFlag s.units.vecstat 16 false else s.units.vecstat; if flag v 17 then setFlag a 17 false else a) } }
      ∧ Answers (.drstatWrite v) s { s with units := { s.units with drstat := if flag v 1 then setFlag s.units.drstat 1 false else s.units.drstat } }
      ∧ (∀ p : FabPort, Answers (.lstatWrite p v) s (s.setFport p.toNat { s.fport p.toNat with
          lstat := if flag v 1 then setFlag (s.fport p.toNat).lstat 1 false else (s.fport p.toNat).lstat })))
    ∧ (s.phase ≠ .coldReset →
      Answers (.pwrctlWrite v) s (writePwrctl s (2 ^ 64 - 1) v.toNat)
      ∧ Answers (.mlogptrWrite v) s { s with mgmt := { s.mgmt with mlogptr :=
          (let a := setFld s.mgmt.mlogptr 26 16 (fld v 26 16); if flag v 32 then setFlag a 32 false else a) } }
      ∧ Answers (.fltstatWrite v) s { s with mgmt := { s.mgmt with fltstat := if flag v 60 then setFlag s.mgmt.fltstat 60 false else s.mgmt.fltstat } }
      ∧ (let a := setFld (setFld s.mgmt.therm 23 16 (fld v 23 16)) 25 25 (fld v 25 25)
         let b := if flag v 24 then setFlag a 24 false else a
         (fld b 7 0 < fld b 23 16 → Answers (.thermWrite v) s { s with mgmt := { s.mgmt with therm := b } })
         ∧ (fld b 23 16 ≤ fld b 7 0 → ∃ t, exec (.thermWrite v) s = .next t ∧ t.mgmt.therm = setFlag b 24 true ∧ t.cores = s.cores ∧ t.store = s.store ∧ t.dram = s.dram)))
    ∧ (∀ off : BitVec 28, (off.toNat % 8 = 0 → csrReach s off.toNat = true → Answers (.registerWrite off v) s (csrWrite s off.toNat (2 ^ 64 - 1) v.toNat))
      ∧ (off.toNat % 8 ≠ 0 → Answers (.registerWrite off v) s s))

/-- Reading a counter register clears exactly its clear-on-read fields (17_ports_and_registers.md R469, 06_instruction_set.md R182, 08_matrix_array.md R239, 09_vector_engine.md R266, 10_graph_operations.md R291, 11_store_and_streams.md R324, 12_gradient_reduction.md R354, 13_fabric.md R383, 14_memory_stacks.md R404, 15_faults_and_service.md R427, 17_ports_and_registers.md R461, 17_ports_and_registers.md R463). -/
def Obligations.CounterReadsClear : Prop :=
  ∀ s : State,
    let c := fun (w : W64) (fs : List (Nat × Nat)) => fs.foldl (fun w f => setFld w f.1 f.2 0) w
    (s.phase ≠ .coldReset → Answers .fltcntRead s { s with mgmt := { s.mgmt with fltcnt := c s.mgmt.fltcnt [(31, 0), (47, 32)] } })
    ∧ (s.live = true →
      Answers .sbstatRead s { s with sched := { s.sched with stale := 0 } }
      ∧ Answers .strmcntRead s { s with sched := { s.sched with strmcnt := c s.sched.strmcnt [(31, 0), (47, 32), (63, 48)] } }
      ∧ Answers .fabcnt0Read s { s with sched := { s.sched with fabcnt0 := c s.sched.fabcnt0 [(15, 0), (31, 16), (47, 32), (63, 48)] } }
      ∧ Answers .fabcnt1Read s { s with sched := { s.sched with fabcnt1 := c s.sched.fabcnt1 [(15, 0), (31, 16), (47, 32), (63, 48)] } }
      ∧ Answers .sholdRead s { s with units := { s.units with shold := c s.units.shold [(31, 0), (63, 32)] } }
      ∧ Answers .arrhsRead s { s with units := { s.units with arrhs := c s.units.arrhs [(31, 0), (63, 32)] } }
      ∧ Answers .arrmacRead s { s with units := { s.units with arrmac := c s.units.arrmac [(31, 0), (63, 32)] } }
      ∧ Answers .shdcnt0Read s { s with units := { s.units with shdcnt0 := c s.units.shdcnt0 [(31, 0), (63, 32)] } }
      ∧ Answers .shdcnt1Read s { s with units := { s.units with shdcnt1 := c s.units.shdcnt1 [(31, 0), (47, 32), (63, 48)] } }
      ∧ Answers .drcntRead s { s with units := { s.units with drcnt := c s.units.drcnt [(15, 0), (31, 16), (47, 32), (63, 48)] } }
      ∧ (∀ p : HostPort, Answers (.hpstatRead p) s (s.setHport p.toNat { s.hport p.toNat with retrain := 0, refuse := 0 }))
      ∧ (∀ p : FabPort, Answers (.lstatRead p) s (s.setFport p.toNat { s.fport p.toNat with lstat := c (s.fport p.toNat).lstat [(31, 16), (47, 32)] }))
      ∧ (∀ h : HoofId, hoofThere s h.val = true →
          let k := s.hoof h.val
          Answers (.grcntRead h) s (s.setHoof h.val { k with grcnt := c k.grcnt [(31, 0), (63, 32)] })
          ∧ Answers (.heccRead h) s (s.setHoof h.val { k with hecc := c k.hecc [(31, 0), (47, 32), (63, 48)] })
          ∧ Answers (.parcntRead h) s (s.setHoof h.val { k with parcnt := c k.parcnt [(31, 0), (63, 32)] })
          ∧ Answers (.hlstatRead h) s (s.setHoof h.val { k with hlstat := c k.hlstat [(31, 16), (47, 32)] })))

/-- The I3C commands: addresses, identification, register reads and writes, results, and every other CCC (17_ports_and_registers.md R464, 17_ports_and_registers.md R465). -/
def Obligations.ManagementPortAnswers : Prop :=
  ∀ s : State, s.phase ≠ .coldReset →
    let P := fun (r : Ports) => { s with ports := r }
    (s.ports.dyn = none →
      (∀ a, Answers (.entdaa a) s (P { s.ports with dyn := some a, i3cOut := (true, beBytes 6 (pid s) ++ [0, 0]) }) ∧ Answers (.setdasa a) s (P { s.ports with dyn := some a, i3cOut := (true, []) })
        ∧ Answers (.setnewda a) s (P { s.ports with i3cOut := (false, []) }))
      ∧ Answers .getpid s (P { s.ports with i3cOut := (false, []) }) ∧ Answers .i3cResultRead s (P { s.ports with i3cOut := (false, []) }))
    ∧ (∀ b, s.ports.dyn = some b →
      (∀ a, Answers (.entdaa a) s (P { s.ports with i3cOut := (false, []) }) ∧ Answers (.setnewda a) s (P { s.ports with dyn := some a, i3cOut := (true, []) }))
      ∧ Answers .getpid s (P { s.ports with i3cOut := (true, beBytes 6 (pid s)) }) ∧ Answers .getbcr s (P { s.ports with i3cOut := (true, [0]) })
      ∧ Answers .getdcr s (P { s.ports with i3cOut := (true, [0]) })
      ∧ (∃ t, exec .getstatus s = .next t ∧ t.ports.i3cOut.1 = true ∧ t.ports.i3cOut.2.length = 2 ∧ t = settle s (P t.ports))
      ∧ (∀ r, s.ports.result = some r → Answers .i3cResultRead s (P { s.ports with result := none, i3cOut := (true, BitVec.ofNat 8 r.1 :: leBytes 8 r.2.toNat) }))
      ∧ (s.ports.result = none → Answers .i3cResultRead s (P { s.ports with i3cOut := (true, 4 :: leBytes 8 0) }))
      ∧ (∀ a : BitVec 56, i3cStatus s a.toNat ≠ 0 → ∀ v, Answers (.i3cReadCommand a) s (P { s.ports with result := some (i3cStatus s a.toNat, 0), i3cOut := (true, []) })
          ∧ Answers (.i3cWriteCommand a v) s (P { s.ports with result := some (i3cStatus s a.toNat, 0), i3cOut := (true, []) }))
      ∧ (∀ a : BitVec 56, i3cStatus s a.toNat = 0 → inCsr a.toNat = false → ∀ v,
          Answers (.i3cReadCommand a) s (P { s.ports with result := some (0, BitVec.ofNat 64 (leNat (readBytes s.store (a.toNat - storeBase) 8))), i3cOut := (true, []) })
          ∧ Answers (.i3cWriteCommand a v) s { s.stWrite (a.toNat - storeBase) (leBytes 8 v.toNat) with ports := { s.ports with result := some (0, 0), i3cOut := (true, []) } }))
    ∧ Answers .rstdaa s (P { s.ports with dyn := none, i3cOut := (true, []) })
    ∧ Answers (.otherCcc true) s (P { s.ports with i3cOut := (false, []) }) ∧ Answers (.otherCcc false) s s

/-- The test access port: IDCODE, SAMPLE/PRELOAD, BYPASS, instruments, and intrusive instructions outside RST_N (17_ports_and_registers.md R466, 17_ports_and_registers.md R467, 17_ports_and_registers.md R468, Table 17-10, Table 17-11). -/
def Obligations.TestAccessPort : Prop :=
  ∀ s : State,
    let P := fun (r : Ports) => { s with ports := r }
    let byp := fun (op : Nat) => (let s1 := addLog s 4 0x0001 0xFFFF op; { s1 with ports := { s1.ports with ir := 0xFF, instr := none } })
    Answers .tapReset s (P { s.ports with ir := 1, instr := none, idout := idcodeOf s }) ∧ Answers .idcode s (P { s.ports with ir := 1, instr := none, idout := idcodeOf s })
    ∧ (s.part = .rlu12 → s.stepping = 0x10 → idcodeOf s = 0x1520C5A3#32)
    ∧ Answers .samplePreload s (P { s.ports with ir := 2, instr := none, bound := boundaryPins s }) ∧ Answers .bypass s (P { s.ports with ir := 0xFF, instr := none })
    ∧ (s.phase = .coldReset → Answers .extest s (P { s.ports with ir := 3, instr := none }) ∧ Answers .clamp s (P { s.ports with ir := 4, instr := none })
        ∧ Answers .highz s (P { s.ports with ir := 5, instr := none }) ∧ ∀ i : BitVec 3, i.toNat < 3 → Answers (.ijtag i) s (P { s.ports with ir := 0x10, instr := some i }))
    ∧ (s.phase ≠ .coldReset → Answers .extest s (byp 3) ∧ Answers .clamp s (byp 4) ∧ Answers .highz s (byp 5)
        ∧ ∀ i : BitVec 3, i.toNat < 3 → Answers (.ijtag i) s (byp 0x10))
    ∧ (∀ i : BitVec 3, 3 ≤ i.toNat → i.toNat < 5 → Answers (.ijtag i) s (P { s.ports with ir := 0x10, instr := some i }))
end

