-- ==== Sys2Proof/Laws/Map.lean ====
section
/-!
SUPPORT. The laws of sparse maps and of byte memories: what a write changes, what it leaves, and that the canonical form is kept.
-/

namespace Sys2Proof.Machine

variable {α : Type}

/-! ### Reads after writes -/

theorem mget_mins_same (d : Nat → α) (m : List (Nat × α)) (k : Nat) (v : α) : mget d (mins m k v) k = v := by
  induction m with
  | nil => simp [mins, mget]
  | cons e m ih =>
    obtain ⟨j, w⟩ := e
    unfold mins
    split_ifs with h1 h2
    · simp [mget]
    · simp [mget]
    · have : j ≠ k := fun h => h2 h.symm
      simp [mget, this, ih]

theorem mget_mins_ne (d : Nat → α) (m : List (Nat × α)) {k i : Nat} (v : α) (h : i ≠ k) : mget d (mins m k v) i = mget d m i := by
  induction m with
  | nil => simp [mins, mget, h.symm]
  | cons e m ih =>
    obtain ⟨j, w⟩ := e
    unfold mins
    split_ifs with h1 h2
    · simp [mget, h.symm]
    · subst h2; simp [mget, h.symm]
    · simp only [mget]; split_ifs <;> simp_all

theorem mget_filter_same (d : Nat → α) (m : List (Nat × α)) (k : Nat) : mget d (m.filter (fun e => e.1 ≠ k)) k = d k := by
  induction m with
  | nil => rfl
  | cons e m ih =>
    obtain ⟨j, w⟩ := e
    by_cases h : j = k
    · simpa [List.filter_cons, h] using ih
    · simp only [ne_eq, List.filter_cons, h, not_false_eq_true, decide_true, if_true, mget, if_false]
      simpa using ih

theorem mget_filter_ne (d : Nat → α) (m : List (Nat × α)) {k i : Nat} (h : i ≠ k) :
    mget d (m.filter (fun e => e.1 ≠ k)) i = mget d m i := by
  induction m with
  | nil => rfl
  | cons e m ih =>
    obtain ⟨j, w⟩ := e
    by_cases hj : j = k
    · subst hj; simpa [List.filter_cons, mget, h.symm] using ih
    · simp only [ne_eq, List.filter_cons, hj, not_false_eq_true, decide_true, if_true, mget]
      split_ifs
      · rfl
      · simpa using ih

/-- A map reads what was written last at a key. -/
theorem mget_mput_same [DecidableEq α] (d : Nat → α) (m : List (Nat × α)) (k : Nat) (v : α) : mget d (mput d m k v) k = v := by
  unfold mput
  split_ifs with h
  · rw [mget_filter_same, h]
  · exact mget_mins_same d m k v

/-- A write leaves every other key. -/
theorem mget_mput_ne [DecidableEq α] (d : Nat → α) (m : List (Nat × α)) {k i : Nat} (v : α) (h : i ≠ k) :
    mget d (mput d m k v) i = mget d m i := by
  unfold mput
  split_ifs
  · exact mget_filter_ne d m h
  · exact mget_mins_ne d m v h

/-- Both cases at once. -/
theorem mget_mput [DecidableEq α] (d : Nat → α) (m : List (Nat × α)) (k i : Nat) (v : α) :
    mget d (mput d m k v) i = if i = k then v else mget d m i := by
  split_ifs with h
  · rw [h, mget_mput_same]
  · exact mget_mput_ne d m v h

/-! ### The canonical form -/

theorem keysAbove_mins {k : Nat} (m : List (Nat × α)) (j : Nat) (v : α) (hk : k < j) (h : keysAbove k m = true) :
    keysAbove k (mins m j v) = true := by
  induction m with
  | nil => simp [mins, keysAbove, hk]
  | cons e m ih =>
    obtain ⟨i, w⟩ := e
    simp only [keysAbove, List.all_cons, Bool.and_eq_true, decide_eq_true_eq] at h
    have ih' := ih (by simpa [keysAbove] using h.2)
    unfold mins
    split_ifs
    · simp only [keysAbove, List.all_cons, Bool.and_eq_true, decide_eq_true_eq]; exact ⟨hk, h.1, h.2⟩
    · simp only [keysAbove, List.all_cons, Bool.and_eq_true, decide_eq_true_eq]; exact ⟨hk, h.2⟩
    · simp only [keysAbove, List.all_cons, Bool.and_eq_true, decide_eq_true_eq]; exact ⟨h.1, by simpa [keysAbove] using ih'⟩

theorem keysAbove_filter {k : Nat} (m : List (Nat × α)) (p : Nat × α → Bool) (h : keysAbove k m = true) :
    keysAbove k (m.filter p) = true := by
  simp only [keysAbove, List.all_eq_true, decide_eq_true_eq] at h ⊢
  intro e he
  exact h e (List.mem_filter.mp he).1

theorem keysAbove_mono {j k : Nat} (m : List (Nat × α)) (hjk : j ≤ k) (h : keysAbove k m = true) : keysAbove j m = true := by
  simp only [keysAbove, List.all_eq_true, decide_eq_true_eq] at h ⊢
  intro e he
  exact lt_of_le_of_lt hjk (h e he)

theorem mwf_mins [DecidableEq α] (d : Nat → α) (m : List (Nat × α)) (k : Nat) (v : α) (hv : v ≠ d k) (h : mwf d m = true) :
    mwf d (mins m k v) = true := by
  induction m with
  | nil => simp [mins, mwf, keysAbove, hv]
  | cons e m ih =>
    obtain ⟨j, w⟩ := e
    simp only [mwf, Bool.and_eq_true, decide_eq_true_eq] at h
    obtain ⟨⟨hw, ha⟩, hm⟩ := h
    unfold mins
    split_ifs with h1 h2
    · have hk : keysAbove k m = true := keysAbove_mono m h1.le ha
      simp only [mwf, Bool.and_eq_true, decide_eq_true_eq]
      refine ⟨⟨hv, ?_⟩, ⟨hw, ha⟩, hm⟩
      simp only [keysAbove, List.all_cons, Bool.and_eq_true, decide_eq_true_eq]
      exact ⟨h1, by simpa [keysAbove] using hk⟩
    · subst h2
      simp only [mwf, Bool.and_eq_true, decide_eq_true_eq]
      exact ⟨⟨hv, ha⟩, hm⟩
    · simp only [mwf, Bool.and_eq_true, decide_eq_true_eq]
      exact ⟨⟨hw, keysAbove_mins m k v (by omega) ha⟩, ih hm⟩

theorem mwf_filter [DecidableEq α] (d : Nat → α) (m : List (Nat × α)) (p : Nat × α → Bool) (h : mwf d m = true) :
    mwf d (m.filter p) = true := by
  induction m with
  | nil => rfl
  | cons e m ih =>
    obtain ⟨j, w⟩ := e
    simp only [mwf, Bool.and_eq_true, decide_eq_true_eq] at h
    rw [List.filter_cons]
    split_ifs
    · simp only [mwf, Bool.and_eq_true, decide_eq_true_eq]
      exact ⟨⟨h.1.1, keysAbove_filter m p h.1.2⟩, ih h.2⟩
    · exact ih h.2

/-- A write keeps the canonical form. -/
theorem mwf_mput [DecidableEq α] (d : Nat → α) (m : List (Nat × α)) (k : Nat) (v : α) (h : mwf d m = true) :
    mwf d (mput d m k v) = true := by
  unfold mput
  split_ifs with hv
  · exact mwf_filter d m _ h
  · exact mwf_mins d m k v hv h

/-! ### Byte memories -/

/-- Writing bytes keeps the canonical form. -/
theorem mwf_writeBytes (m : List (Nat × Byte)) (a : Nat) (bs : List Byte) (h : mwf (fun _ => (0 : Byte)) m = true) :
    mwf (fun _ => (0 : Byte)) (writeBytes m a bs) = true := by
  induction bs generalizing m a with
  | nil => exact h
  | cons b bs ih => exact ih _ _ (mwf_mput _ m a b h)

/-- A byte outside the written ones reads as before. -/
theorem mget_writeBytes_out (m : List (Nat × Byte)) (a : Nat) (bs : List Byte) (i : Nat) (h : i < a ∨ a + bs.length ≤ i) :
    mget (fun _ => (0 : Byte)) (writeBytes m a bs) i = mget (fun _ => 0) m i := by
  induction bs generalizing m a with
  | nil => rfl
  | cons b bs ih =>
    simp only [List.length_cons] at h
    rw [writeBytes, ih _ _ (by omega), mget_mput_ne]
    omega

/-- A written byte reads as written. -/
theorem mget_writeBytes_in (m : List (Nat × Byte)) (a : Nat) (bs : List Byte) (k : Nat) (h : k < bs.length) :
    mget (fun _ => (0 : Byte)) (writeBytes m a bs) (a + k) = bs[k] := by
  induction bs generalizing m a k with
  | nil => simp at h
  | cons b bs ih =>
    rw [writeBytes]
    match k with
    | 0 =>
      rw [mget_writeBytes_out _ _ _ _ (by omega)]
      simpa using mget_mput_same (fun _ => (0 : Byte)) m a b
    | k + 1 =>
      have h' : k < bs.length := by simpa using h
      have e : a + (k + 1) = a + 1 + k := by omega
      rw [e, ih _ _ _ h']
      simp

/-- Reading back what was written. -/
theorem readBytes_writeBytes (m : List (Nat × Byte)) (a : Nat) (bs : List Byte) :
    readBytes (writeBytes m a bs) a bs.length = bs := by
  have key : ∀ (n : Nat) (m' : List (Nat × Byte)) (x : Nat), (readBytes m' x n).length = n := by
    intro n; induction n with
    | zero => intros; rfl
    | succ n ih => intro m' x; simp [readBytes, ih]
  have get : ∀ (n k : Nat) (m' : List (Nat × Byte)) (x : Nat) (hk : k < (readBytes m' x n).length),
      (readBytes m' x n)[k] = mget (fun _ => (0 : Byte)) m' (x + k) := by
    intro n
    induction n with
    | zero => intro k m' x hk; simp [readBytes] at hk
    | succ n ih =>
      intro k m' x hk
      match k with
      | 0 => rfl
      | k + 1 =>
        have e : x + (k + 1) = x + 1 + k := by omega
        simp only [readBytes, List.getElem_cons_succ]
        rw [ih, e]
  apply List.ext_getElem (key _ _ _)
  intro i h1 h2
  rw [get, mget_writeBytes_in m a bs i h2]

end Sys2Proof.Machine
end

