-- ==== Sys2Proof/Laws/State.lean ====
section
/-!
SUPPORT. What the updates of State leave: one lemma per field that an update does not touch, and what an updated piece reads as.
-/

namespace Sys2Proof.Machine.State

variable (s : State)

/-! ### setCore -/

@[simp] theorem setCore_part (c : Nat) (k : Core) : (s.setCore c k).part = s.part := rfl
@[simp] theorem setCore_stepping (c : Nat) (k : Core) : (s.setCore c k).stepping = s.stepping := rfl
@[simp] theorem setCore_phase (c : Nat) (k : Core) : (s.setCore c k).phase = s.phase := rfl
@[simp] theorem setCore_wrstHeld (c : Nat) (k : Core) : (s.setCore c k).wrstHeld = s.wrstHeld := rfl
@[simp] theorem setCore_warmAt (c : Nat) (k : Core) : (s.setCore c k).warmAt = s.warmAt := rfl
@[simp] theorem setCore_pulses (c : Nat) (k : Core) : (s.setCore c k).pulses = s.pulses := rfl
@[simp] theorem setCore_mgmt (c : Nat) (k : Core) : (s.setCore c k).mgmt = s.mgmt := rfl
@[simp] theorem setCore_sched (c : Nat) (k : Core) : (s.setCore c k).sched = s.sched := rfl
@[simp] theorem setCore_units (c : Nat) (k : Core) : (s.setCore c k).units = s.units := rfl
@[simp] theorem setCore_host (c : Nat) (k : Core) : (s.setCore c k).host = s.host := rfl
@[simp] theorem setCore_fab (c : Nat) (k : Core) : (s.setCore c k).fab = s.fab := rfl
@[simp] theorem setCore_ports (c : Nat) (k : Core) : (s.setCore c k).ports = s.ports := rfl
@[simp] theorem setCore_hoofs (c : Nat) (k : Core) : (s.setCore c k).hoofs = s.hoofs := rfl
@[simp] theorem setCore_store (c : Nat) (k : Core) : (s.setCore c k).store = s.store := rfl
@[simp] theorem setCore_dram (c : Nat) (k : Core) : (s.setCore c k).dram = s.dram := rfl
@[simp] theorem setCore_slots (c : Nat) (k : Core) : (s.setCore c k).slots = s.slots := rfl
@[simp] theorem setCore_freeq (c : Nat) (k : Core) : (s.setCore c k).freeq = s.freeq := rfl
@[simp] theorem setCore_strms (c : Nat) (k : Core) : (s.setCore c k).strms = s.strms := rfl
@[simp] theorem setCore_steps (c : Nat) (k : Core) : (s.setCore c k).steps = s.steps := rfl
@[simp] theorem setCore_car (c : Nat) (k : Core) : (s.setCore c k).car = s.car := rfl
@[simp] theorem setCore_tines (c : Nat) (k : Core) : (s.setCore c k).tines = s.tines := rfl
@[simp] theorem setCore_ctxs (c : Nat) (k : Core) : (s.setCore c k).ctxs = s.ctxs := rfl
@[simp] theorem setCore_armed (c : Nat) (k : Core) : (s.setCore c k).armed = s.armed := rfl
@[simp] theorem setCore_deltas (c : Nat) (k : Core) : (s.setCore c k).deltas = s.deltas := rfl
@[simp] theorem setCore_fulls (c : Nat) (k : Core) : (s.setCore c k).fulls = s.fulls := rfl
@[simp] theorem setCore_quiesce (c : Nat) (k : Core) : (s.setCore c k).quiesce = s.quiesce := rfl
@[simp] theorem setCore_pending (c : Nat) (k : Core) : (s.setCore c k).pending = s.pending := rfl

/-! ### setSlot -/

@[simp] theorem setSlot_part (t : Nat) (k : Slot) : (s.setSlot t k).part = s.part := rfl
@[simp] theorem setSlot_stepping (t : Nat) (k : Slot) : (s.setSlot t k).stepping = s.stepping := rfl
@[simp] theorem setSlot_phase (t : Nat) (k : Slot) : (s.setSlot t k).phase = s.phase := rfl
@[simp] theorem setSlot_wrstHeld (t : Nat) (k : Slot) : (s.setSlot t k).wrstHeld = s.wrstHeld := rfl
@[simp] theorem setSlot_warmAt (t : Nat) (k : Slot) : (s.setSlot t k).warmAt = s.warmAt := rfl
@[simp] theorem setSlot_pulses (t : Nat) (k : Slot) : (s.setSlot t k).pulses = s.pulses := rfl
@[simp] theorem setSlot_mgmt (t : Nat) (k : Slot) : (s.setSlot t k).mgmt = s.mgmt := rfl
@[simp] theorem setSlot_sched (t : Nat) (k : Slot) : (s.setSlot t k).sched = s.sched := rfl
@[simp] theorem setSlot_units (t : Nat) (k : Slot) : (s.setSlot t k).units = s.units := rfl
@[simp] theorem setSlot_host (t : Nat) (k : Slot) : (s.setSlot t k).host = s.host := rfl
@[simp] theorem setSlot_fab (t : Nat) (k : Slot) : (s.setSlot t k).fab = s.fab := rfl
@[simp] theorem setSlot_ports (t : Nat) (k : Slot) : (s.setSlot t k).ports = s.ports := rfl
@[simp] theorem setSlot_hoofs (t : Nat) (k : Slot) : (s.setSlot t k).hoofs = s.hoofs := rfl
@[simp] theorem setSlot_cores (t : Nat) (k : Slot) : (s.setSlot t k).cores = s.cores := rfl
@[simp] theorem setSlot_store (t : Nat) (k : Slot) : (s.setSlot t k).store = s.store := rfl
@[simp] theorem setSlot_dram (t : Nat) (k : Slot) : (s.setSlot t k).dram = s.dram := rfl
@[simp] theorem setSlot_freeq (t : Nat) (k : Slot) : (s.setSlot t k).freeq = s.freeq := rfl
@[simp] theorem setSlot_strms (t : Nat) (k : Slot) : (s.setSlot t k).strms = s.strms := rfl
@[simp] theorem setSlot_steps (t : Nat) (k : Slot) : (s.setSlot t k).steps = s.steps := rfl
@[simp] theorem setSlot_car (t : Nat) (k : Slot) : (s.setSlot t k).car = s.car := rfl
@[simp] theorem setSlot_tines (t : Nat) (k : Slot) : (s.setSlot t k).tines = s.tines := rfl
@[simp] theorem setSlot_ctxs (t : Nat) (k : Slot) : (s.setSlot t k).ctxs = s.ctxs := rfl
@[simp] theorem setSlot_armed (t : Nat) (k : Slot) : (s.setSlot t k).armed = s.armed := rfl
@[simp] theorem setSlot_deltas (t : Nat) (k : Slot) : (s.setSlot t k).deltas = s.deltas := rfl
@[simp] theorem setSlot_fulls (t : Nat) (k : Slot) : (s.setSlot t k).fulls = s.fulls := rfl
@[simp] theorem setSlot_quiesce (t : Nat) (k : Slot) : (s.setSlot t k).quiesce = s.quiesce := rfl
@[simp] theorem setSlot_pending (t : Nat) (k : Slot) : (s.setSlot t k).pending = s.pending := rfl

/-! ### setHoof -/

@[simp] theorem setHoof_part (h : Nat) (k : Hoof) : (s.setHoof h k).part = s.part := rfl
@[simp] theorem setHoof_stepping (h : Nat) (k : Hoof) : (s.setHoof h k).stepping = s.stepping := rfl
@[simp] theorem setHoof_phase (h : Nat) (k : Hoof) : (s.setHoof h k).phase = s.phase := rfl
@[simp] theorem setHoof_wrstHeld (h : Nat) (k : Hoof) : (s.setHoof h k).wrstHeld = s.wrstHeld := rfl
@[simp] theorem setHoof_warmAt (h : Nat) (k : Hoof) : (s.setHoof h k).warmAt = s.warmAt := rfl
@[simp] theorem setHoof_pulses (h : Nat) (k : Hoof) : (s.setHoof h k).pulses = s.pulses := rfl
@[simp] theorem setHoof_mgmt (h : Nat) (k : Hoof) : (s.setHoof h k).mgmt = s.mgmt := rfl
@[simp] theorem setHoof_sched (h : Nat) (k : Hoof) : (s.setHoof h k).sched = s.sched := rfl
@[simp] theorem setHoof_units (h : Nat) (k : Hoof) : (s.setHoof h k).units = s.units := rfl
@[simp] theorem setHoof_host (h : Nat) (k : Hoof) : (s.setHoof h k).host = s.host := rfl
@[simp] theorem setHoof_fab (h : Nat) (k : Hoof) : (s.setHoof h k).fab = s.fab := rfl
@[simp] theorem setHoof_ports (h : Nat) (k : Hoof) : (s.setHoof h k).ports = s.ports := rfl
@[simp] theorem setHoof_cores (h : Nat) (k : Hoof) : (s.setHoof h k).cores = s.cores := rfl
@[simp] theorem setHoof_store (h : Nat) (k : Hoof) : (s.setHoof h k).store = s.store := rfl
@[simp] theorem setHoof_dram (h : Nat) (k : Hoof) : (s.setHoof h k).dram = s.dram := rfl
@[simp] theorem setHoof_slots (h : Nat) (k : Hoof) : (s.setHoof h k).slots = s.slots := rfl
@[simp] theorem setHoof_freeq (h : Nat) (k : Hoof) : (s.setHoof h k).freeq = s.freeq := rfl
@[simp] theorem setHoof_strms (h : Nat) (k : Hoof) : (s.setHoof h k).strms = s.strms := rfl
@[simp] theorem setHoof_steps (h : Nat) (k : Hoof) : (s.setHoof h k).steps = s.steps := rfl
@[simp] theorem setHoof_car (h : Nat) (k : Hoof) : (s.setHoof h k).car = s.car := rfl
@[simp] theorem setHoof_tines (h : Nat) (k : Hoof) : (s.setHoof h k).tines = s.tines := rfl
@[simp] theorem setHoof_ctxs (h : Nat) (k : Hoof) : (s.setHoof h k).ctxs = s.ctxs := rfl
@[simp] theorem setHoof_armed (h : Nat) (k : Hoof) : (s.setHoof h k).armed = s.armed := rfl
@[simp] theorem setHoof_deltas (h : Nat) (k : Hoof) : (s.setHoof h k).deltas = s.deltas := rfl
@[simp] theorem setHoof_fulls (h : Nat) (k : Hoof) : (s.setHoof h k).fulls = s.fulls := rfl
@[simp] theorem setHoof_quiesce (h : Nat) (k : Hoof) : (s.setHoof h k).quiesce = s.quiesce := rfl
@[simp] theorem setHoof_pending (h : Nat) (k : Hoof) : (s.setHoof h k).pending = s.pending := rfl

/-! ### setHport -/

@[simp] theorem setHport_part (p : Nat) (k : HPort) : (s.setHport p k).part = s.part := rfl
@[simp] theorem setHport_stepping (p : Nat) (k : HPort) : (s.setHport p k).stepping = s.stepping := rfl
@[simp] theorem setHport_phase (p : Nat) (k : HPort) : (s.setHport p k).phase = s.phase := rfl
@[simp] theorem setHport_wrstHeld (p : Nat) (k : HPort) : (s.setHport p k).wrstHeld = s.wrstHeld := rfl
@[simp] theorem setHport_warmAt (p : Nat) (k : HPort) : (s.setHport p k).warmAt = s.warmAt := rfl
@[simp] theorem setHport_pulses (p : Nat) (k : HPort) : (s.setHport p k).pulses = s.pulses := rfl
@[simp] theorem setHport_mgmt (p : Nat) (k : HPort) : (s.setHport p k).mgmt = s.mgmt := rfl
@[simp] theorem setHport_sched (p : Nat) (k : HPort) : (s.setHport p k).sched = s.sched := rfl
@[simp] theorem setHport_units (p : Nat) (k : HPort) : (s.setHport p k).units = s.units := rfl
@[simp] theorem setHport_fab (p : Nat) (k : HPort) : (s.setHport p k).fab = s.fab := rfl
@[simp] theorem setHport_ports (p : Nat) (k : HPort) : (s.setHport p k).ports = s.ports := rfl
@[simp] theorem setHport_hoofs (p : Nat) (k : HPort) : (s.setHport p k).hoofs = s.hoofs := rfl
@[simp] theorem setHport_cores (p : Nat) (k : HPort) : (s.setHport p k).cores = s.cores := rfl
@[simp] theorem setHport_store (p : Nat) (k : HPort) : (s.setHport p k).store = s.store := rfl
@[simp] theorem setHport_dram (p : Nat) (k : HPort) : (s.setHport p k).dram = s.dram := rfl
@[simp] theorem setHport_slots (p : Nat) (k : HPort) : (s.setHport p k).slots = s.slots := rfl
@[simp] theorem setHport_freeq (p : Nat) (k : HPort) : (s.setHport p k).freeq = s.freeq := rfl
@[simp] theorem setHport_strms (p : Nat) (k : HPort) : (s.setHport p k).strms = s.strms := rfl
@[simp] theorem setHport_steps (p : Nat) (k : HPort) : (s.setHport p k).steps = s.steps := rfl
@[simp] theorem setHport_car (p : Nat) (k : HPort) : (s.setHport p k).car = s.car := rfl
@[simp] theorem setHport_tines (p : Nat) (k : HPort) : (s.setHport p k).tines = s.tines := rfl
@[simp] theorem setHport_ctxs (p : Nat) (k : HPort) : (s.setHport p k).ctxs = s.ctxs := rfl
@[simp] theorem setHport_armed (p : Nat) (k : HPort) : (s.setHport p k).armed = s.armed := rfl
@[simp] theorem setHport_deltas (p : Nat) (k : HPort) : (s.setHport p k).deltas = s.deltas := rfl
@[simp] theorem setHport_fulls (p : Nat) (k : HPort) : (s.setHport p k).fulls = s.fulls := rfl
@[simp] theorem setHport_quiesce (p : Nat) (k : HPort) : (s.setHport p k).quiesce = s.quiesce := rfl
@[simp] theorem setHport_pending (p : Nat) (k : HPort) : (s.setHport p k).pending = s.pending := rfl

/-! ### setFport -/

@[simp] theorem setFport_part (p : Nat) (k : FPort) : (s.setFport p k).part = s.part := rfl
@[simp] theorem setFport_stepping (p : Nat) (k : FPort) : (s.setFport p k).stepping = s.stepping := rfl
@[simp] theorem setFport_phase (p : Nat) (k : FPort) : (s.setFport p k).phase = s.phase := rfl
@[simp] theorem setFport_wrstHeld (p : Nat) (k : FPort) : (s.setFport p k).wrstHeld = s.wrstHeld := rfl
@[simp] theorem setFport_warmAt (p : Nat) (k : FPort) : (s.setFport p k).warmAt = s.warmAt := rfl
@[simp] theorem setFport_pulses (p : Nat) (k : FPort) : (s.setFport p k).pulses = s.pulses := rfl
@[simp] theorem setFport_mgmt (p : Nat) (k : FPort) : (s.setFport p k).mgmt = s.mgmt := rfl
@[simp] theorem setFport_sched (p : Nat) (k : FPort) : (s.setFport p k).sched = s.sched := rfl
@[simp] theorem setFport_units (p : Nat) (k : FPort) : (s.setFport p k).units = s.units := rfl
@[simp] theorem setFport_host (p : Nat) (k : FPort) : (s.setFport p k).host = s.host := rfl
@[simp] theorem setFport_ports (p : Nat) (k : FPort) : (s.setFport p k).ports = s.ports := rfl
@[simp] theorem setFport_hoofs (p : Nat) (k : FPort) : (s.setFport p k).hoofs = s.hoofs := rfl
@[simp] theorem setFport_cores (p : Nat) (k : FPort) : (s.setFport p k).cores = s.cores := rfl
@[simp] theorem setFport_store (p : Nat) (k : FPort) : (s.setFport p k).store = s.store := rfl
@[simp] theorem setFport_dram (p : Nat) (k : FPort) : (s.setFport p k).dram = s.dram := rfl
@[simp] theorem setFport_slots (p : Nat) (k : FPort) : (s.setFport p k).slots = s.slots := rfl
@[simp] theorem setFport_freeq (p : Nat) (k : FPort) : (s.setFport p k).freeq = s.freeq := rfl
@[simp] theorem setFport_strms (p : Nat) (k : FPort) : (s.setFport p k).strms = s.strms := rfl
@[simp] theorem setFport_steps (p : Nat) (k : FPort) : (s.setFport p k).steps = s.steps := rfl
@[simp] theorem setFport_car (p : Nat) (k : FPort) : (s.setFport p k).car = s.car := rfl
@[simp] theorem setFport_tines (p : Nat) (k : FPort) : (s.setFport p k).tines = s.tines := rfl
@[simp] theorem setFport_ctxs (p : Nat) (k : FPort) : (s.setFport p k).ctxs = s.ctxs := rfl
@[simp] theorem setFport_armed (p : Nat) (k : FPort) : (s.setFport p k).armed = s.armed := rfl
@[simp] theorem setFport_deltas (p : Nat) (k : FPort) : (s.setFport p k).deltas = s.deltas := rfl
@[simp] theorem setFport_fulls (p : Nat) (k : FPort) : (s.setFport p k).fulls = s.fulls := rfl
@[simp] theorem setFport_quiesce (p : Nat) (k : FPort) : (s.setFport p k).quiesce = s.quiesce := rfl
@[simp] theorem setFport_pending (p : Nat) (k : FPort) : (s.setFport p k).pending = s.pending := rfl

/-! ### setStrm -/

@[simp] theorem setStrm_part (n : Nat) (k : Strm) : (s.setStrm n k).part = s.part := rfl
@[simp] theorem setStrm_stepping (n : Nat) (k : Strm) : (s.setStrm n k).stepping = s.stepping := rfl
@[simp] theorem setStrm_phase (n : Nat) (k : Strm) : (s.setStrm n k).phase = s.phase := rfl
@[simp] theorem setStrm_wrstHeld (n : Nat) (k : Strm) : (s.setStrm n k).wrstHeld = s.wrstHeld := rfl
@[simp] theorem setStrm_warmAt (n : Nat) (k : Strm) : (s.setStrm n k).warmAt = s.warmAt := rfl
@[simp] theorem setStrm_pulses (n : Nat) (k : Strm) : (s.setStrm n k).pulses = s.pulses := rfl
@[simp] theorem setStrm_mgmt (n : Nat) (k : Strm) : (s.setStrm n k).mgmt = s.mgmt := rfl
@[simp] theorem setStrm_sched (n : Nat) (k : Strm) : (s.setStrm n k).sched = s.sched := rfl
@[simp] theorem setStrm_units (n : Nat) (k : Strm) : (s.setStrm n k).units = s.units := rfl
@[simp] theorem setStrm_host (n : Nat) (k : Strm) : (s.setStrm n k).host = s.host := rfl
@[simp] theorem setStrm_fab (n : Nat) (k : Strm) : (s.setStrm n k).fab = s.fab := rfl
@[simp] theorem setStrm_ports (n : Nat) (k : Strm) : (s.setStrm n k).ports = s.ports := rfl
@[simp] theorem setStrm_hoofs (n : Nat) (k : Strm) : (s.setStrm n k).hoofs = s.hoofs := rfl
@[simp] theorem setStrm_cores (n : Nat) (k : Strm) : (s.setStrm n k).cores = s.cores := rfl
@[simp] theorem setStrm_store (n : Nat) (k : Strm) : (s.setStrm n k).store = s.store := rfl
@[simp] theorem setStrm_dram (n : Nat) (k : Strm) : (s.setStrm n k).dram = s.dram := rfl
@[simp] theorem setStrm_slots (n : Nat) (k : Strm) : (s.setStrm n k).slots = s.slots := rfl
@[simp] theorem setStrm_freeq (n : Nat) (k : Strm) : (s.setStrm n k).freeq = s.freeq := rfl
@[simp] theorem setStrm_steps (n : Nat) (k : Strm) : (s.setStrm n k).steps = s.steps := rfl
@[simp] theorem setStrm_car (n : Nat) (k : Strm) : (s.setStrm n k).car = s.car := rfl
@[simp] theorem setStrm_tines (n : Nat) (k : Strm) : (s.setStrm n k).tines = s.tines := rfl
@[simp] theorem setStrm_ctxs (n : Nat) (k : Strm) : (s.setStrm n k).ctxs = s.ctxs := rfl
@[simp] theorem setStrm_armed (n : Nat) (k : Strm) : (s.setStrm n k).armed = s.armed := rfl
@[simp] theorem setStrm_deltas (n : Nat) (k : Strm) : (s.setStrm n k).deltas = s.deltas := rfl
@[simp] theorem setStrm_fulls (n : Nat) (k : Strm) : (s.setStrm n k).fulls = s.fulls := rfl
@[simp] theorem setStrm_quiesce (n : Nat) (k : Strm) : (s.setStrm n k).quiesce = s.quiesce := rfl
@[simp] theorem setStrm_pending (n : Nat) (k : Strm) : (s.setStrm n k).pending = s.pending := rfl

/-! ### setOp -/

@[simp] theorem setOp_part (t : Nat) (o : Op) : (s.setOp t o).part = s.part := rfl
@[simp] theorem setOp_stepping (t : Nat) (o : Op) : (s.setOp t o).stepping = s.stepping := rfl
@[simp] theorem setOp_phase (t : Nat) (o : Op) : (s.setOp t o).phase = s.phase := rfl
@[simp] theorem setOp_wrstHeld (t : Nat) (o : Op) : (s.setOp t o).wrstHeld = s.wrstHeld := rfl
@[simp] theorem setOp_warmAt (t : Nat) (o : Op) : (s.setOp t o).warmAt = s.warmAt := rfl
@[simp] theorem setOp_pulses (t : Nat) (o : Op) : (s.setOp t o).pulses = s.pulses := rfl
@[simp] theorem setOp_mgmt (t : Nat) (o : Op) : (s.setOp t o).mgmt = s.mgmt := rfl
@[simp] theorem setOp_sched (t : Nat) (o : Op) : (s.setOp t o).sched = s.sched := rfl
@[simp] theorem setOp_units (t : Nat) (o : Op) : (s.setOp t o).units = s.units := rfl
@[simp] theorem setOp_host (t : Nat) (o : Op) : (s.setOp t o).host = s.host := rfl
@[simp] theorem setOp_fab (t : Nat) (o : Op) : (s.setOp t o).fab = s.fab := rfl
@[simp] theorem setOp_ports (t : Nat) (o : Op) : (s.setOp t o).ports = s.ports := rfl
@[simp] theorem setOp_hoofs (t : Nat) (o : Op) : (s.setOp t o).hoofs = s.hoofs := rfl
@[simp] theorem setOp_cores (t : Nat) (o : Op) : (s.setOp t o).cores = s.cores := rfl
@[simp] theorem setOp_store (t : Nat) (o : Op) : (s.setOp t o).store = s.store := rfl
@[simp] theorem setOp_dram (t : Nat) (o : Op) : (s.setOp t o).dram = s.dram := rfl
@[simp] theorem setOp_freeq (t : Nat) (o : Op) : (s.setOp t o).freeq = s.freeq := rfl
@[simp] theorem setOp_strms (t : Nat) (o : Op) : (s.setOp t o).strms = s.strms := rfl
@[simp] theorem setOp_steps (t : Nat) (o : Op) : (s.setOp t o).steps = s.steps := rfl
@[simp] theorem setOp_car (t : Nat) (o : Op) : (s.setOp t o).car = s.car := rfl
@[simp] theorem setOp_tines (t : Nat) (o : Op) : (s.setOp t o).tines = s.tines := rfl
@[simp] theorem setOp_ctxs (t : Nat) (o : Op) : (s.setOp t o).ctxs = s.ctxs := rfl
@[simp] theorem setOp_armed (t : Nat) (o : Op) : (s.setOp t o).armed = s.armed := rfl
@[simp] theorem setOp_deltas (t : Nat) (o : Op) : (s.setOp t o).deltas = s.deltas := rfl
@[simp] theorem setOp_fulls (t : Nat) (o : Op) : (s.setOp t o).fulls = s.fulls := rfl
@[simp] theorem setOp_quiesce (t : Nat) (o : Op) : (s.setOp t o).quiesce = s.quiesce := rfl
@[simp] theorem setOp_pending (t : Nat) (o : Op) : (s.setOp t o).pending = s.pending := rfl

/-! ### onStep -/

@[simp] theorem onStep_part (n : Nat) (f : StepSt → StepSt) : (s.onStep n f).part = s.part := rfl
@[simp] theorem onStep_stepping (n : Nat) (f : StepSt → StepSt) : (s.onStep n f).stepping = s.stepping := rfl
@[simp] theorem onStep_phase (n : Nat) (f : StepSt → StepSt) : (s.onStep n f).phase = s.phase := rfl
@[simp] theorem onStep_wrstHeld (n : Nat) (f : StepSt → StepSt) : (s.onStep n f).wrstHeld = s.wrstHeld := rfl
@[simp] theorem onStep_warmAt (n : Nat) (f : StepSt → StepSt) : (s.onStep n f).warmAt = s.warmAt := rfl
@[simp] theorem onStep_pulses (n : Nat) (f : StepSt → StepSt) : (s.onStep n f).pulses = s.pulses := rfl
@[simp] theorem onStep_mgmt (n : Nat) (f : StepSt → StepSt) : (s.onStep n f).mgmt = s.mgmt := rfl
@[simp] theorem onStep_sched (n : Nat) (f : StepSt → StepSt) : (s.onStep n f).sched = s.sched := rfl
@[simp] theorem onStep_units (n : Nat) (f : StepSt → StepSt) : (s.onStep n f).units = s.units := rfl
@[simp] theorem onStep_host (n : Nat) (f : StepSt → StepSt) : (s.onStep n f).host = s.host := rfl
@[simp] theorem onStep_fab (n : Nat) (f : StepSt → StepSt) : (s.onStep n f).fab = s.fab := rfl
@[simp] theorem onStep_ports (n : Nat) (f : StepSt → StepSt) : (s.onStep n f).ports = s.ports := rfl
@[simp] theorem onStep_hoofs (n : Nat) (f : StepSt → StepSt) : (s.onStep n f).hoofs = s.hoofs := rfl
@[simp] theorem onStep_cores (n : Nat) (f : StepSt → StepSt) : (s.onStep n f).cores = s.cores := rfl
@[simp] theorem onStep_store (n : Nat) (f : StepSt → StepSt) : (s.onStep n f).store = s.store := rfl
@[simp] theorem onStep_dram (n : Nat) (f : StepSt → StepSt) : (s.onStep n f).dram = s.dram := rfl
@[simp] theorem onStep_slots (n : Nat) (f : StepSt → StepSt) : (s.onStep n f).slots = s.slots := rfl
@[simp] theorem onStep_freeq (n : Nat) (f : StepSt → StepSt) : (s.onStep n f).freeq = s.freeq := rfl
@[simp] theorem onStep_strms (n : Nat) (f : StepSt → StepSt) : (s.onStep n f).strms = s.strms := rfl
@[simp] theorem onStep_car (n : Nat) (f : StepSt → StepSt) : (s.onStep n f).car = s.car := rfl
@[simp] theorem onStep_tines (n : Nat) (f : StepSt → StepSt) : (s.onStep n f).tines = s.tines := rfl
@[simp] theorem onStep_ctxs (n : Nat) (f : StepSt → StepSt) : (s.onStep n f).ctxs = s.ctxs := rfl
@[simp] theorem onStep_armed (n : Nat) (f : StepSt → StepSt) : (s.onStep n f).armed = s.armed := rfl
@[simp] theorem onStep_deltas (n : Nat) (f : StepSt → StepSt) : (s.onStep n f).deltas = s.deltas := rfl
@[simp] theorem onStep_fulls (n : Nat) (f : StepSt → StepSt) : (s.onStep n f).fulls = s.fulls := rfl
@[simp] theorem onStep_quiesce (n : Nat) (f : StepSt → StepSt) : (s.onStep n f).quiesce = s.quiesce := rfl
@[simp] theorem onStep_pending (n : Nat) (f : StepSt → StepSt) : (s.onStep n f).pending = s.pending := rfl

/-! ### setVelvet -/

@[simp] theorem setVelvet_part (j : Nat) (v : Velvet) : (s.setVelvet j v).part = s.part := by simp only [setVelvet]
@[simp] theorem setVelvet_stepping (j : Nat) (v : Velvet) : (s.setVelvet j v).stepping = s.stepping := by simp only [setVelvet]
@[simp] theorem setVelvet_phase (j : Nat) (v : Velvet) : (s.setVelvet j v).phase = s.phase := by simp only [setVelvet]
@[simp] theorem setVelvet_wrstHeld (j : Nat) (v : Velvet) : (s.setVelvet j v).wrstHeld = s.wrstHeld := by simp only [setVelvet]
@[simp] theorem setVelvet_warmAt (j : Nat) (v : Velvet) : (s.setVelvet j v).warmAt = s.warmAt := by simp only [setVelvet]
@[simp] theorem setVelvet_pulses (j : Nat) (v : Velvet) : (s.setVelvet j v).pulses = s.pulses := by simp only [setVelvet]
@[simp] theorem setVelvet_mgmt (j : Nat) (v : Velvet) : (s.setVelvet j v).mgmt = s.mgmt := by simp only [setVelvet]
@[simp] theorem setVelvet_sched (j : Nat) (v : Velvet) : (s.setVelvet j v).sched = s.sched := by simp only [setVelvet]
@[simp] theorem setVelvet_units (j : Nat) (v : Velvet) : (s.setVelvet j v).units = s.units := by simp only [setVelvet]
@[simp] theorem setVelvet_host (j : Nat) (v : Velvet) : (s.setVelvet j v).host = s.host := by simp only [setVelvet]
@[simp] theorem setVelvet_fab (j : Nat) (v : Velvet) : (s.setVelvet j v).fab = s.fab := by simp only [setVelvet]
@[simp] theorem setVelvet_ports (j : Nat) (v : Velvet) : (s.setVelvet j v).ports = s.ports := by simp only [setVelvet]
@[simp] theorem setVelvet_hoofs (j : Nat) (v : Velvet) : (s.setVelvet j v).hoofs = s.hoofs := by simp only [setVelvet]
@[simp] theorem setVelvet_cores (j : Nat) (v : Velvet) : (s.setVelvet j v).cores = s.cores := by simp only [setVelvet]
@[simp] theorem setVelvet_dram (j : Nat) (v : Velvet) : (s.setVelvet j v).dram = s.dram := by simp only [setVelvet]
@[simp] theorem setVelvet_slots (j : Nat) (v : Velvet) : (s.setVelvet j v).slots = s.slots := by simp only [setVelvet]
@[simp] theorem setVelvet_freeq (j : Nat) (v : Velvet) : (s.setVelvet j v).freeq = s.freeq := by simp only [setVelvet]
@[simp] theorem setVelvet_strms (j : Nat) (v : Velvet) : (s.setVelvet j v).strms = s.strms := by simp only [setVelvet]
@[simp] theorem setVelvet_steps (j : Nat) (v : Velvet) : (s.setVelvet j v).steps = s.steps := by simp only [setVelvet]
@[simp] theorem setVelvet_car (j : Nat) (v : Velvet) : (s.setVelvet j v).car = s.car := by simp only [setVelvet]
@[simp] theorem setVelvet_tines (j : Nat) (v : Velvet) : (s.setVelvet j v).tines = s.tines := by simp only [setVelvet]
@[simp] theorem setVelvet_ctxs (j : Nat) (v : Velvet) : (s.setVelvet j v).ctxs = s.ctxs := by simp only [setVelvet]
@[simp] theorem setVelvet_armed (j : Nat) (v : Velvet) : (s.setVelvet j v).armed = s.armed := by simp only [setVelvet]
@[simp] theorem setVelvet_deltas (j : Nat) (v : Velvet) : (s.setVelvet j v).deltas = s.deltas := by simp only [setVelvet]
@[simp] theorem setVelvet_fulls (j : Nat) (v : Velvet) : (s.setVelvet j v).fulls = s.fulls := by simp only [setVelvet]
@[simp] theorem setVelvet_quiesce (j : Nat) (v : Velvet) : (s.setVelvet j v).quiesce = s.quiesce := by simp only [setVelvet]
@[simp] theorem setVelvet_pending (j : Nat) (v : Velvet) : (s.setVelvet j v).pending = s.pending := by simp only [setVelvet]

/-! ### atLeast -/

@[simp] theorem atLeast_part (t : Nat) : (s.atLeast t).part = s.part := rfl
@[simp] theorem atLeast_stepping (t : Nat) : (s.atLeast t).stepping = s.stepping := rfl
@[simp] theorem atLeast_phase (t : Nat) : (s.atLeast t).phase = s.phase := rfl
@[simp] theorem atLeast_wrstHeld (t : Nat) : (s.atLeast t).wrstHeld = s.wrstHeld := rfl
@[simp] theorem atLeast_warmAt (t : Nat) : (s.atLeast t).warmAt = s.warmAt := rfl
@[simp] theorem atLeast_pulses (t : Nat) : (s.atLeast t).pulses = s.pulses := rfl
@[simp] theorem atLeast_sched (t : Nat) : (s.atLeast t).sched = s.sched := rfl
@[simp] theorem atLeast_units (t : Nat) : (s.atLeast t).units = s.units := rfl
@[simp] theorem atLeast_host (t : Nat) : (s.atLeast t).host = s.host := rfl
@[simp] theorem atLeast_fab (t : Nat) : (s.atLeast t).fab = s.fab := rfl
@[simp] theorem atLeast_ports (t : Nat) : (s.atLeast t).ports = s.ports := rfl
@[simp] theorem atLeast_hoofs (t : Nat) : (s.atLeast t).hoofs = s.hoofs := rfl
@[simp] theorem atLeast_cores (t : Nat) : (s.atLeast t).cores = s.cores := rfl
@[simp] theorem atLeast_store (t : Nat) : (s.atLeast t).store = s.store := rfl
@[simp] theorem atLeast_dram (t : Nat) : (s.atLeast t).dram = s.dram := rfl
@[simp] theorem atLeast_slots (t : Nat) : (s.atLeast t).slots = s.slots := rfl
@[simp] theorem atLeast_freeq (t : Nat) : (s.atLeast t).freeq = s.freeq := rfl
@[simp] theorem atLeast_strms (t : Nat) : (s.atLeast t).strms = s.strms := rfl
@[simp] theorem atLeast_steps (t : Nat) : (s.atLeast t).steps = s.steps := rfl
@[simp] theorem atLeast_car (t : Nat) : (s.atLeast t).car = s.car := rfl
@[simp] theorem atLeast_tines (t : Nat) : (s.atLeast t).tines = s.tines := rfl
@[simp] theorem atLeast_ctxs (t : Nat) : (s.atLeast t).ctxs = s.ctxs := rfl
@[simp] theorem atLeast_armed (t : Nat) : (s.atLeast t).armed = s.armed := rfl
@[simp] theorem atLeast_deltas (t : Nat) : (s.atLeast t).deltas = s.deltas := rfl
@[simp] theorem atLeast_fulls (t : Nat) : (s.atLeast t).fulls = s.fulls := rfl
@[simp] theorem atLeast_quiesce (t : Nat) : (s.atLeast t).quiesce = s.quiesce := rfl
@[simp] theorem atLeast_pending (t : Nat) : (s.atLeast t).pending = s.pending := rfl

/-! ### What an updated piece reads as -/

@[simp] theorem core_setCore_same (i : Nat) (k : Core) : (s.setCore i k).core i = k := mget_mput_same _ _ _ _
theorem core_setCore_ne {i j : Nat} (k : Core) (h : j ≠ i) : (s.setCore i k).core j = s.core j := mget_mput_ne _ _ _ h

@[simp] theorem slot_setSlot_same (i : Nat) (k : Slot) : (s.setSlot i k).slot i = k := mget_mput_same _ _ _ _
theorem slot_setSlot_ne {i j : Nat} (k : Slot) (h : j ≠ i) : (s.setSlot i k).slot j = s.slot j := mget_mput_ne _ _ _ h

@[simp] theorem hoof_setHoof_same (i : Nat) (k : Hoof) : (s.setHoof i k).hoof i = k := mget_mput_same _ _ _ _
theorem hoof_setHoof_ne {i j : Nat} (k : Hoof) (h : j ≠ i) : (s.setHoof i k).hoof j = s.hoof j := mget_mput_ne _ _ _ h

@[simp] theorem hport_setHport_same (i : Nat) (k : HPort) : (s.setHport i k).hport i = k := mget_mput_same _ _ _ _
theorem hport_setHport_ne {i j : Nat} (k : HPort) (h : j ≠ i) : (s.setHport i k).hport j = s.hport j := mget_mput_ne _ _ _ h

@[simp] theorem fport_setFport_same (i : Nat) (k : FPort) : (s.setFport i k).fport i = k := mget_mput_same _ _ _ _
theorem fport_setFport_ne {i j : Nat} (k : FPort) (h : j ≠ i) : (s.setFport i k).fport j = s.fport j := mget_mput_ne _ _ _ h

theorem aget_aput_same {κ α : Type} [DecidableEq κ] (m : List (κ × α)) (k : κ) (v : α) : aget (aput m k v) k = some v := by
  induction m with
  | nil => simp [aput, aget]
  | cons e m ih =>
    obtain ⟨j, w⟩ := e
    unfold aput
    split_ifs with h
    · simp [aget]
    · simp [aget, h, ih]

theorem aget_aput_ne {κ α : Type} [DecidableEq κ] (m : List (κ × α)) {k i : κ} (v : α) (h : i ≠ k) : aget (aput m k v) i = aget m i := by
  induction m with
  | nil => simp [aput, aget, h.symm]
  | cons e m ih =>
    obtain ⟨j, w⟩ := e
    unfold aput
    split_ifs with h1
    · subst h1; simp [aget, h.symm]
    · simp only [aget]; split_ifs <;> simp_all

@[simp] theorem strm_setStrm_same (n : Nat) (k : Strm) : (s.setStrm n k).strm n = some k := aget_aput_same _ _ _
theorem strm_setStrm_ne {n i : Nat} (k : Strm) (h : i ≠ n) : (s.setStrm n k).strm i = s.strm i := aget_aput_ne _ _ h

@[simp] theorem op_setOp_same (t : Nat) (o : Op) : (s.setOp t o).op t = some o := by simp [op, setOp]
theorem op_setOp_ne {t i : Nat} (o : Op) (h : i ≠ t) : (s.setOp t o).op i = s.op i := by simp [op, setOp, slot_setSlot_ne _ _ h]
@[simp] theorem gen_setOp (t i : Nat) (o : Op) : ((s.setOp t o).slot i).gen = (s.slot i).gen := by
  by_cases h : i = t
  · subst h; simp [setOp]
  · simp [setOp, slot_setSlot_ne _ _ h]

/-! ### The end of a command -/

@[simp] theorem settle_part (r : State) : (settle s r).part = r.part := rfl
@[simp] theorem settle_stepping (r : State) : (settle s r).stepping = r.stepping := rfl
@[simp] theorem settle_phase (r : State) : (settle s r).phase = r.phase := rfl
@[simp] theorem settle_wrstHeld (r : State) : (settle s r).wrstHeld = r.wrstHeld := rfl
@[simp] theorem settle_warmAt (r : State) : (settle s r).warmAt = r.warmAt := rfl
@[simp] theorem settle_pulses (r : State) : (settle s r).pulses = r.pulses := rfl
@[simp] theorem settle_mgmt (r : State) : (settle s r).mgmt = r.mgmt := rfl
@[simp] theorem settle_sched (r : State) : (settle s r).sched = r.sched := rfl
@[simp] theorem settle_host (r : State) : (settle s r).host = r.host := rfl
@[simp] theorem settle_fab (r : State) : (settle s r).fab = r.fab := rfl
@[simp] theorem settle_ports (r : State) : (settle s r).ports = r.ports := rfl
@[simp] theorem settle_hoofs (r : State) : (settle s r).hoofs = r.hoofs := rfl
@[simp] theorem settle_cores (r : State) : (settle s r).cores = r.cores := rfl
@[simp] theorem settle_store (r : State) : (settle s r).store = r.store := rfl
@[simp] theorem settle_dram (r : State) : (settle s r).dram = r.dram := rfl
@[simp] theorem settle_slots (r : State) : (settle s r).slots = r.slots := rfl
@[simp] theorem settle_freeq (r : State) : (settle s r).freeq = r.freeq := rfl
@[simp] theorem settle_strms (r : State) : (settle s r).strms = r.strms := rfl
@[simp] theorem settle_steps (r : State) : (settle s r).steps = r.steps := rfl
@[simp] theorem settle_car (r : State) : (settle s r).car = r.car := rfl
@[simp] theorem settle_tines (r : State) : (settle s r).tines = r.tines := rfl
@[simp] theorem settle_ctxs (r : State) : (settle s r).ctxs = r.ctxs := rfl
@[simp] theorem settle_armed (r : State) : (settle s r).armed = r.armed := rfl
@[simp] theorem settle_deltas (r : State) : (settle s r).deltas = r.deltas := rfl
@[simp] theorem settle_fulls (r : State) : (settle s r).fulls = r.fulls := rfl
@[simp] theorem settle_quiesce (r : State) : (settle s r).quiesce = r.quiesce := rfl
@[simp] theorem settle_pending (r : State) : (settle s r).pending = s.pending := rfl
@[simp] theorem settle_core (r : State) (c : Nat) : (settle s r).core c = r.core c := rfl
@[simp] theorem settle_slot (r : State) (t : Nat) : (settle s r).slot t = r.slot t := rfl
@[simp] theorem settle_op (r : State) (t : Nat) : (settle s r).op t = r.op t := rfl
@[simp] theorem settle_hoof (r : State) (h : Nat) : (settle s r).hoof h = r.hoof h := rfl
@[simp] theorem settle_hport (r : State) (p : Nat) : (settle s r).hport p = r.hport p := rfl
@[simp] theorem settle_fport (r : State) (p : Nat) : (settle s r).fport p = r.fport p := rfl
@[simp] theorem settle_strm (r : State) (n : Nat) : (settle s r).strm n = r.strm n := rfl
@[simp] theorem settle_stBytes (r : State) (o n : Nat) : (settle s r).stBytes o n = r.stBytes o n := rfl
@[simp] theorem settle_tppeak (r : State) : (settle s r).units.tppeak = Nat.max r.units.tppeak (tpuse r) := rfl
@[simp] theorem tpuse_settle (r : State) : tpuse (settle s r) = tpuse r := rfl

end Sys2Proof.Machine.State
end

