-- ==== Sys2Proof/Laws/Camka.lean ====
section
/-!
SUPPORT. What a scalar instruction of a control core can do: it runs when it is fetched, and what it leaves of the registers, the
predicates and memory.
-/

namespace Sys2Proof.Machine

@[simp] theorem turned_cores (s : State) (c : Nat) (r : State) : (turned s c r).cores = r.cores := by unfold turned; split <;> rfl
@[simp] theorem turned_core (s : State) (c : Nat) (r : State) (d : Nat) : (turned s c r).core d = r.core d := by unfold turned; split <;> rfl
@[simp] theorem turned_store (s : State) (c : Nat) (r : State) : (turned s c r).store = r.store := by unfold turned; split <;> rfl
@[simp] theorem turned_dram (s : State) (c : Nat) (r : State) : (turned s c r).dram = r.dram := by unfold turned; split <;> rfl
@[simp] theorem turned_slots (s : State) (c : Nat) (r : State) : (turned s c r).slots = r.slots := by unfold turned; split <;> rfl

/-- Outside pair service no turn passes. -/
theorem turned_alone {s : State} {c : Nat} (r : State) (h : paired s c = false) : turned s c r = r := by simp [turned, h]

theorem scalar_run {s : State} {c : CoreId} {n maj func : Nat} {f : Core → State} (h : Fetches s c n) :
    scalar s c.toNat n maj func true f = turned s c.toNat (f (s.core c.toNat)) := by
  simp [scalar, h.1, h.2]

theorem scalar_run' {s : State} {c : CoreId} {n maj func : Nat} {ok : Bool} {f : Core → State} (h : Fetches s c n) (hk : ok = true) :
    scalar s c.toNat n maj func ok f = turned s c.toNat (f (s.core c.toNat)) := by
  subst hk; exact scalar_run h

/-- Passing the turn passes that of core c's pair alone. -/
theorem onlyTurn_turned (s r : State) (c : CoreId) (h : r.mgmt.oddTurn = s.mgmt.oddTurn) : OnlyTurn s (settle s (turned s c.toNat r)) c := by
  refine ⟨fun hp => ?_, fun p hp => ?_⟩
  · rw [turned_alone r hp]; exact h
  · show p ∈ (turned s c.toNat r).mgmt.oddTurn ↔ _
    unfold turned
    split_ifs
    · simp only [h, List.mem_filter, decide_eq_true_eq]; exact ⟨And.left, fun hm => ⟨hm, hp⟩⟩
    · simp only [h]; unfold addNew; split_ifs
      · rfl
      · simp [hp]
    · rw [h]

/-- A change of core c alone, with its turn passed on. -/
theorem onlyCore_setCore (s : State) (c : CoreId) (k : Core) : OnlyCore s (settle s (turned s c.toNat (s.setCore c.toNat k))) c := by
  refine ⟨?_, onlyTurn_turned s _ c rfl, fun d hd => ?_⟩
  · unfold turned; split_ifs <;> rfl
  · rw [State.settle_core, turned_core, State.core_setCore_ne s k hd]

theorem getS_setS (k : Core) (r i : Nat) (v : W64) : (k.setS r v).getS i = if i = r ∧ i ≠ 0 then v else k.getS i := by
  unfold Core.setS Core.getS
  by_cases hr : r = 0
  · subst hr; by_cases hi : i = 0 <;> simp [hi]
  · by_cases hi : i = 0
    · simp [hi]
    · simp [hr, hi, mget_mput]

theorem getP_setP (k : Core) (r i : Nat) (v : Bool) : (k.setP r v).getP i = if i = r ∧ i ≠ 0 then v else k.getP i := by
  unfold Core.setP Core.getP
  by_cases hr : r = 0
  · subst hr; by_cases hi : i = 0 <;> simp [hi]
  · by_cases hi : i = 0
    · simp [hi]
    · simp [hr, hi, mget_mput]

theorem setS_eq (k : Core) (r : Nat) (v : W64) : k.setS r v = { k with s := (k.setS r v).s } := by
  unfold Core.setS; split <;> rfl

theorem setP_eq (k : Core) (r : Nat) (v : Bool) : k.setP r v = { k with p := (k.setP r v).p } := by
  unfold Core.setP; split <;> rfl

theorem writesReg_of {i : Instr} {s : State} {c : CoreId} {rd : BitVec 5} {v : W64} {n : Nat}
    (h : exec i s = .next (settle s (turned s c.toNat (s.setCore c.toNat (((s.core c.toNat).setS rd.toNat v).adv n))))) : WritesReg i s c rd v n := by
  refine ⟨_, h, onlyCore_setCore _ _ _, ?_, fun k => ?_⟩
  · rw [State.settle_core, turned_core, State.core_setCore_same]; unfold Core.adv; rw [setS_eq]
  · rw [State.settle_core, turned_core, State.core_setCore_same, ← getS_setS]; rfl

theorem writesPred_of {i : Instr} {s : State} {c : CoreId} {rd : Nat} {v : Bool}
    (h : exec i s = .next (settle s (turned s c.toNat (s.setCore c.toNat (((s.core c.toNat).setP rd v).adv 4))))) : WritesPred i s c rd v := by
  refine ⟨_, h, onlyCore_setCore _ _ _, ?_, fun k => ?_⟩
  · rw [State.settle_core, turned_core, State.core_setCore_same]; unfold Core.adv; rw [setP_eq]; rfl
  · rw [State.settle_core, turned_core, State.core_setCore_same, ← getP_setP]; rfl

theorem setsCore_of {i : Instr} {s : State} {c : CoreId} {k : Core}
    (h : exec i s = .next (settle s (turned s c.toNat (s.setCore c.toNat k)))) : SetsCore i s c k :=
  ⟨_, h, onlyCore_setCore _ _ _, by rw [State.settle_core, turned_core, State.core_setCore_same]⟩

theorem scalarReach_store {s : State} {a n : Nat} (h : scalarReach s a n = true) (hc : inCsr a = false) :
    inStore a = true ∧ storeOk s.units (a - storeBase) n = true := by
  simp [scalarReach, hc] at h; exact h

theorem csrOff {a : Nat} (hc : inCsr a = true) : csrBase ≤ a := by
  unfold inCsr at hc; exact of_decide_eq_true (Bool.and_eq_true_iff.mp hc).1

theorem csrBase8 : csrBase % 8 = 0 := by decide

theorem off8 {a : Nat} (hc : inCsr a = true) (ha : a % 8 = 0) : (a - csrBase) / 8 * 8 = a - csrBase := by
  have := csrOff hc; have := csrBase8; omega

theorem off4 {a : Nat} (hc : inCsr a = true) (ha : a % 8 = 4) : (a - csrBase) / 8 * 8 = a - 4 - csrBase := by
  have := csrOff hc; have := csrBase8; omega

theorem reachCsr (s : State) {a : Nat} (n : Nat) (hc : inCsr a = true) : scalarReach s a n = true := by unfold scalarReach; rw [hc]; simp

theorem load_run (s : State) (c : CoreId) (maj n : Nat) (rd rs1 : BitVec 5) (imm : BitVec 16) (h : Fetches s c 4)
    (hr : scalarReach s (scalarAddr (s.core c.toNat) rs1 imm) n = true) (ha : scalarAddr (s.core c.toNat) rs1 imm % n = 0) :
    loadInstr s c.toNat maj n rd rs1 imm = turned s c.toNat (loadFx (s.setCore c.toNat (((s.core c.toNat).setS rd.toNat
      (BitVec.ofNat 64 (loadVal s (scalarAddr (s.core c.toNat) rs1 imm) n))).adv 4)) (scalarAddr (s.core c.toNat) rs1 imm) n) := by
  unfold loadInstr; rw [scalar_run h]
  simp only [hr, ha, not_true_eq_false, if_false, ne_eq]

theorem loadFx_store (s : State) {a : Nat} (n : Nat) (hc : inCsr a = false) : loadFx s a n = s := by
  unfold loadFx; rw [hc]; simp only [Bool.false_eq_true, if_false]

theorem loadVal_store (s : State) {a : Nat} (n : Nat) (hc : inCsr a = false) : loadVal s a n = leNat (readBytes s.store (a - storeBase) n) := by
  unfold loadVal; rw [hc]; simp only [Bool.false_eq_true, if_false]; rfl

theorem loadVal8 (s : State) {a : Nat} (hc : inCsr a = true) (ha : a % 8 = 0) : loadVal s a 8 = csrRead s (a - csrBase) := by
  unfold loadVal; rw [hc, off8 hc ha]; simp

theorem loadFx8 (s : State) {a : Nat} (hc : inCsr a = true) (ha : a % 8 = 0) : loadFx s a 8 = csrReadFx s (a - csrBase) true true := by
  unfold loadFx; rw [hc, off8 hc ha]; simp

theorem hiHalf0 {a : Nat} (ha : a % 8 = 0) : hiHalf a = false := by unfold hiHalf; rw [ha]; rfl

theorem hiHalf4 {a : Nat} (ha : a % 8 = 4) : hiHalf a = true := by unfold hiHalf; rw [ha]; rfl

theorem loadVal4l (s : State) {a : Nat} (hc : inCsr a = true) (ha : a % 8 = 0) : loadVal s a 4 = csrRead s (a - csrBase) % 2 ^ 32 := by
  unfold loadVal; rw [hc, off8 hc ha, hiHalf0 ha]; simp

theorem loadFx4l (s : State) {a : Nat} (hc : inCsr a = true) (ha : a % 8 = 0) : loadFx s a 4 = csrReadFx s (a - csrBase) true false := by
  unfold loadFx; rw [hc, off8 hc ha, hiHalf0 ha]; simp

theorem loadVal4h (s : State) {a : Nat} (hc : inCsr a = true) (ha : a % 8 = 4) : loadVal s a 4 = csrRead s (a - 4 - csrBase) / 2 ^ 32 % 2 ^ 32 := by
  unfold loadVal; rw [hc, off4 hc ha, hiHalf4 ha]; simp

theorem loadFx4h (s : State) {a : Nat} (hc : inCsr a = true) (ha : a % 8 = 4) : loadFx s a 4 = csrReadFx s (a - 4 - csrBase) false true := by
  unfold loadFx; rw [hc, off4 hc ha, hiHalf4 ha]; simp

theorem leBytes_length (n v : Nat) : (leBytes n v).length = n := by
  induction n generalizing v with
  | zero => rfl
  | succ n ih => simp [leBytes, ih]

theorem stWrite_store {s : State} {o n : Nat} {bs : List Byte} (h : storeOk s.units o n = true) (hn : bs.length = n) :
    s.stWrite o bs = { s with store := writeBytes s.store o bs, armed := markedArmed s o n } := by
  subst hn; simp [State.stWrite, h]

theorem sameOutside_store {s t : State} {a : Nat} {bs : List Byte} {n : Nat} (hn : bs.length = n) (ha : storeBase ≤ a)
    (c : CoreId) (ht : OnlyStores s t c) (hs : t.store = writeBytes s.store (a - storeBase) bs) : SameOutside s t a n := by
  intro x hx
  have hd : dramByte t x = dramByte s x := by rw [ht.1]; rfl
  unfold localByte
  split
  · rename_i hi
    have : storeBase ≤ x := by simp [inStore] at hi; exact hi.1
    rw [hs, mget_writeBytes_out]; omega
  · exact hd

theorem store_run (s : State) (c : CoreId) (maj n : Nat) (rd rs1 : BitVec 5) (imm : BitVec 16) (h : Fetches s c 4)
    (hr : scalarReach s (scalarAddr (s.core c.toNat) rs1 imm) n = true) (ha : scalarAddr (s.core c.toNat) rs1 imm % n = 0) :
    storeInstr s c.toNat maj n rd rs1 imm = turned s c.toNat (storeVal (s.setCore c.toNat ((s.core c.toNat).adv 4))
      (scalarAddr (s.core c.toNat) rs1 imm) n ((s.core c.toNat).getS rd.toNat).toNat) := by
  unfold storeInstr; rw [scalar_run h]
  simp only [hr, ha, not_true_eq_false, if_false, ne_eq]

theorem storeVal_store (s : State) {a : Nat} (n v : Nat) (hc : inCsr a = false) : storeVal s a n v = s.stWrite (a - storeBase) (leBytes n v) := by
  unfold storeVal; rw [hc]; simp only [Bool.false_eq_true, if_false]

theorem storeVal8 (s : State) {a : Nat} (v : Nat) (hc : inCsr a = true) (ha : a % 8 = 0) :
    storeVal s a 8 v = csrWrite s (a - csrBase) (2 ^ 64 - 1) v := by
  unfold storeVal; rw [hc, off8 hc ha]; simp only [if_true]; rfl

theorem mask0 {a : Nat} (ha : a % 8 = 0) : halfMask a = 2 ^ 32 - 1 := by unfold halfMask; rw [ha]; rfl

theorem mask4 {a : Nat} (ha : a % 8 = 4) : halfMask a = 2 ^ 64 - 2 ^ 32 := by unfold halfMask; rw [ha]; rfl

theorem storeVal4l (s : State) {a : Nat} (v : Nat) (hc : inCsr a = true) (ha : a % 8 = 0) :
    storeVal s a 4 v = csrWrite s (a - csrBase) (2 ^ 32 - 1) (v % 2 ^ 32) := by
  unfold storeVal; rw [hc, off8 hc ha, hiHalf0 ha, mask0 ha]; simp

theorem storeVal4h (s : State) {a : Nat} (v : Nat) (hc : inCsr a = true) (ha : a % 8 = 4) :
    storeVal s a 4 v = csrWrite s (a - 4 - csrBase) (2 ^ 64 - 2 ^ 32) (v % 2 ^ 32 * 2 ^ 32) := by
  unfold storeVal; rw [hc, off4 hc ha, hiHalf4 ha, mask4 ha]; simp

theorem shl2 (x : W64) : x <<< 2 = x * 4 := by
  have := BitVec.shiftLeft_eq_mul_twoPow x 2
  rw [this]; rfl

end Sys2Proof.Machine
end

