-- ==== Sys2Proof/Laws/Memory.lean ====
section
/-!
SUPPORT. Every operation that writes the store or the DRAM keeps their canonical form, and the memories of reset have it.
-/

namespace Sys2Proof.Machine

/-- Nothing is listed at reset. -/
theorem memoryWf_reset : memoryWf State.reset = true := rfl

theorem memoryWf_iff (s : State) : memoryWf s = true ↔ Memory.wf s.store = true ∧ Memory.wf s.dram = true := by
  simp [memoryWf]

/-- The state with another store. -/
theorem memoryWf_store {s : State} {m : List Host.Cell} (h : memoryWf s = true) (hm : Memory.wf s.store = true → Memory.wf m = true) :
    memoryWf { s with store := m } = true := by
  rw [memoryWf_iff] at h ⊢
  exact ⟨hm h.1, h.2⟩

/-- The state with another DRAM. -/
theorem memoryWf_dram {s : State} {m : List Host.Cell} (h : memoryWf s = true) (hm : Memory.wf s.dram = true → Memory.wf m = true) :
    memoryWf { s with dram := m } = true := by
  rw [memoryWf_iff] at h ⊢
  exact ⟨h.1, hm h.2⟩

/-- A chain of steps that each keep the form keeps it. -/
theorem memoryWf_foldl {α : Type} (f : State → α → State) (hf : ∀ s a, memoryWf s = true → memoryWf (f s a) = true) (l : List α)
    (s : State) (h : memoryWf s = true) : memoryWf (l.foldl f s) = true := by
  induction l generalizing s with
  | nil => exact h
  | cons a l ih => exact ih _ (hf s a h)

/-- Writing bytes anywhere in the store. -/
theorem memoryWf_writeStore {s : State} (a : Nat) (bs : List Byte) (h : memoryWf s = true) :
    memoryWf { s with store := writeBytes s.store a bs } = true :=
  memoryWf_store h (mwf_writeBytes _ a bs)

/-- A write of software space (R298). -/
theorem memoryWf_stWrite {s : State} (o : Nat) (bs : List Byte) (h : memoryWf s = true) : memoryWf (s.stWrite o bs) = true := by
  unfold State.stWrite
  split_ifs
  · exact memoryWf_writeStore o bs h
  · exact h

/-- COARSE of a descriptor (R305). -/
theorem memoryWf_setCoarse {s : State} (i : Nat) (c : Int) (h : memoryWf s = true) : memoryWf (setCoarse s i c) = true :=
  memoryWf_writeStore _ _ h

/-- A Velvet entry (R114). -/
theorem memoryWf_setVelvet {s : State} (j : Nat) (v : Velvet) (h : memoryWf s = true) : memoryWf (s.setVelvet j v) = true :=
  memoryWf_writeStore _ _ h

/-- A byte of DRAM, with its parity traffic (R399-R402). -/
theorem memoryWf_putDram {s : State} (slot a : Nat) (b : Byte) (h : memoryWf s = true) : memoryWf (putDram s slot a b) = true := by
  have key : ∀ k : Nat, memoryWf { s with dram := mput (fun _ => 0) s.dram k b } = true :=
    fun k => memoryWf_dram h (mwf_mput _ _ k b)
  unfold putDram
  cases spaceAt s a with
  | none => exact h
  | some p =>
    dsimp only
    split_ifs <;> first | exact h | exact key _

/-- Bytes of the store or the DRAM window. -/
theorem memoryWf_wrBytes {s : State} (slot a : Nat) (bs : List Byte) (h : memoryWf s = true) : memoryWf (wrBytes s slot a bs) = true := by
  induction bs generalizing s a with
  | nil => exact h
  | cons b bs ih =>
    refine ih (a + 1) ?_
    split_ifs
    · exact memoryWf_store h (mwf_mput _ _ _ b)
    · exact memoryWf_putDram slot a b h

/-- The same, with what a bucket notes of it (R332). -/
theorem memoryWf_wrLocal {s : State} (slot a : Nat) (bs : List Byte) (h : memoryWf s = true) : memoryWf (wrLocal s slot a bs) = true := by
  unfold wrLocal
  split_ifs <;> exact memoryWf_wrBytes slot a bs h

/-- An access corrected by the check code and written back (Table 14-4). -/
theorem memoryWf_writeBack {s : State} (h' ch off : Nat) (w : List Nat) (h : memoryWf s = true) :
    memoryWf (writeBack s h' ch off w) = true := by
  unfold writeBack
  split_ifs
  · exact h
  · exact memoryWf_dram h (mwf_writeBytes _ _ _)

/-- A patch rebuilt from the other chunks of its stripes (R414). -/
theorem memoryWf_rebuildPatch {s : State} (h' ch idx : Nat) (h : memoryWf s = true) : memoryWf (rebuildPatch s h' ch idx) = true := by
  unfold rebuildPatch
  split
  · exact h
  · exact memoryWf_foldl _ (fun _ _ hs => memoryWf_dram hs (mwf_mput _ _ _ _)) _ s h

/-- A parity delta merged into its chunk (R400, R401). -/
theorem memoryWf_xorLine {s : State} (h' ch off : Nat) (bs : List Byte) (h : memoryWf s = true) :
    memoryWf (xorLine s h' ch off bs) = true :=
  memoryWf_foldl _ (fun _ _ hs => memoryWf_dram hs (mwf_mput _ _ _ _)) _ s h

/-- A parity chunk written whole (R400). -/
theorem memoryWf_putLine {s : State} (h' ch off : Nat) (bs : List Byte) (h : memoryWf s = true) :
    memoryWf (putLine s h' ch off bs) = true :=
  memoryWf_dram h (mwf_writeBytes _ _ bs)

/-- A stream's descriptor spilled (R312). -/
theorem memoryWf_spillTo {s : State} (n p : Nat) (h : memoryWf s = true) : memoryWf (spillTo s n p) = true := by
  unfold spillTo
  cases s.strm n with
  | none => exact h
  | some k => exact memoryWf_store h (mwf_writeBytes _ _ _)

/-- A Hoof's registers are no memory. -/
theorem memoryWf_setHoof (s : State) (h : Nat) (k : Hoof) : memoryWf (s.setHoof h k) = memoryWf s := rfl

/-- A held delta, and a held combination, written to their parity chunk (R400, R401). -/
theorem memoryWf_writeDelta {s : State} (e : Delta) (h : memoryWf s = true) : memoryWf (writeDelta s e) = true := by
  unfold writeDelta
  rw [memoryWf_setHoof]
  exact memoryWf_xorLine e.hoof e.ch e.off e.bytes h

theorem memoryWf_writeFull {s : State} (e : Full) (h : memoryWf s = true) : memoryWf (writeFull s e) = true := by
  unfold writeFull
  rw [memoryWf_setHoof]
  exact memoryWf_putLine e.hoof e.ch e.off (e.parity s) h

/-- An area cleared by a warm reset (Table 16-3). -/
theorem wf_clearArea {m : List Host.Cell} (a : Nat × Nat) (h : Memory.wf m = true) : Memory.wf (clearArea m a) = true :=
  mwf_filter _ m _ h

/-- Region descriptors of a context image (R449). -/
theorem memoryWf_restoreRegions {s : State} (b : List Byte) (h : memoryWf s = true) : memoryWf (restoreRegions s b) = true :=
  memoryWf_foldl _ (fun _ _ hs => memoryWf_writeStore _ _ hs) _ s h

/-- Software space of a context image (R449). -/
theorem memoryWf_restoreSoft {s : State} (b : List Byte) (h : memoryWf s = true) : memoryWf (restoreSoft s b) = true := by
  have key : ∀ (l : List (Nat × Nat)) (q : State × List Byte), memoryWf q.1 = true →
      memoryWf (l.foldl (fun acc a =>
        (({ acc.1 with store := writeBytes acc.1.store a.1 (acc.2.take a.2) } : State), acc.2.drop a.2)) q).1 = true := by
    intro l
    induction l with
    | nil => exact fun _ hq => hq
    | cons a l ih => exact fun q hq => ih _ (memoryWf_writeStore a.1 (q.2.take a.2) hq)
  exact key _ (s, b) h

end Sys2Proof.Machine
end

