-- ==== Sys2Proof/Laws/Packet.lean ====
section
/-!
SUPPORT. The checksum of a packet: a CRC-32 fits its field, so a packet that this device finishes checks.
-/

namespace Sys2Proof.Machine

theorem crc32bit_lt {c : Nat} (h : c < 2 ^ 32) : crc32bit c < 2 ^ 32 := by
  unfold crc32bit
  split_ifs
  · exact Nat.xor_lt_two_pow (by omega) (by decide)
  · omega

theorem times_crc32bit_lt (n : Nat) {c : Nat} (h : c < 2 ^ 32) : times crc32bit n c < 2 ^ 32 := by
  induction n generalizing c with
  | zero => exact h
  | succ n ih => exact ih (crc32bit_lt h)

/-- A CRC-32 has 32 bits. -/
theorem crc32_lt (bs : List Byte) : crc32 bs < 2 ^ 32 := by
  have key : ∀ (bs : List Byte) (c : Nat), c < 2 ^ 32 → bs.foldl (fun c b => times crc32bit 8 (c ^^^ b.toNat)) c < 2 ^ 32 := by
    intro bs
    induction bs with
    | nil => exact fun _ h => h
    | cons b bs ih => exact fun c h => ih _ (times_crc32bit_lt 8 (Nat.xor_lt_two_pow h (by have := b.isLt; omega)))
  exact Nat.xor_lt_two_pow (key bs _ (by decide)) (by decide)

/-- The ECRC does not cover itself (R362). -/
theorem ecrcOf_ecrc (k : Packet) (e : W32) : ecrcOf { k with ecrc := e } = ecrcOf k := rfl

/-- A packet carrying the checksum of its header and payload checks. -/
theorem ecrc_checks (k : Packet) : (BitVec.ofNat 32 (ecrcOf k)).toNat = ecrcOf { k with ecrc := BitVec.ofNat 32 (ecrcOf k) } := by
  rw [ecrcOf_ecrc, BitVec.toNat_ofNat]
  exact Nat.mod_eq_of_lt (crc32_lt _)

end Sys2Proof.Machine
end

