-- ==== Sys2Proof/Laws/Scale.lean ====
section
/-!
SUPPORT. What the walk over the Velvet entries of the valid regions finds (R108, R120, R307).
-/

namespace Sys2Proof.Machine

theorem mem_addNew_self {κ : Type} [DecidableEq κ] (l : List κ) (x : κ) : x ∈ addNew l x := by
  unfold addNew
  split <;> simp_all

theorem mem_addNew_of_mem {κ : Type} [DecidableEq κ] {l : List κ} {x : κ} (y : κ) (h : x ∈ l) : x ∈ addNew l y := by
  unfold addNew
  split <;> simp [h]

/-- A region is among the valid regions with a Velvet entry if its descriptor says so. -/
theorem mem_velRegions {s : State} {i : Nat} (hi : i < 4096) (h : ((s.region i).valid && (s.region i).hasVelvet) = true) : (i, s.region i) ∈ velRegions s :=
  List.mem_filter.2 ⟨List.mem_map.2 ⟨i, List.mem_range.2 hi, rfl⟩, h⟩

theorem mem_foldl_addNew (l : List (Nat × Region)) {a : List Nat} {x : Nat} (h : x ∈ a) : x ∈ l.foldl (fun a e => addNew a e.2.velv) a := by
  induction l generalizing a with
  | nil => exact h
  | cons e l ih => exact ih (mem_addNew_of_mem _ h)

/-- The entry of a valid region is among the entries that a step goes through. -/
theorem velEntries_mem {regs : List (Nat × Region)} {e : Nat × Region} (h : e ∈ regs) : e.2.velv ∈ velEntries regs := by
  unfold velEntries
  generalize ([] : List Nat) = a
  induction regs generalizing a with
  | nil => simp at h
  | cons x l ih =>
    rcases List.mem_cons.1 h with rfl | h
    · exact mem_foldl_addNew l (mem_addNew_self a _)
    · exact ih h _

/-- An entry that a valid region names has an owner. -/
theorem velOwner_isSome {regs : List (Nat × Region)} {e : Nat × Region} (h : e ∈ regs) : (velOwner regs e.2.velv).isSome = true := by
  unfold velOwner
  rw [List.find?_isSome]
  exact ⟨e, h, by simp⟩

/-- The owner of an entry is the lowest-indexed valid region that names it (R307). -/
theorem velOwner_velRegions (s : State) (j : Nat) : velOwner (velRegions s) j =
    ((List.range 4096).find? (fun i => (s.region i).valid && (s.region i).hasVelvet && decide ((s.region i).velv = j))).map (fun i => (i, s.region i)) := by
  unfold velOwner velRegions
  generalize List.range 4096 = l
  rw [List.find?_filter, List.find?_map]
  simp only [Function.comp_def, Bool.and_assoc]
  congr 2
  funext i
  simp [Bool.and_assoc]

/-- The opening sweeps every region whose sound entry has a carry due that is not refused (R108). -/
theorem mem_sweptRegions_of_carry {s : State} {regs : List (Nat × Region)} {e : Nat × Region} (h : e ∈ regs)
    (hv : ((s.velvet e.2.velv).ok && (s.velvet e.2.velv).carryPend && !(carryRefused (s.velvet e.2.velv))) = true) : e ∈ sweptRegions s regs := by
  obtain ⟨own, ho⟩ := Option.isSome_iff_exists.1 (velOwner_isSome h)
  simp only [Bool.and_eq_true] at hv
  refine List.mem_flatMap.2 ⟨_, velEntries_mem h, ?_⟩
  simp only [ho, hv.1.1, hv.1.2, hv.2, Bool.and_self, Bool.true_or, if_true]
  exact List.mem_filter.2 ⟨h, by simp⟩

end Sys2Proof.Machine
end

