-- ==== Sys2Proof/Laws/Step.lean ====
section
/-!
SUPPORT. What a command and a step can do, said once: a command leaves a settled state, and a step takes the front command.
-/

namespace Sys2Proof.Machine

/-- Every command completes, and settles what its meaning leaves. -/
theorem exec_commit (c : Instr) (s : State) : ∃ r, exec c s = commit s r := by
  cases c <;> exact ⟨_, rfl⟩

/-- A step settles what the front command leaves, and takes it off the queue. -/
theorem step_commit {s t : State} (h : step s = .next t) : ∃ s' r, t = settle s' r ∧ s'.pending = s.pending.tail := by
  unfold step at h
  split at h
  · rename_i hp
    exact ⟨s, _, (Host.Outcome.next.inj h).symm, by rw [hp]; rfl⟩
  · rename_i c rest hp
    obtain ⟨r, h'⟩ := exec_commit c { s with pending := rest }
    exact ⟨_, r, (Host.Outcome.next.inj (h'.symm.trans h)).symm, by rw [hp]; rfl⟩

end Sys2Proof.Machine
end

