-- ==== Sys2Proof/Tests/Slice0.lean ====
section
/-!
SUPPORT. The model's own tests: ill-formed commands refused, for each statement with hypotheses a state and operands that meet them, and single
steps on small states.
-/

namespace Sys2Proof.Tests

open Sys2Proof Sys2Proof.Machine

/-! ### Small states -/

/-- In service. -/
def tUp : State := { State.reset with phase := .up }

/-- Core 0 runs at store offset 0 with a few registers set. -/
def tCore : Core :=
  { Core.reset 0 with running := true, s := [(1, 0x020000000000), (2, 0x030000000000), (3, 5), (4, 0x03000000000C), (5, 0x020000000004)] }

/-- In service, core 0 running. -/
def tRun : State := tUp.setCore 0 tCore

/-- An operation of code `opc` in phase `ph`, issued by core 0 on stream 0. -/
def tOp (opc : Nat) (ph : OpPhase) : Op :=
  { Op.fresh (.core 0 0) (parseEWord 0x3F) 0 0 0 0 with opc := opc, phase := ph }

/-- That operation in slot 0. -/
def tSlot (s : State) (o : Op) : State := s.setOp 0 o

/-- In service with that operation in slot 0. -/
def tWith (opc : Nat) (ph : OpPhase) : State := tSlot tUp (tOp opc ph)

/-- Bytes with some of them replaced. -/
def writeAt (bs : List Byte) (l : List (Nat × Byte)) : List Byte := l.foldl (fun b e => b.set e.1 e.2) bs

/-- An open step 0. -/
def tStep : StepSt := { StepSt.fresh 0 0 with opened := true }

theorem fetches {s : State} {c : CoreId} {n : Nat} (h : (coreReady s c.toNat && fetchOk s (s.core c.toNat).pc n) = true) : Fetches s c n := by
  simpa [Fetches] using h

theorem accepts {s : State} {t : SlotId} {opc : Nat} {o : Op} (h : (decide (s.op t.toNat = some o) && decide (o.opc = opc) && acceptTurn s t.toNat) = true) :
    Accepts s t opc o := by
  simpa [Accepts, and_assoc] using h

theorem works {s : State} {t : SlotId} {opc : Nat} {o : Op}
    (h : (decide (s.op t.toNat = some o) && decide (o.opc = opc) && decide (o.phase = .running) && s.live) = true) : Works s t opc o := by
  simpa [Works, and_assoc] using h

theorem fetches4 : Fetches tRun 0 4 := fetches (by decide)
theorem fetches8 : Fetches tRun 0 8 := fetches (by decide)
theorem fetches16 : Fetches tRun 0 16 := fetches (by decide)
theorem trapFree : TrapFree tRun 0 := ⟨rfl, by decide⟩
theorem acc1 : Accepts (tWith 1 .issued) 0 1 (tOp 1 .issued) := accepts (by decide)
theorem work1 : Works (tWith 0x10 .running) 0 0x10 (tOp 0x10 .running) := works (by decide)

/-! ### The queue, reset and fail-stop -/

theorem witness_EmptyQueueTicks : (tUp.pending = [] ∧ tUp.phase ≠ .coldReset ∧ tUp.mgmt.refclk = true)
    ∧ ({ tUp with phase := .coldReset } : State).phase = .coldReset
    ∧ ({ tUp with mgmt := { tUp.mgmt with refclk := false } } : State).mgmt.refclk = false := by decide

theorem witness_QueueIsFirstInFirstOut : ∃ t, step { tUp with pending := [.pclr, .sbstatRead] } = .next t := ⟨_, rfl⟩

theorem witness_TransitPeakCoversUse : PeakInv tUp ∧ ∃ t, step { tUp with pending := [.pclr] } = .next t :=
  ⟨by unfold PeakInv; decide, _, rfl⟩

/-- In fail-stop. -/
def tFs : State := { tUp with mgmt := { tUp.mgmt with fltstat := 0x2000000000000000 } }

theorem witness_FailStopEndsOnlyByReset : tFs.failstop = true ∧ (∃ t, step { tFs with pending := [.pclr] } = .next t)
    ∧ ∃ t, step { tFs with pending := [.rstNAssert 1000] } = .next t := ⟨by decide, ⟨_, rfl⟩, _, rfl⟩

theorem witness_FailStopStandsStill : tFs.failstop = true ∧ ∃ w, opRowOf (.copy 0 1) = some w := ⟨by decide, _, rfl⟩

/-! ### Control cores -/

theorem witness_ScalarArithmetic : Fetches tRun 0 4 ∧ Fetches tRun 0 8 ∧ (0 : BitVec 6).toNat ≤ 15 ∧ (15 : BitVec 6).toNat ≤ 15 ∧ (0 : BitVec 5) = 0
    ∧ (63 : BitVec 16).toNat < 64 ∧ 64 ≤ (64 : BitVec 16).toNat ∧ (127 : BitVec 16).toNat < 128 ∧ 128 ≤ (128 : BitVec 16).toNat
    ∧ (191 : BitVec 16).toNat < 192 := ⟨fetches4, fetches8, by decide⟩

theorem witness_ScalarPredicates : Fetches tRun 0 4 ∧ (7 : BitVec 5).toNat < 8 ∧ (7 : BitVec 5).toNat / 8 = 0 ∧ (15 : BitVec 5).toNat / 8 = 1
    ∧ (23 : BitVec 5).toNat / 8 = 2 ∧ (31 : BitVec 5).toNat / 8 = 3 := ⟨fetches4, by decide⟩

theorem witness_ScalarLoads : Fetches tRun 0 4
    ∧ (let a := scalarAddr (tRun.core 0) 1 8; inCsr a = false ∧ scalarReach tRun a 8 = true ∧ a % 8 = 0)
    ∧ (let a := scalarAddr (tRun.core 0) 1 4; inCsr a = false ∧ scalarReach tRun a 4 = true ∧ a % 4 = 0)
    ∧ (let a := scalarAddr (tRun.core 0) 2 0; inCsr a = true ∧ a % 8 = 0)
    ∧ (let a := scalarAddr (tRun.core 0) 4 0; inCsr a = true ∧ a % 8 = 4) := ⟨fetches4, by decide⟩

theorem witness_ScalarStores : Fetches tRun 0 4
    ∧ (let a := scalarAddr (tRun.core 0) 1 8; inCsr a = false ∧ scalarReach tRun a 8 = true ∧ a % 8 = 0 ∧ scalarReach tRun a 4 = true ∧ a % 4 = 0)
    ∧ (let a := scalarAddr (tRun.core 0) 2 0; inCsr a = true ∧ a % 8 = 0)
    ∧ (let a := scalarAddr (tRun.core 0) 4 0; inCsr a = true ∧ a % 8 = 4) := ⟨fetches4, by decide⟩

/-- Core 0 in a trap. -/
def tTrap : State := tUp.setCore 0 { tCore with inTrap := true }

theorem witness_ScalarJumpsHaltAndDraw : (Fetches tRun 0 4 ∧ TrapFree tRun 0) ∧ (30 : BitVec 5).toNat % 2 = 0 ∧ (30 : BitVec 5) ≠ 0
    ∧ Fetches tTrap 0 4 ∧ (tTrap.core 0).inTrap = true
    ∧ (let s := { tRun with mgmt := { tRun.mgmt with fltstat := 0x2000000 } }; Fetches s 0 4 ∧ paired s 0 = true) :=
  ⟨⟨fetches4, trapFree⟩, by decide, by decide, fetches (by decide), rfl, fetches (by decide), by decide⟩

/-- A completed operation that HOLD keeps. -/
def tHeld : State := tSlot tRun { tOp 0x10 .held with hold := true }
/-- An operation that works, written ranges and all. -/
def tFly : State := tSlot tRun { tOp 0x10 .running with ranges := [rngL 64 64 true], writes := [rngL 64 64 true] }

theorem witness_WaitingForOperations : (Fetches tRun 0 4 ∧ (63 : BitVec 16).toNat < 64 ∧ viewTicket tRun 0 0xF000 = .gone)
    ∧ (Fetches tHeld 0 4 ∧ ∃ t o, viewTicket tHeld 0 0xF000 = .done t o ∧ o.phase = .held ∧ o.retried = false)
    ∧ (∃ t o, viewTicket (tSlot tRun { tOp 0x10 .held with hold := true, retried := true }) 0 0xF000 = .done t o ∧ o.phase = .held ∧ o.retried = true)
    ∧ (∃ t o, viewTicket (tSlot tRun { tOp 0x10 .recHeld with hold := true }) 0 0xF000 = .done t o ∧ o.phase ≠ .held)
    ∧ (Fetches tFly 0 4 ∧ viewTicket tFly 0 0xF000 = .flying ∧ (7 : BitVec 5).toNat < 8) :=
  ⟨⟨fetches4, by decide, rfl⟩, ⟨fetches (by decide), _, _, rfl, rfl, rfl⟩, ⟨_, _, rfl, rfl, rfl⟩, ⟨_, _, rfl, by decide⟩, fetches (by decide), rfl, by decide⟩

/-- Core 0 stalls on `x`. -/
def tStall (s : State) (x : Stall) : State := s.setCore 0 { tCore with stall := some x }

theorem witness_FenceAndStallEnd : (Fetches tRun 0 4 ∧ (2 : BitVec 16).toNat < 3 ∧ (1 : BitVec 16).toNat = 1 ∧ fenceSet tRun 0 2 0 0 = [])
    ∧ (Fetches tFly 0 4 ∧ fenceSet tFly 0 0 0 0 ≠ [] ∧ fenceSet tFly 0 1 64 1 ≠ [] ∧ fenceSet tFly 0 1 128 1 = [] ∧ fenceAwaits tFly 1 1 = false)
    ∧ (let s := tSlot tRun (tOp 0x10 .issued); Fetches s 0 4 ∧ fenceAwaits s 1 ((s.core 0).getS 3).toNat = true)
    ∧ (let s := tStall tUp (.ready 3 7); s.live = true ∧ (s.core 0).running = true ∧ (s.core 0).stall = some (.ready 3 7))
    ∧ (let s := tUp.setCore 0 { tCore with stall := some (.ready 3 7), halting := true }; (s.core 0).halting = true ∧ (s.core 0).async = [])
    ∧ (let s := tStall tUp (.readyP 3 true); s.live = true ∧ (s.core 0).running = true ∧ (s.core 0).stall = some (.readyP 3 true))
    ∧ (let s := tStall tUp (.fence [0xF000]); (s.core 0).stall = some (.fence [0xF000]) ∧ [0xF000].any (ticketFlying s) = false)
    ∧ (let s := tStall tFly (.fence [0xF000]); (s.core 0).stall = some (.fence [0xF000]) ∧ [0xF000].any (ticketFlying s) = true) :=
  ⟨⟨fetches4, by decide⟩, ⟨fetches (by decide), by decide⟩, ⟨fetches (by decide), by decide⟩, by decide⟩

theorem witness_SpecialRegisters : Fetches tRun 0 4 ∧ (0 : BitVec 16).toNat ≠ 9 ∧ (11 : BitVec 16).toNat ≠ 9
    ∧ (let k := tRun.core 0
       let l := [k.pc, k.epc, k.tvec, k.tqbase, k.tqhead.setWidth 64, k.tqtail.setWidth 64, k.stream.setWidth 64, 0,
         BitVec.ofNat 64 (tstat k), 0, stepn tRun, BitVec.ofNat 64 (heldBy tRun 0)]
       l[0]? = some k.pc ∧ l[11]? = some (BitVec.ofNat 64 (heldBy tRun 0)))
    ∧ TrapFree tRun 0 ∧ 12 ≤ (12 : BitVec 16).toNat ∧ (0 : BitVec 16).toNat ∉ [1, 2, 3, 4, 6] ∧ (5 : BitVec 16).toNat ∉ [1, 2, 3, 4, 6] :=
  ⟨fetches4, by decide, by decide, ⟨rfl, rfl⟩, trapFree, by decide⟩

theorem witness_PreciseTraps : Fetches tRun 0 4 ∧ TrapFree tRun 0 ∧ 15 < (16 : BitVec 6).toNat ∧ (2 : BitVec 16).toNat = 2 ∧ (1 : BitVec 5) ≠ 0
    ∧ (0 : BitVec 128).toNat % 64 = 0 ∧ (0x30 : BitVec 128).toNat % 64 = 0x30
    ∧ (let a := scalarAddr (tRun.core 0) 1 4; scalarReach tRun a 8 = true ∧ a % 8 ≠ 0)
    ∧ (let a := scalarAddr (tRun.core 0) 1 2; scalarReach tRun a 4 = true ∧ a % 4 ≠ 0)
    ∧ (let a := scalarAddr (tRun.core 0) 0 0; inCsr a = false ∧ inStore a = false) := ⟨fetches4, trapFree, by decide⟩

/-- An asynchronous record. -/
def tRec : TrapRec := { ticket := 0, cause := 2, flags := 0, opc := 0x20, var := 0, region := 0, index := 0, status := 0, pc := 0, step := 0, stream := 0 }

theorem witness_PendingTrapTaken :
    (let s := tUp.setCore 0 { tCore with async := [tRec] }
     s.live = true ∧ (s.core 0).running = true ∧ (s.core 0).stall = none ∧ (s.core 0).inTrap = false ∧ tqFull (s.core 0) = false ∧ (s.core 0).jumps = 0
       ∧ (s.core 0).async = [tRec])
    ∧ (let s := tUp.setCore 0 { tCore with jumps := 1 }
       s.live = true ∧ (s.core 0).running = true ∧ (s.core 0).stall = none ∧ (s.core 0).inTrap = false ∧ tqFull (s.core 0) = false ∧ 0 < (s.core 0).jumps
       ∧ (s.core 0).async = []) := by decide

/-- The word of COPY with HOLD. -/
def tWord : BitVec 128 := BitVec.ofNat 128 (0x3F + 0x10 * 64 + 3 * 2 ^ 22 + 2 ^ 38)

/-- With slot 0 alone free. -/
def tFree : State := { tRun with freeq := [0] }

theorem witness_EngineWordIssues : Fetches tFree 0 16 ∧ (parseEWord tWord.toNat).ok = true ∧ tFree.strm 0 = some (Strm.core 0) ∧ (Strm.core 0).closing = false
    ∧ (Strm.core 0).kind = 0 ∧ (Strm.core 0).resident = true ∧ tFree.quiesce = none ∧ heldBy tFree 0 < 256
    ∧ pickSlot tFree (wordDests tFree (parseEWord tWord.toNat)) = some 0
    ∧ Fetches { tFree with freeq := [] } 0 16 ∧ pickSlot { tFree with freeq := [] } (wordDests { tFree with freeq := [] } (parseEWord tWord.toNat)) = none :=
  ⟨fetches (by decide), by decide, rfl, by decide, by decide, by decide, rfl, by decide, by decide, fetches (by decide), by decide⟩

theorem witness_CoreControlRegister : tUp.live = true ∧ (tUp.core 0).running = false ∧ (tUp.core 0).byHalt = false ∧ (tRun.core 0).running = true
    ∧ (tRun.core 0).async = [] ∧ tRun.live = true
    ∧ (let s := tUp.setCore 0 { tCore with running := false, byHalt := true }; (s.core 0).running = false ∧ (s.core 0).byHalt = true ∧ s.live = true)
    ∧ (let s := tUp.setCore 0 { tCore with stall := some (.wait 3 0) }; (s.core 0).running = true ∧ (s.core 0).async = [] ∧ (s.core 0).stall = some (.wait 3 0))
    ∧ (let s := tUp.setCore 0 { tCore with stall := some (.fence []) }; (s.core 0).running = true ∧ ∃ st, (s.core 0).stall = some st ∧ ∀ rd w, st ≠ .wait rd w) :=
  ⟨by decide, by decide, by decide, by decide, by decide, by decide, by decide, by decide, by decide, _, rfl, by simp⟩

/-! ### The scheduler -/

/-- With step 0 open. -/
def tOpen : State := { tUp with steps := [tStep] }
/-- With step 0 open and its STCL, in slot 1, accepted. -/
def tClosing : State := { tUp.setOp 1 { tOp 2 .running with step := some 0, opA := 0 } with steps := [{ tStep with stcl := some 1 }] }

theorem witness_StopOpensOneStepAtATime : Accepts (tWith 1 .issued) 0 1 (tOp 1 .issued) ∧ Clean (tOp 1 .issued) ∧ (tWith 1 .issued).steps = []
    ∧ (let o := { tOp 1 .issued with opA := 1 }
       Accepts (tSlot tClosing o) 0 1 o ∧ ∃ x, (tSlot tClosing o).steps = [x] ∧ x.stcl ≠ none ∧ o.opA % 2 ^ 32 = (x.num + 1) % 2 ^ 32)
    ∧ (let o := { tOp 1 .issued with opA := 2 }
       Accepts (tSlot tClosing o) 0 1 o ∧ ¬ ((tSlot tClosing o).steps = [] ∨ ∃ x, (tSlot tClosing o).steps = [x] ∧ x.stcl ≠ none ∧ o.opA % 2 ^ 32 = (x.num + 1) % 2 ^ 32)) := by
  refine ⟨accepts (by decide), ⟨rfl, rfl⟩, rfl, ⟨accepts (by decide), _, rfl, by decide, by decide⟩, accepts (by decide), ?_⟩
  rintro (h | ⟨x, h, _, h3⟩)
  · exact absurd h (by decide)
  · obtain rfl : x = { tStep with stcl := some 1 } := (List.cons.inj h).1.symm
    exact absurd h3 (by decide)

/-- A step about to open, region 1 of K8 with a carry due in its entry 0, and an operation that reads it. -/
def tSweep : State :=
  { tSlot tUp { tOp 0x10 .running with ranges := [rngL 0 4096 false] } with
    steps := [StepSt.fresh 0 0]
    store := [(75, 1), (81, 16), (94, 2), (95, 1), (102, 3), (262147, 1), (262206, 133), (262207, 108)] }

theorem witness_OpeningLatchesSeedAndRegime_sweep : sweepWaits tSweep (StepSt.fresh 0 0) = true := by
  have h : (1, tSweep.region 1) ∈ sweptRegions tSweep (velRegions tSweep) :=
    mem_sweptRegions_of_carry (mem_velRegions (by decide) (by decide +kernel)) (by decide +kernel)
  refine List.any_eq_true.2 ⟨(0, { tOp 0x10 .running with ranges := [rngL 0 4096 false] }), by decide, ?_⟩
  refine Bool.and_eq_true_iff.2 ⟨rfl, List.any_eq_true.2 ⟨rngL 0 4096 false, by simp, List.any_eq_true.2 ⟨rngL 0 4096 true, ?_, by decide⟩⟩⟩
  exact List.mem_flatMap.2 ⟨_, h, by decide +kernel⟩

theorem witness_OpeningLatchesSeedAndRegime : (∃ x rest, ({ tUp with steps := [StepSt.fresh 0 0] } : State).steps = x :: rest ∧ x.opened = false
      ∧ ({ tUp with steps := [StepSt.fresh 0 0] } : State).live = true ∧ sweepWaits { tUp with steps := [StepSt.fresh 0 0] } x = false) ∧ tUp.steps = [] ∧ ∃ x rest, tOpen.steps = x :: rest ∧ x.opened = true :=
  ⟨⟨_, _, rfl, rfl, by decide, by simp [sweepWaits, show busySlots { tUp with steps := [StepSt.fresh 0 0] } = [] from rfl]⟩, rfl, _, _, rfl, rfl⟩

/-- A barrier descriptor of this device alone: one member, device 0. -/
def tBar : State := { tSlot tOpen { tOp 2 .issued with doff := 0 } with store := [(4, 1)] }

theorem witness_StclStartsTheClose :
    (let o := { tOp 2 .issued with doff := 0xFFFFFF }; let s := tSlot tOpen o
     Accepts s 0 2 o ∧ (badAddr (s.setOp 0 { o with step := some 0 }) (storeBase + o.doff * 64) 64).isSome = true)
    ∧ (let o := tOp 2 .issued; let s0 := (tSlot tOpen o).setOp 0 { o with step := some 0 }
       Accepts (tSlot tOpen o) 0 2 o ∧ badAddr s0 storeBase 64 = none ∧ fieldAt (descAt s0 0 64) 4 2 = 0)
    ∧ (let o := tOp 2 .issued; let s := { tBar with store := [(4, 1), (5, 0x10)] }; Accepts s 0 2 o ∧ fieldAt (descAt (s.setOp 0 { o with step := some 0 }) 0 64) 4 2 = 4097)
    ∧ (let o := { tOp 2 .issued with doff := 0xAFFFFF }; let s := tSlot { tOpen with store := [(738197444, 1)] } o
       let s0 := s.setOp 0 { o with step := some 0 }
       Accepts s 0 2 o ∧ badAddr s0 (storeBase + o.doff * 64) 64 = none ∧ fieldAt (descAt s0 o.doff 64) 4 2 = 1 ∧ (badAddr s0 (storeBase + o.doff * 64) 66).isSome = true)
    ∧ (let o := tOp 2 .issued; let s0 := tBar.setOp 0 { o with step := some 0 }; let b := descAt s0 0 66
       Accepts tBar 0 2 o ∧ badAddr s0 storeBase 64 = none ∧ badAddr s0 storeBase 66 = none ∧ fieldAt (descAt s0 0 64) 4 2 = 1 ∧ barrierOk s0 (parseBarD b) = true
         ∧ ∃ x, stepOf s0 0 = some x ∧ x.stcl = none)
    ∧ (let s := { tBar with store := [(4, 1), (64, 1)] }; Accepts s 0 2 (tOp 2 .issued) ∧ barrierOk s (parseBarD (descAt s 0 66)) = false)
    ∧ (let s := { tBar with steps := [] }; Accepts s 0 2 (tOp 2 .issued) ∧ stepOf s 0 = none)
    ∧ (let s := { tBar with steps := [{ tStep with stcl := some 1 }] }; Accepts s 0 2 (tOp 2 .issued) ∧ ∃ x, stepOf s 0 = some x ∧ x.stcl ≠ none) :=
  ⟨⟨accepts (by decide), by decide⟩, ⟨accepts (by decide), by decide, by decide⟩, ⟨accepts (by decide), by decide⟩,
    ⟨accepts (by decide), by decide, by decide +kernel, by decide⟩,
    ⟨accepts (by decide), by decide, by decide, by decide, by decide, _, rfl, rfl⟩, ⟨accepts (by decide), by decide +kernel⟩, ⟨accepts (by decide), rfl⟩,
    accepts (by decide), _, rfl, by decide⟩

/-- Step 0 with its STCL in slot 1, at a stage of its barrier of this device alone. -/
def tRound (r : Round) : State :=
  { tUp.setOp 1 { tOp 2 .running with step := some 0, desc := [0, 0, 0, 0, 1, 0] ++ List.replicate 60 0 } with
    steps := [{ tStep with stcl := some 1, round := r }] }

/-- A contribution of device 0, alone in its barrier. -/
def tContrib (group n present list : Nat) : Contrib :=
  { dev := 0, round := n, step := 0, group := group, wish := 0, fold := 0, present := present, count := 1, list := list, ovf := [] }

/-- The barrier of device 0 alone. -/
def tBarD : BarD := parseBarD ([0, 0, 0, 0, 1, 0] ++ List.replicate 60 0)

/-- The same with the contribution of this device to a round held. -/
def tHeldRound (r : Round) (n : Nat) : State :=
  { tRound r with fab := { (tRound r).fab with contribs := [tContrib tBarD.group n (presentDigest (tRound r) tBarD) tBarD.list] } }

theorem heldRound_bar (r : Round) (n : Nat) : barOf (tHeldRound r n) 0 = some tBarD := by
  have h1 : (stepOf (tHeldRound r n) 0).bind (fun x => x.stcl) = some 1 := rfl
  have h2 : (tHeldRound r n).op 1 = some { tOp 2 .running with step := some 0, desc := [0, 0, 0, 0, 1, 0] ++ List.replicate 60 0 } := rfl
  simp only [barOf, h1, h2, Option.map_some, tBarD]
theorem tBarD_members : tBarD.members = [0] := rfl
theorem tRound_dev (r : Round) : (tRound r).dev = 0 := by
  have h0 : fld Sched.reset.fabcfg 27 16 = 0 := by decide
  exact h0
theorem heldRound_contribs (r : Round) (n : Nat) : 
   (tHeldRound r n).fab.contribs = [tContrib tBarD.group n (presentDigest (tRound r) tBarD) tBarD.list] := rfl
theorem heldRound_present (r : Round) (n : Nat) : presentSet (tHeldRound r n) tBarD = [0] := by
  have hd : (tHeldRound r n).dev = 0 := tRound_dev r
  simp [presentSet, tBarD_members, hd]
theorem tRound_present (r : Round) : presentSet (tRound r) tBarD = [0] := by
  simp [presentSet, tBarD_members, tRound_dev]
theorem roundContribs_alone {s : State} {n round : Nat} {d : BarD} {k : Contrib} (hb : barOf s n = some d) (hp : presentSet s d = [0])
    (hc : s.fab.contribs = [k]) (h1 : k.dev = 0 ∧ k.step = n ∧ k.round = round)
    (h2 : k.group = d.group ∧ k.count = d.members.length ∧ k.list = d.list ∧ k.present = presentDigest s d) : (roundContribs s n round).isSome = true := by
  unfold roundContribs
  rw [hb]
  dsimp only
  rw [hp, hc]
  simp [h1, h2]

theorem heldRound_digest (r : Round) (n : Nat) : presentDigest (tRound r) tBarD = presentDigest (tHeldRound r n) tBarD := by
  unfold presentDigest; rw [heldRound_present, tRound_present]

theorem heldRound (r : Round) (n : Nat) : (roundContribs (tHeldRound r n) 0 n).isSome = true :=
  roundContribs_alone (heldRound_bar r n) (heldRound_present r n) (heldRound_contribs r n) ⟨rfl, rfl, rfl⟩
    ⟨rfl, by rw [tBarD_members]; rfl, rfl, heldRound_digest r n⟩

theorem witness_BarrierRoundsRunInOrder :
    (let s := tRound .none; ∃ x rest, s.steps = x :: rest ∧ x.stcl = some 1 ∧ x.num = (0 : W32).toNat ∧ s.live = true ∧ x.opened = true ∧ x.round = .none
      ∧ stepIdle s x.num 1 = true)
    ∧ (let s := (tRound .none).setOp 0 { tOp 0x10 .running with step := some 0 }; stepIdle s 0 1 = false)
    ∧ (∃ x, stepOf (tRound .aSent) 0 = some x ∧ x.round = .aSent ∧ (tRound .aSent).live = true ∧ (roundContribs (tRound .aSent) x.num 0).isSome = false)
    ∧ (∃ x, stepOf (tRound .aDone) 0 = some x ∧ x.round = .aDone ∧ x.again = false ∧ updsSettled (tRound .aDone) x.num = true)
    ∧ (∃ x, stepOf { tRound .aDone with steps := [{ tStep with stcl := some 1, round := .aDone, again := true }] } 0 = some x ∧ x.round = .aDone ∧ x.again = true)
    ∧ updsSettled ((tRound .aDone).setOp 0 { tOp 0x20 .running with step := some 0 }) 0 = false
    ∧ (∃ x, stepOf (tRound .bSent) 0 = some x ∧ x.round = .bSent ∧ (roundContribs (tRound .bSent) x.num 1).isSome = false)
    ∧ ∃ x, stepOf (tRound .bDone) 0 = some x ∧ x.round = .bDone :=
  ⟨⟨_, _, rfl, rfl, rfl, by decide, rfl, rfl, by decide⟩, by decide, ⟨_, rfl, rfl, by decide, by decide⟩, ⟨_, rfl, rfl, rfl, by decide⟩, ⟨_, rfl, rfl, rfl⟩, by decide,
    ⟨_, rfl, rfl, by decide⟩, _, rfl, rfl⟩

/-- Step 0 in round A, measured first, its UPD a trial over per-step region 1, whose entry 0 overflowed. -/
def tPass : State :=
  { (tRound .aDone).setOp 0 { tOp 0x20 .running with step := some 0, trial := true } with
    store := [(75, 1), (81, 16), (94, 2), (95, 33), (102, 3)] }
/-- That step. -/
def tPassStep : StepSt := { tStep with stcl := some 1, round := .aDone, mfirst := true, ovf := [0] }

theorem witness_BarrierRoundsRunInOrder_pass : passRepeats tPass tPassStep = true ∧ passRepeats tPass { tPassStep with mfirst := false } = false := by
  refine ⟨?_, rfl⟩
  unfold passRepeats
  simp only [velOwner_velRegions]
  decide +kernel

theorem witness_BarrierRoundsComplete : (∃ x, stepOf (tHeldRound .aSent 0) 0 = some x ∧ x.round = .aSent) ∧ (roundContribs (tHeldRound .aSent 0) 0 0).isSome = true
    ∧ (∃ x, stepOf (tHeldRound .bSent 1) 0 = some x ∧ x.round = .bSent) ∧ (roundContribs (tHeldRound .bSent 1) 0 1).isSome = true :=
  ⟨⟨_, rfl, rfl⟩, heldRound _ _, ⟨_, rfl, rfl⟩, heldRound _ _⟩

/-- A FENC behind an operation of its stream. -/
def tFenc : State := (tSlot tUp { tOp 3 .waiting with seq := 1 }).setOp 1 (tOp 0x10 .running)

theorem witness_FencWaitsForItsStream :
    (let o := tOp 3 .waiting; let s := tSlot tUp o; s.op 0 = some o ∧ o.opc = 3 ∧ s.live = true ∧ o.phase = .waiting ∧ o.status = 0 ∧ o.voids = none ∧ streamClear s o = true)
    ∧ (let o := { tOp 3 .waiting with seq := 1 }; tFenc.op 0 = some o ∧ streamClear tFenc o = false ∧ streamClear tFenc { o with fb := true, opc := 0x10 } = false)
    ∧ (let f := tOp 3 .waiting; let s := tSlot tUp f; (0, f) ∈ busySlots s ∧ f.src = .core 0 0 ∧ f.stream = (tOp 0x10 .waiting).stream ∧ f.seq < 1) := by decide

/-- With every power domain up. -/
def tOn (s : State) : State := { s with mgmt := { s.mgmt with pwrstat := 0xFFFFFFFFFFFFFFFF } }

/-- Do the conditions of dispatch hold for o in slot 0? -/
def dispatchOk (s : State) (o : Op) : Bool :=
  decide (s.op 0 = some o) && decide (o.src = .core 0 0) && decide (o.phase = .waiting) && s.live && !(streamBehind s o) && !o.fb && !(rangeBlocked s o)
    && stepReady s o && (!o.vectorOp || (freeCtxNo s).isSome) && (!o.arrayOp || arrayFree s) && (opDomains s o).all (powered s)
    && (!o.touchesDram || s.dramUp) && !(awaitsMove s o) && (decide (o.opc ≠ 0x60) || alone s 0) && (decide (o.opc ≠ 0x20) || updReady s o)

theorem witness_DispatchWaitsForItsConditions :
    (let o := tOp 0x10 .running; (tSlot tUp o).op 0 = some o ∧ dispatchable (tSlot tUp o) 0 o = false)
    ∧ (∀ opc ∈ [0x10, 0x30, 0x40, 0x60], let o := tOp opc .waiting; let s := tOn (tSlot tUp o); dispatchOk s o = true ∧ startFinds s o = none)
    ∧ (let o := { tOp 0x24 .waiting with imgs := [(0, { tUp.region 0 with bsz := 1 })] }; let s := tOn (tSlot tUp o); dispatchOk s o = true ∧ startFinds s o = some (0x18, 0))
    ∧ (let o := { tOp 0x15 .waiting with src := .remote 1 2 3 }; (tSlot tUp o).op 0 = some o ∧ dispatchable (tSlot tUp o) 0 o = true) := by decide +kernel

theorem witness_CompletionSettlesAnOperation :
    (let o := tOp 0x10 .running; (tSlot tUp o).op 0 = some o ∧ o.phase ≠ .ended)
    ∧ (let o := tOp 0x10 .ended; let s := tSlot tUp o
       s.op 0 = some o ∧ o.phase = .ended ∧ s.failstop = false ∧ parityHeld s 0 = false ∧ deliveryHeld s 0 o = false ∧ o.src = .core 0 0)
    ∧ (∀ x ∈ [Source.host 3, .remote 1 2 3, .sub 1, .plan, .again], let o := { tOp 0x10 .ended with src := x }; let s := tSlot tUp o
       s.op 0 = some o ∧ o.phase = .ended ∧ s.failstop = false ∧ parityHeld s 0 = false ∧ deliveryHeld s 0 o = false)
    ∧ (∀ h : Bool, let o := { tOp 0x10 .ended with hold := h }; let s := tSlot tUp o
       s.op 0 = some o ∧ o.crec = false ∧ o.hold = h ∧ waitedFor s 0 o = false ∧ parityHeld s 0 = false ∧ deliveryHeld s 0 o = false)
    ∧ (let q := { Strm.core 0 with cqbase := 1, cqlog := 4 }
       let s := (tSlot tUp (tOp 0x10 .recHeld)).setStrm 0 { q with heldRecs := [0] }
       s.strm 0 = some { q with heldRecs := [0] } ∧ cqFull s { q with heldRecs := [0] } = false ∧ s.failstop = false ∧ s.op 0 = some (tOp 0x10 .recHeld)
         ∧ q.resident = true ∧ pushHeld s 0 = false
         ∧ cqFull { s with store := [(68, 16)] } { q with heldRecs := [0] } = true)
    ∧ tUp.strm 0 = some (Strm.core 0) ∧ (Strm.core 0).heldRecs = [] := by decide

theorem witness_RetriedSlotsAreQuarantined :
    (let o := { tOp 0x10 .ended with retried := true }; o.hold = false ∧ o.retried = true)
    ∧ (let o := { tOp 0x10 .ended with retried := true, src := .plan }; let s := tSlot tUp o
       s.op 0 = some o ∧ o.phase = .ended ∧ s.failstop = false ∧ parityHeld s 0 = false ∧ deliveryHeld s 0 o = false ∧ o.src = .plan ∧ o.retried = true)
    ∧ ({ tOp 0x10 .held with retried := true } : Op).phase = .held
    ∧ (let s := tUp.setSlot 0 { gen := 0, st := .quarantine 7 }; (s.slot 0).st = .quarantine 7 ∧ s.failstop = false) ∧ (tUp.slot 0).st = .free := by decide

/-- A COPY whose descriptor, at DOFF 0, copies the first 64 bytes of the store to the next 64. -/
def tCopy : State := { tWith 0x10 .issued with store := [(5, 2), (8, 0x40), (13, 2), (16, 0x40)] }

theorem witness_OperationsAreAccepted :
    (∃ w, opRowOf (.copy 0 1) = some w ∧ Accepts tCopy w.slot w.opc (tOp 0x10 .issued)
      ∧ ∃ rs imgs desc prog, w.chk (tCopy.setOp 0 (tagged tCopy (tOp 0x10 .issued))) (tagged tCopy (tOp 0x10 .issued)) = .ok rs imgs desc prog)
    ∧ (∃ w, opRowOf (.copy 0 1) = some w ∧ Accepts (tWith 0x10 .issued) w.slot w.opc (tOp 0x10 .issued)
      ∧ w.chk ((tWith 0x10 .issued).setOp 0 (tagged tUp (tOp 0x10 .issued))) (tagged tUp (tOp 0x10 .issued)) = .illegal)
    ∧ (let o := { tOp 0x10 .issued with doff := 0xFFFFFF }
       ∃ w, opRowOf (.copy 0 1) = some w ∧ Accepts (tSlot tUp o) w.slot w.opc o ∧ ∃ st d, w.chk ((tSlot tUp o).setOp 0 (tagged tUp o)) (tagged tUp o) = .bad st d)
    ∧ (let s := { tCopy with sched := { tCopy.sched with fnstat := 0xC000 } }
       Accepts s 0 0x10 (tOp 0x10 .issued) ∧ acceptFinds s (tOp 0x10 .issued) false false ≠ 0) :=
  ⟨⟨_, rfl, accepts (by decide), _, _, _, _, rfl⟩, ⟨_, rfl, accepts (by decide), rfl⟩, ⟨_, rfl, accepts (by decide), _, _, rfl⟩, accepts (by decide), by decide⟩

theorem witness_OperationsDoTheirWork :
    ∀ i ∈ [Instr.copy 0 1, .import_ 0 ⟨0, 0, 0, 0⟩, .export_ 0 ⟨0, 0, 0, 0⟩, .rread 0, .rwrite 0, .racc 0, .acc 0, .smp 0, .gth 0 1, .sct 0 1, .clrs 0, .mma 0 1, .vop 0 1,
      .draw 0 ⟨5, false, 0, 0, 0, 0, 0, 0, 0, 0, false, 0, 0⟩, .comb 0 1, .flush 0],
    ∃ w, opRowOf i = some w ∧ Works (tWith w.opc .running) w.slot w.opc (tOp w.opc .running) := by
  intro i hi
  simp only [List.mem_cons, List.not_mem_nil, or_false] at hi
  rcases hi with rfl | rfl | rfl | rfl | rfl | rfl | rfl | rfl | rfl | rfl | rfl | rfl | rfl | rfl | rfl | rfl <;> exact ⟨_, rfl, works (by decide)⟩

theorem witness_ContextOperationsQuiesceTheDevice : Works (tWith 0x60 .running) 0 0x60 (tOp 0x60 .running) ∧ Works (tWith 0x61 .running) 0 0x61 (tOp 0x61 .running)
    ∧ (Accepts (tWith 0x60 .issued) 0 0x60 (tOp 0x60 .issued)
      ∧ ∃ r, exec (.ctxs 0) (tWith 0x60 .issued) = .next r ∧ (r.op 0).any (fun o => decide (o.phase = .waiting)) = true)
    ∧ Accepts (tWith 0x61 .issued) 0 0x61 (tOp 0x61 .issued)
      ∧ ∃ r, exec (.ctxr 0) (tWith 0x61 .issued) = .next r ∧ (r.op 0).any (fun o => decide (o.phase = .waiting)) = true :=
  ⟨works (by decide), works (by decide), ⟨accepts (by decide), _, rfl, by decide +kernel⟩, accepts (by decide), _, rfl, by decide +kernel⟩

/-- Region 0 of 64 KiB of RAW bytes at store offset 16 MiB, and there the header of an image without sections. -/
def tImaged : List Host.Cell := [(3, 1), (5, 2), (18, 1), (31, 1), (37, 1), (16777216, 1)]
/-- Descriptor of a context of sections `sect` there. -/
def tCtxDesc (sect : Byte) : List Byte :=
  leBytes 8 (storeBase + 0x1000000) ++ leBytes 4 0 ++ [sect, 0] ++ leBytes 10 0 ++ leBytes 8 65536 ++ List.replicate 32 0
/-- A context operation at work on it. -/
def tCtx (opc : Nat) (sect : Byte) : Op := { tOp opc .running with desc := tCtxDesc sect }
/-- Its state. -/
def tCtxS (opc : Nat) (sect : Byte) : State := { tSlot tUp (tCtx opc sect) with store := tImaged }

theorem witness_ContextOperationsQuiesceTheDevice_save : ∀ k ∈ [0, 2], let o := tCtx 0x60 k; let s := tCtxS 0x60 k; let d := parseCtx o.desc
    ((ctxImage s o d).2 = [] ↔ k = 0) ∧ saveBad s d (ctxImage s o d).2 = false ∧ remServer s d.dev d.addr = some s.dev
      ∧ (serveWrite s 0 (ownRefusal s (tenantOf s o) d.akey (d.addr + 4096) (pad64 (ctxImage s o d).2).length) (d.addr + 4096) (pad64 (ctxImage s o d).2)).2.1 < 0x10 := by
  decide +kernel

/-- The header of an image without sections, by Table 16-7: FORM 1, PART and STEPPING, no step, the SLAYs, SCALEPOL, FABCFG; its last bytes are the CRC. -/
def tImage : List Host.Cell :=
  [(0, 1), (2, 12), (3, 16), (8, 255), (9, 255), (10, 255), (11, 255), (18, 4), (20, 192), (21, 3), (22, 64), (24, 192), (25, 2), (27, 1), (28, 1), (32, 128),
    (33, 2), (34, 8), (35, 8), (48, 200), (50, 200), (52, 4), (53, 64), (54, 4), (4092, 94), (4093, 224), (4094, 171), (4095, 191)]
/-- Its state: the region of 64 KiB, and the image at its start. -/
def tRestore : State := { tCtxS 0x61 0 with store := [(3, 1), (5, 2), (18, 1), (31, 1), (37, 1)] ++ tImage.map (fun e => (16777216 + e.1, e.2)) }
/-- Its first bytes. -/
def tImHead : List Byte := readBytes tRestore.store 16777216 56
/-- All of them. -/
def tIm : List Byte := tImHead ++ (List.replicate 4036 0 ++ [94, 224, 171, 191])

theorem rdLocal_add (s : State) (a m n : Nat) : rdLocal s a (m + n) = rdLocal s a m ++ rdLocal s (a + m) n := by
  induction m generalizing a with
  | zero => simp [rdLocal]
  | succ m ih => rw [Nat.succ_add, rdLocal, rdLocal, ih (a + 1), List.cons_append, Nat.add_assoc, Nat.add_comm 1 m]

theorem rdLocal_zero {s : State} {a n : Nat} (h : ∀ i, i < n → localByte s (a + i) = 0) : rdLocal s a n = List.replicate n 0 := by
  induction n generalizing a with
  | zero => rfl
  | succ n ih =>
    rw [rdLocal, List.replicate_succ, ih (a := a + 1) (fun i hi => by have := h (i + 1) (by omega); rwa [Nat.add_assoc, Nat.add_comm 1 i])]
    exact congrArg (· :: _) (h 0 (by omega))

theorem tRestore_gap : rdLocal tRestore (storeBase + 16777272) 4036 = List.replicate 4036 0 := by
  refine rdLocal_zero (fun i hi => ?_)
  have hs : inStore (storeBase + 16777272 + i) = true := by
    unfold inStore
    have h1 : (16777272 : Nat) + 4036 < storeSize := by decide
    exact Bool.and_eq_true_iff.2 ⟨decide_eq_true (by omega), decide_eq_true (by omega)⟩
  rw [localByte, if_pos hs, show storeBase + 16777272 + i - storeBase = 16777272 + i by omega]
  have h : ∀ e ∈ tRestore.store, e.1 < 16777272 ∨ 16777272 + 4036 ≤ e.1 := by decide
  have key : ∀ (m : List Host.Cell) (k : Nat), (∀ e ∈ m, e.1 ≠ k) → mget (fun _ => 0) m k = 0 := by
    intro m k hm
    induction m with
    | nil => rfl
    | cons e m ih => rw [mget, if_neg (hm e (by simp)), ih (fun e he => hm e (by simp [he]))]
  exact key _ _ (fun e he => by have := h e he; omega)

theorem tRestore_read : rdLocal tRestore (storeBase + 16777216) 4096 = tIm := by
  rw [show 4096 = 56 + (4036 + 4) from rfl, rdLocal_add, rdLocal_add, show storeBase + 16777216 + 56 = storeBase + 16777272 from rfl, tRestore_gap]
  rw [show rdLocal tRestore (storeBase + 16777216) 56 = tImHead by decide +kernel,
    show rdLocal tRestore (storeBase + 16777272 + 4036) 4 = [94, 224, 171, 191] by decide +kernel]
  rfl

/-- The register of the CRC over a run of bytes. -/
def crcRun (c : Nat) (bs : List Byte) : Nat := bs.foldl (fun c b => times crc32bit 8 (c ^^^ b.toNat)) c

/-- It after the header's first bytes, and after each further 101 zeros. -/
def tCrcs : List Nat := [1774458453, 2150628313, 4112845273, 988130861, 1643716973, 3500618739, 4228936403, 1787625452, 3395558949, 2319141020, 237516022, 1946196050,
  3793352183, 3127337338, 2656454195, 42859834, 1347259640, 1854958490, 1937816937, 1604081819, 2247459008, 4269762555, 2810054021, 636814909, 1526076419,
  2046040224, 3955905010, 279066844, 1919518809, 2992998681, 3376618431, 4008465046, 2342348482, 1809254597, 4111730964, 3704334597, 2532686717, 3924391124,
  1222273442, 4192449921, 1079254945]

theorem tCrcs_step : ∀ i, i < 40 → crcRun (tCrcs.getD i 0) (List.replicate 101 0) = tCrcs.getD (i + 1) 0 := by decide +kernel

theorem tCrcs_zeros (n : Nat) (h : n ≤ 40) : crcRun (tCrcs.getD 0 0) (List.replicate (101 * n) 0) = tCrcs.getD n 0 := by
  induction n with
  | zero => rfl
  | succ n ih =>
    rw [Nat.mul_succ, List.replicate_add, crcRun, List.foldl_append]
    exact (congrArg (fun c => crcRun c (List.replicate 101 0)) (ih (by omega))).trans (tCrcs_step n (by omega))

theorem tImHead_length : tImHead.length = 56 := by decide +kernel
theorem tIm_length : tIm.length = 4096 := by
  rw [tIm, List.length_append, List.length_append, tImHead_length, List.length_replicate]
  rfl

/-- The bytes that an image's CRC covers. -/
theorem crc_covers {h z t : List Byte} (hh : h.length = 56) (hz : z.length = 4036) (ht : t.length = 4) (w : List Byte) :
    (h ++ (z ++ t)).take 4092 ++ w ++ ((h ++ (z ++ t)).take 4096).drop 4096 = h ++ (z ++ w) := by
  have h1 : (h ++ (z ++ t)).take 4096 = h ++ (z ++ t) := List.take_of_length_le (by simp; omega)
  rw [h1, List.drop_of_length_le (by simp; omega), List.append_nil, ← List.append_assoc, List.take_left' (by simp; omega), List.append_assoc]

theorem crc_field {h z t : List Byte} (hh : h.length = 56) (hz : z.length = 4036) (ht : t.length = 4) : fieldAt (h ++ (z ++ t)) 4092 4 = leNat t := by
  rw [fieldAt, ← List.append_assoc, List.drop_left' (by simp; omega), List.take_of_length_le (by omega)]

theorem crc32_append (a b : List Byte) : crc32 (a ++ b) = crcRun (crcRun 0xFFFFFFFF a) b ^^^ 0xFFFFFFFF := congrArg (· ^^^ 0xFFFFFFFF) List.foldl_append

theorem zeros_append {m n k : Nat} (h : m + n = k) : List.replicate m (0 : Byte) ++ List.replicate n 0 = List.replicate k 0 := by
  rw [← h, List.replicate_add]

theorem tIm_crc : crc32 (tImHead ++ (List.replicate 4036 0 ++ leBytes 4 0)) = 0xBFABE05E := by
  have h1 : crcRun 0xFFFFFFFF tImHead = tCrcs.getD 0 0 := by decide +kernel
  rw [show leBytes 4 0 = List.replicate 4 (0 : Byte) by decide, zeros_append (m := 4036) (n := 4) (k := 101 * 40) (by omega), crc32_append, h1, tCrcs_zeros 40 (Nat.le_refl _)]
  decide

theorem tIm_whole : imageWhole tIm = true := by
  have hl : imageLen tIm = 4096 := by decide +kernel
  have hz : (List.replicate 4036 (0 : Byte)).length = 4036 := List.length_replicate
  have hc : crc32 (tIm.take 4092 ++ leBytes 4 0 ++ (tIm.take 4096).drop 4096) = 0xBFABE05E :=
    (congrArg crc32 (crc_covers tImHead_length hz rfl (leBytes 4 0))).trans tIm_crc
  have hf : fieldAt tIm 4092 4 = 0xBFABE05E := (crc_field tImHead_length hz rfl).trans (by decide)
  have h0 : fieldAt tIm 0 2 = 1 := by decide +kernel
  unfold imageWhole
  rw [hl]
  dsimp only
  rw [hc, hf, h0, tIm_length]
  decide

theorem witness_ContextOperationsQuiesceTheDevice_restore : let o := tCtx 0x61 0; let d := parseCtx o.desc; let s := tRestore
    let x := serveRead s (ownRefusal s (tenantOf s o) d.akey d.addr 4096) d.addr 4096
    let n := cdiv (Nat.min (imageLen x.2.2.2) (2 ^ 41)) 64 * 64
    let y := serveRead s (ownRefusal s (tenantOf s o) d.akey d.addr n) d.addr n
    remServer s d.dev d.addr = some s.dev ∧ x.2.1 < 0x10 ∧ y.2.1 < 0x10 ∧ restoreBad s d y.2.2.2 = false ∧ imageLen y.2.2.2 ≤ d.cap := by
  have ho : ownRefusal tRestore (tenantOf tRestore (tCtx 0x61 0)) (parseCtx (tCtx 0x61 0).desc).akey (parseCtx (tCtx 0x61 0).desc).addr 4096 = none := by decide +kernel
  have ha : (parseCtx (tCtx 0x61 0).desc).addr = storeBase + 16777216 := by decide
  have hx : serveRead tRestore none (parseCtx (tCtx 0x61 0).desc).addr 4096 = (tRestore, 0, 0, tIm) := by rw [serveRead, ha, tRestore_read]
  have hl : imageLen tIm = 4096 := by decide +kernel
  have hn : cdiv (Nat.min 4096 (2 ^ 41)) 64 * 64 = 4096 := by decide
  dsimp only
  rw [ho, hx]
  dsimp only
  rw [hl, hn, ho, hx]
  dsimp only
  rw [hl]
  refine ⟨by decide +kernel, by decide, by decide, ?_, by decide +kernel⟩
  unfold restoreBad
  rw [tIm_whole]
  decide +kernel

/-! ### Updates -/

/-- A region descriptor of K8: 4,096 elements at DRAM 0 with block bytes at 16 MiB, over the Hoofs of HSET 0b11. -/
def tRegion : List Byte := writeAt (List.replicate 64 0) [(11, 1), (17, 0x10), (30, 2), (31, 1), (38, 3)]
/-- A UPD descriptor over the first block: no moments, no gradient, one micro-op at store offset 2,048. -/
def tUpdDesc : List Byte :=
  writeAt (List.replicate 128 0) [(64, 32), (67, 1), (68, 0xFF), (69, 0x0F), (70, 0xFF), (71, 0x0F), (72, 0xFF), (73, 0x0F), (74, 0xFF), (75, 0x0F), (76, 0xFF),
    (77, 0x0F), (88, 16), (100, 0xFF), (101, 0xFF), (102, 0xFF), (108, 0xFF), (109, 0xFF), (110, 0xFF)]
/-- A step open, spaces 0 and 1 over Hoofs 0 and 1 in units of 4,096 and 256 bytes, the region in descriptor 1, the UPD descriptor at DOFF 16. -/
def tUpdState : State :=
  { tOpen with
    store := writeBytes (writeBytes [] 64 tRegion) 1024 tUpdDesc
    sched := { tOpen.sched with dspca := [(0, 0x325), (1, 0x315)], dspcb := [(0, 0x100000000), (1, 0x1000100000010)] } }
/-- The UPD of that descriptor, VAR 2. -/
def tUpdOp (ph : OpPhase) : Op := { tOp 0x20 ph with var := 2, region := 1, doff := 16 }

/-- Does a check accept? -/
def chkOk : Chk → Bool
  | .ok .. => true
  | _ => false

theorem chk_of_ok {c : Chk} (h : chkOk c = true) : ∃ rs imgs desc prog, c = .ok rs imgs desc prog := by
  cases c with
  | ok a b c d => exact ⟨a, b, c, d, rfl⟩
  | illegal => simp [chkOk] at h
  | bad => simp [chkOk] at h

theorem witness_UpdatesAreAcceptedAsTrials :
    (let o := tUpdOp .issued
     Accepts (tSlot tUpdState o) 0 0x20 o ∧ fnRefuses (tSlot tUpdState o) [0] = false ∧ stepFor ((tSlot tUpdState o).setOp 0 (tagged (tSlot tUpdState o) o)) ≠ none
       ∧ ∃ rs imgs desc prog, updCheck ((tSlot tUpdState o).setOp 0 (tagged (tSlot tUpdState o) o)) (tagged (tSlot tUpdState o) o) = .ok rs imgs desc prog)
    ∧ (let o := tOp 0x20 .issued
       Accepts (tSlot tOpen o) 0 0x20 o ∧ Clean o ∧ updCheck ((tSlot tOpen o).setOp 0 (tagged (tSlot tOpen o) o)) (tagged (tSlot tOpen o) o) = .illegal) :=
  ⟨⟨accepts (by decide), by decide, by decide, chk_of_ok (by decide +kernel)⟩, accepts (by decide), ⟨rfl, rfl⟩, by decide +kernel⟩

/-- That UPD at work, its program the given words. -/
def tUpdRun (prog : List Nat) : Op :=
  { tUpdOp .running with rel := true, step := some 0, desc := tUpdDesc, imgs := [(1, parseRegion tRegion)], prog := prog }
/-- Its state. -/
def tUpdAt (prog : List Nat) : State := tSlot tUpdState (tUpdRun prog)

/-- Fields of a micro-op word. -/
def tMicro : MicroF := { d := 1, a := 2, b := 3, k := 0, imm := 0 }
/-- Its word for an OP. -/
def tMicroWord (op : Nat) : Nat := op * 2 ^ 26 + 1 * 2 ^ 22 + 2 * 2 ^ 18 + 3 * 2 ^ 14

/-- Does unit u of the UPD in slot t stand at the micro-op? -/
def microHere (s : State) (t : SlotId) (u op : Nat) (f : MicroF) : Bool :=
  match updUnit s t.toNat u with
  | some (o, _, x) => decide ((o.prog[x.upc]?).map parseMOp = some (mopOf op f))
  | none => false

theorem atMicro {s : State} {t : SlotId} {u op : Nat} {f : MicroF} (h : microHere s t u op f = true) : ∃ o c x, AtMicro s t u op f o c x := by
  unfold microHere at h
  split at h
  · rename_i o c x hu
    exact ⟨o, c, x, hu, by simpa using h⟩
  · simp at h

theorem witness_MicroOpsWriteTheirRegister : ∀ op ∈ [0x00, 0x01, 0x14, 0x15, 0x16, 0x18], ∃ o c x, AtMicro (tUpdAt [tMicroWord op]) 0 0 op tMicro o c x := by
  intro op hop
  refine atMicro ?_
  simp only [List.mem_cons, List.not_mem_nil, or_false] at hop
  rcases hop with rfl | rfl | rfl | rfl | rfl | rfl <;> decide +kernel

/-- Blocks of unit u of the UPD in slot t that its release holds for a verdict, where there is room; and whether its Tine works for a sibling. -/
def unitWant (s : State) (t : SlotId) (u : Nat) : Option (List Nat × Bool) :=
  (updUnit s t.toNat u).map (fun e =>
    let r := finishProgram s t.toNat e.1 e.2.1 (e.2.1.d.nops - e.2.2.upc) e.2.2
    let pl := unitPlace s e.2.1 u
    let sib := siblingUnit s e.2.1 u
    (if sib then List.range e.2.2.blocks.length else (sampleUpd r.1 pl.1 pl.2.1 e.2.2.blocks.length).2, sib))

/-- Where unit 0 of that UPD is worked on: Hoof, Antler and Tine. -/
def tPlace : Nat × Nat × Nat :=
  unitPlace (tUpdAt [0]) { d := parseUpd tUpdDesc, p := parseRegion tRegion, m1 := none, m2 := none, rm := none, st := none, g := none } 0

/-- With the shadow check on, and one block short of the next sample. -/
def tSampled : State := (tUpdAt [0]).setHoof tPlace.1 { (tUpdAt [0]).hoof tPlace.1 with blocks := [(tPlace.2.1, 2 ^ 20 - 1)] }
/-- With the unit's Tine masked: its sibling works for it. -/
def tSibling : State := (tUpdAt [0]).setHoof tPlace.1 { (tUpdAt [0]).hoof tPlace.1 with hflt := BitVec.ofNat 64 (2 ^ tPlace.2.2) }
/-- With the queue of held tiles full. -/
def tQueueFull (s : State) : State := { s with tines := [{ slot := 1, unit := 0, upc := 0, gap := 0, blocks := [], held := List.range 64 }] }

/-- The Antler of unit 0 as its reports number it. -/
def tAntler : Nat := tPlace.1 * 8 + tPlace.2.1

/-- Does the Antler of unit 0 report the last of the operation o, or nothing: its work done, its report still to come, and then no other's? -/
def antlerEnds (o : Op) : Option Bool :=
  let s := tSlot tUpdState o
  match updCtx o with
  | some c => if tAntler ∈ updAntlers s c ∧ tAntler ∉ o.reports ∧ antlerDone s 0 o c tAntler = true then
      some (allReported s { o with reports := o.reports ++ [tAntler] } c) else none
  | none => none

/-- That UPD, its unit done. -/
def tUpdDone : Op := { tUpdRun [0] with done := [0] }

theorem witness_UnitsAreReleasedAndReported :
    (unitWant (tUpdAt [0]) 0 0 = some ([], false) ∧ unitWant tSampled 0 0 = some ([0], false) ∧ heldTiles tSampled < 64)
    ∧ (unitWant tSibling 0 0 = some ([0], true) ∧ unitWant (tQueueFull tSibling) 0 0 = some ([0], true) ∧ heldTiles (tQueueFull tSibling) = 64)
    ∧ (unitWant (tQueueFull tSampled) 0 0 = some ([0], false) ∧ heldTiles (tQueueFull tSampled) = 64)
    ∧ (antlerEnds tUpdDone = some true ∧ antlerEnds { tUpdDone with trial := true } = some true ∧ antlerEnds { tUpdDone with aborted := true } = some true
      ∧ antlerEnds { tUpdDone with trial := true, aborted := true } = some true
      ∧ antlerEnds { tUpdDone with reports := [tAntler] } = none) ∧ tUp.op 0 = none :=
  ⟨⟨by decide +kernel, by decide +kernel, by decide +kernel⟩, ⟨by decide +kernel, by decide +kernel, by decide +kernel⟩,
    ⟨by decide +kernel, by decide +kernel⟩, ⟨by decide +kernel, by decide +kernel, by decide +kernel, by decide +kernel, by decide +kernel⟩, rfl⟩

/-- Blocks of that unit held for verdicts, in the unit as its program leaves it. -/
def tHeldUnit (held : List Nat) : Machine.Unit :=
  { slot := 0, unit := 0, upc := 1, gap := 0, blocks := [{ idx := 0, regs := [], next := [], sat := false, clamp := false, norm := [] }], held := held }

/-- A verdict of no error anywhere. -/
def tVerdict : Verdict := { tile := 0, retry := 0, ref1 := 0, ref2 := 0, ref3 := 0, group := 0 }

theorem witness_UnitsAreReleasedAndReported_verdict : ∀ held ∈ [[0], [0, 0]],
    let x := tHeldUnit held
    let s := { tUpdAt [0] with tines := [x] }
    Works s 0 0x20 (tUpdRun [0]) ∧ tineUnit s 0 0 = some x ∧ s.failstop = false
      ∧ (updCtx (tUpdRun [0])).any (fun c => (x.blocks[0]?).any (fun b => (updChk s 0 (tUpdRun [0]) c x 0 b).agrees 0 0)) = true := by
  intro held h
  simp only [List.mem_cons, List.not_mem_nil, or_false] at h
  rcases h with rfl | rfl <;> exact ⟨works (by decide), rfl, by decide, by decide +kernel⟩

/-- A filling bucket with the given units written. -/
def tBucket (units : List Nat) : Bucket := { Bucket.fresh 0 0 with st := .filling, units := units }
/-- A step armed with it, for a Herd of two devices; `btab` sets AUTO, `fl` the flush. -/
def tArmed (units : List Nat) (btab : Nat) (fl : Bool) : Armed :=
  { step := 0, slot := 0, wait := none, plan := List.replicate 16 0 ++ leBytes 8 64 ++ List.replicate 40 0, herd := [0, 1], herdTag := 0, btab := [btab], base := 0, cg := 0,
    ready := true, flushed := fl, buckets := [tBucket units], final := [], emitted := 0, maxabs := -128, ovfcnt := 0, flags := 0, retried := false, absent := none }
/-- Its state. -/
def tArm (units : List Nat) (btab : Nat) (fl : Bool) : State := { tUp with armed := [tArmed units btab fl] }

/-- What a statement about bucket 0 of that step asks, with what makes it due. -/
def armDue (s : State) (a : Armed) (b : Bucket) : Bool :=
  decide (bucketOf s 0 0 = some (a, b)) && s.live && decide (b.st = .filling) && decide (a.absent = none) && armedReady s a
    && decide (1 < a.n) && decide (0 < a.d.bucketLen (capOf s) 0) && decide (s.fab.rings = []) && s.armed.all (fun x => decide (x.wait = none))

theorem witness_BucketsTriggerWhenFull :
    (∀ us k fl, seatPlans (tArm us k fl) = tArm us k fl) ∧ armDue (tArm [] 0 true) (tArmed [] 0 true) (tBucket []) = true
    ∧ (let us := [0, capOf tUp]; armDue (tArm us 16 false) (tArmed us 16 false) (tBucket us) = true ∧ autoOf 16 = true
        ∧ extentUnits (capOf tUp) ((tArmed us 16 false).d.bucketLen (capOf tUp) 0) = us) :=
  ⟨fun _ _ _ => rfl, by decide +kernel, by decide +kernel⟩

/-! ### The vector engine -/

/-- A VOP descriptor whose binding 0 is region 1 with a span of 4,096 elements. -/
def tVopDesc : List Byte := writeAt (List.replicate 128 0) [(64, 1), (77, 0x10)]
/-- The word of a vector instruction, by Table 9-5. -/
def vecWordOf (op : Nat) (f : VecF) : Nat :=
  op + f.fn.toNat * 2 ^ 8 + f.vd.toNat * 2 ^ 16 + f.va.toNat * 2 ^ 21 + f.vb.toNat * 2 ^ 26 + f.msk.toNat * 2 ^ 31 + f.men.toNat * 2 ^ 36
    + f.bnd.toNat * 2 ^ 37 + f.imm.toNat * 2 ^ 48
/-- A VOP at work on region 1, in step `st`, whose program is one instruction. -/
def tVop (st : Option Nat) (op : Nat) (f : VecF) (r : Region := parseRegion []) : Op :=
  { tOp 0x40 .running with desc := tVopDesc, imgs := [(1, r)], step := st, prog := [vecWordOf op f] }
/-- It, its context 0 at vl and with the given vector registers. -/
def tVopCtx (st : Option Nat) (vl : Nat) (v : List (Nat × VReg)) (op : Nat) (f : VecF) (r : Region := parseRegion []) : State :=
  { tSlot tUp (tVop st op f r) with ctxs := [(0, { VCtx.fresh 0 vl with v := v })] }
/-- What the instruction of it works on. -/
def tEnv (st : Option Nat) (vl : Nat) (v : List (Nat × VReg)) (op : Nat) (f : VecF) (r : Region := parseRegion []) : VEnv :=
  { t := 0, o := tVop st op f r, n := 0, x := { VCtx.fresh 0 vl with v := v } }
/-- The VOP stands at its instruction. -/
def VecHere (st : Option Nat) (vl : Nat) (v : List (Nat × VReg)) (op : Nat) (f : VecF) (r : Region := parseRegion []) : Prop :=
  AtVec (tVopCtx st vl v op f r) 0 op f (tEnv st vl v op f r)

/-- Fields of a vector instruction. -/
def tVecF (fn : BitVec 8) (men : Bool) (imm : BitVec 16) : VecF := { fn := fn, vd := 4, va := 0, vb := 0, msk := 1, men := men, bnd := 0, imm := imm }

theorem vopAt_ctx (st : Option Nat) (vl : Nat) (v : List (Nat × VReg)) (op : Nat) (f : VecF) (r : Region) :
    vopAt (tVopCtx st vl v op f r) 0 = some (tEnv st vl v op f r) := by
  have h1 : (tVopCtx st vl v op f r).op 0 = some (tVop st op f r) := rfl
  have h2 : (tVopCtx st vl v op f r).live = true := by
    have : tUp.live = true := by decide
    exact this
  have h3 : running (tVopCtx st vl v op f r) 0 0x40 = some (tVop st op f r) := by
    unfold running
    rw [h1]
    exact if_pos ⟨rfl, rfl, h2⟩
  show (running (tVopCtx st vl v op f r) 0 0x40).map _ = _
  rw [h3]
  rfl

theorem vecHere {st : Option Nat} {vl : Nat} {v : List (Nat × VReg)} {op : Nat} {f : VecF} {r : Region}
    (h : vecOp (vecWordOf op f) = op ∧ vecFields (vecWordOf op f) = f) : VecHere st vl v op f r := by
  refine ⟨?_, rfl⟩
  unfold vecNext
  rw [show vopAt (tVopCtx st vl v op f r) (0 : Fin 8).val = some (tEnv st vl v op f r) from vopAt_ctx st vl v op f r]
  exact if_pos h

theorem witness_VectorLaneArithmetic : (∀ op ∈ [0x03, 0x04, 0x05, 0x06, 0x07, 0x0B], VecHere none 64 [] op (tVecF 0 false 0) ∧ VecHere none 64 [] op (tVecF 128 false 0))
    ∧ (∀ op ∈ [0x08, 0x09, 0x0C, 0x0D, 0x0F, 0x13], VecHere (some 0) 1024 [] op (tVecF 0 false 0))
    ∧ VecHere none 0 [] 0x0A (tVecF 0 false 0xFE00) ∧ VecHere none 0 [] 0x0A (tVecF 0 false 511)
    ∧ VecHere none 64 [] 0x0D (tVecF 131 false 0) ∧ VecHere none 64 [] 0x0E (tVecF 0 true 0) ∧ VecHere none 64 [] 0x0F (tVecF 0 false 0)
    ∧ (∀ op f, (tVop none op f).step = none ∧ (tVop (some 0) op f).step ≠ none) := by
  refine ⟨?_, ?_, vecHere (by decide), vecHere (by decide), vecHere (by decide), vecHere (by decide), vecHere (by decide), fun _ _ => ⟨rfl, by simp [tVop]⟩⟩
  · intro op h
    refine ⟨vecHere ?_, vecHere ?_⟩ <;> (revert op; decide +kernel)
  · intro op h
    refine vecHere ?_
    revert op
    decide +kernel

/-- A region of a wide format, and the region of K8. -/
def tFmt (fmt : Nat) : Region := { parseRegion tRegion with fmt := fmt }

theorem witness_VectorLoadsStoresAndTiles :
    (∀ fmt ∈ [0, fWIDE, fPAIR], ∀ op ∈ [0x01, 0x02, 0x18, 0x19], VecHere none 64 [] op (tVecF 0 false 1) (tFmt fmt)
      ∧ (tEnv none 64 [] op (tVecF 0 false 1) (tFmt fmt)).reg (tVecF 0 false 1) = some (tFmt fmt) ∧ (tFmt fmt).fmt = fmt)
    ∧ VecHere none 64 [] 0x1A (tVecF 0 false 0) ∧ (∀ fn ∈ [0x00, 0x11, 0x22, 0x03, 0x14], VecHere none 64 [] 0x1B (tVecF fn false 0))
    ∧ (∀ op ∈ [0x1C, 0x1D], VecHere none 64 [] op (tVecF 0 false 63) ∧ VecHere none 64 [] op (tVecF 1 false 63)) := by
  refine ⟨?_, vecHere (by decide +kernel), ?_, ?_⟩
  · intro fmt _ op h
    refine ⟨vecHere ?_, rfl, rfl⟩
    revert op; decide +kernel
  · intro fn h; refine vecHere ?_; revert fn; decide +kernel
  · intro op h; refine ⟨vecHere ?_, vecHere ?_⟩ <;> (revert op; decide +kernel)

/-- A permutation whose indices are all elements, and one that names none. -/
theorem witness_VectorLoadsStoresAndTiles_permutes :
    let inRange := fun (e : VEnv) (i : Nat) => match Num.trunc ((e.x.reg 0).lane i) with | some j => decide (0 ≤ j) && decide (j < e.x.vl) | none => false
    let f := tVecF 0 false 0
    (VecHere none 64 [] 0x12 f ∧ (List.range 64).all (inRange (tEnv none 64 [] 0x12 f)) = true)
    ∧ (let v := [(0, { VReg.zero with m := [(0, 1)], x := [(0, 1)] })]
       VecHere none 1 v 0x12 f ∧ (tEnv none 1 v 0x12 f).x.active f 0 = true ∧ inRange (tEnv none 1 v 0x12 f) 0 = false) :=
  ⟨⟨vecHere (by decide +kernel), by decide +kernel⟩, vecHere (by decide +kernel), by decide +kernel⟩

theorem witness_VectorReductionsAndWidePath : (∀ op ∈ [0x10, 0x11, 0x20, 0x21, 0x22, 0x23, 0x24, 0x25, 0x26, 0x27], VecHere none 64 [] op (tVecF 0 false 0))
    ∧ VecHere none 64 [] 0x10 (tVecF 7 false 0) ∧ (∀ op ∈ [0x10, 0x11, 0x26], VecHere none 0 [] op (tVecF 0 false 0))
    ∧ (List.range 64).filter ((tEnv none 64 [] 0x10 (tVecF 0 false 0)).x.active (tVecF 0 false 0)) = List.range 64
    ∧ (VecHere none 64 [] 0x22 (tVecF 1 false 0) ∧ (wideFn 1 ((VCtx.fresh 0 64).wide 0 0) ((VCtx.fresh 0 64).wide 0 0)).2 = false)
    ∧ (VecHere none 64 [] 0x22 (tVecF 0 false 0) ∧ (wideFn 0 ((VCtx.fresh 0 64).wide 0 0) ((VCtx.fresh 0 64).wide 0 0)).2 = true) := by
  refine ⟨?_, vecHere (by decide), ?_, by decide +kernel, ⟨vecHere (by decide), by decide +kernel⟩, vecHere (by decide), by decide +kernel⟩ <;>
    (intro op h; refine vecHere ?_; revert op; decide +kernel)

/-- A VOP whose program is SETVL alone. -/
def tVopV : State := tVopCtx none 64 [] 0x30 (tVecF 0 false 1024)
/-- The same with ABORT met. -/
def tVopAb : State := { tSlot tUp { tVop none 0x03 (tVecF 0 false 0) with aborted := true } with ctxs := [(0, VCtx.fresh 0 64)] }

theorem witness_VectorControl : (VecHere none 64 [] 0x30 (tVecF 0 false 1024) ∧ VecHere none 64 [] 0x30 (tVecF 1 false 0) ∧ VecHere none 64 [] 0x31 (tVecF 0 false 0))
    ∧ vopAt tVopV 0 = some (tEnv none 64 [] 0x30 (tVecF 0 false 1024)) ∧ vopAt tUp 0 = none ∧ vecNext tUp 0 0x03 (tVecF 0 false 0) = none
    ∧ (vecNext tVopAb 0 0x03 (tVecF 0 false 0)).any (fun e => e.stopped) = true :=
  ⟨⟨vecHere (by decide), vecHere (by decide), vecHere (by decide)⟩, vopAt_ctx _ _ _ _ _ _, rfl, rfl, by decide +kernel⟩

/-- That of a program's place: its end, with an iteration left and without, and its middle. -/
theorem witness_VectorControl_advance :
    (∀ n ∈ [0, 2], ∀ b : Bool, let s := tSlot tVopV { tVop none 0x30 (tVecF 0 false 1024) with desc := tVopDesc.set 8 n, aborted := b }
      (running s 0 0x40).any (fun o => o.aborted == b && (ctxOf s 0).any (fun c => decide (o.prog.length ≤ c.2.at_ + 1) && decide (n = 0 ↔ vopIter o.desc ≤ c.2.iter + 1))) = true)
    ∧ (let s := tSlot tVopV { tVop none 0x30 (tVecF 0 false 1024) with prog := [0, 0] }
       (running s 0 0x40).any (fun o => (ctxOf s 0).any (fun c => decide (c.2.at_ + 1 < o.prog.length))) = true) := by decide +kernel

/-! ### The host ports -/

/-- Host port 0 up. -/
def tPort (s : State) : State := s.setHport 0 { HPort.reset with up := true, mods := 8 }
/-- Port 0 up, space 0 placed. -/
def tHost : State := tPort tUpdState
/-- The same with the DRAM up. -/
def tHostD : State := { tHost with mgmt := { tHost.mgmt with pwrstat := 0xFFFFFFFFFFFFFFFF } }

/-- A message of requester `req` for one unit at an address. -/
def tMsg (req : BitVec 11) (stream : StreamId) (addr : BitVec 52) : HostMsg :=
  { kind := 0, last := true, req := req, stream := stream, ticket := 0, status := 0, len := 1, tag := 0, addr := addr, count := 0, payload := List.replicate 64 0 }

theorem witness_HostReadsAndWrites :
    hostUp tUp 0 = false ∧ (hostUp tHost 0 = true ∧ 64 < ({ tMsg 0 0 0 with len := 65 } : HostMsg).len.toNat ∧ (512 : BitVec 11).toNat / 512 ≠ 0)
    ∧ Arrives tHost 0 (tMsg 0 0 0) ∧ Arrives tHost 0 { tMsg 511 0 0 with len := 64 } ∧ Arrives tHostD 0 (tMsg 0 0 0)
    ∧ (hostRange tHost 0 0 64 = 0 ∧ hostWaits tHost true (tMsg 0 0 0) = true ∧ hostWaits tHost false (tMsg 0 0 0) = true)
    ∧ hostRange tHost 0 1 64 ≠ 0
    ∧ (unitsHeld tHostD (tMsg 0 0 0) = false ∧ unitsHeld { tHostD with host := { tHostD.host with hold := [{ tMsg 0 0 0 with kind := 2 }] } } (tMsg 0 0 0) = true)
    ∧ (hostRange tHostD 0 0 64 = 0 ∧ hostWaits tHostD true (tMsg 0 0 0) = false ∧ hostWaits tHostD false (tMsg 0 0 0) = false ∧ inCsr 0 = false ∧ inStore 0 = false)
    ∧ (hostRange tHostD 0 csrBase 64 = 0 ∧ inCsr csrBase = true ∧ hostWaits tHostD true (tMsg 0 0 (BitVec.ofNat 52 csrBase)) = false)
    ∧ (hostRange tHostD 0 storeBase 64 = 0 ∧ inCsr storeBase = false ∧ inStore storeBase = true ∧ hostWaits tHostD true (tMsg 0 0 (BitVec.ofNat 52 storeBase)) = false)
    ∧ (tMsg 0 0 0).payload.length = 64 :=
  ⟨by decide, ⟨by decide, by decide, by decide⟩, ⟨by decide, by decide, by decide⟩, ⟨by decide, by decide, by decide⟩, ⟨by decide, by decide, by decide⟩,
    by decide +kernel⟩

/-- Image of stream 16 of KIND 1, requester 0, window 1. -/
def tImg : List Byte := writeAt (List.replicate 64 0) [(0, 16), (2, 0x40), (24, 1)]

theorem witness_HostWordsAndStreams :
    (Arrives tHost 0 (tMsg 0 16 0) ∧ (tMsg 0 16 0).payload.length = 64 ∧ (openStrm tHost 16 (List.replicate 64 0) 1 (some 0)).2 ≠ 0
      ∧ (openStrm tHost 16 tImg 1 (some 0)).2 = 0)
    ∧ (let s := { tUp with mgmt := { tUp.mgmt with pwrstat := 0xFFFFFFFFFFFFFFFF } }.setHport 0 { HPort.reset with mods := 1 }
       s.live = true ∧ s.phase = .up ∧ powered s .hostp = true ∧ (s.hport 0).up = false ∧ (s.hport 0).training = false ∧ (s.hport 0).mods ≠ 0)
    ∧ (let k := { Strm.core 0 with kind := 1, pin := false }
       (∀ q ∈ [k, { k with infl := 1 }, { k with cmd := 2 }, { k with cmd := 1 }, { k with heldRecs := [0] }], (tUp.setStrm 16 q).live = true ∧ (tUp.setStrm 16 q).strm 16 = some q)
         ∧ k.infl = 0 ∧ k.heldRecs = [] ∧ k.closers = []) :=
  ⟨⟨⟨by decide, by decide, by decide⟩, by decide +kernel⟩, by decide +kernel, by decide +kernel⟩

/-! ### The fabric -/

/-- Fabric port 0 up. -/
def tFab : State := tUp.setFport 0 { FPort.reset with lstat := 1 }
/-- A packet with its checksum. -/
def tSeal (k : Packet) : Packet := { k with ecrc := BitVec.ofNat 32 (ecrcOf k) }
/-- A packet of a kind from device 1 to this device. -/
def tPk (kind : Byte) (payload : List Byte) : Packet := tSeal { bare kind.toNat 1 0 0 with payload := payload }

theorem tSeal_ecrc (k : Packet) : (tSeal k).ecrc.toNat = ecrcOf (tSeal k) := ecrc_checks k

theorem reaches_seal {s : State} {kd : Byte} {k : Packet} (hk : k.kind = kd)
    (h : (s.live && portUp s 0 && !(heldBack s 0 (tSeal k)) && !(packetMalformed (tSeal k)) && decide (k.dst.toNat = s.dev) && !(fromAbsent s (tSeal k))) = true)
    (he : (s.fport 0).ecrcBad = []) : Reaches s 0 kd (tSeal k) := by
  subst hk
  have hg : ecrcGood s (0 : FabPort).toNat (tSeal k) = s := by simp [ecrcGood, he]
  simp only [Bool.and_eq_true] at h
  obtain ⟨⟨⟨⟨⟨h1, h2⟩, h3⟩, h4⟩, h5⟩, h6⟩ := h
  have hc := tSeal_ecrc k
  refine ⟨?_, ?_⟩
  · show reaches s 0 (tSeal k) = true
    simp only [reaches, h1, h2, h3, h4, hc, decide_true, Bool.and_self, Bool.true_and]
    exact h5
  · show fromAbsent (ecrcGood s (0 : FabPort).toNat (tSeal k)) (tSeal k) = false
    rw [hg]
    simpa using h6

theorem reaches_of {kind : Byte} {payload : List Byte}
    (h : (tFab.live && portUp tFab 0 && !(heldBack tFab 0 (tPk kind payload)) && !(packetMalformed (tPk kind payload))
      && decide ((bare kind.toNat 1 0 0).dst.toNat = tFab.dev) && !(fromAbsent tFab (tPk kind payload))) = true) : Reaches tFab 0 kind (tPk kind payload) :=
  reaches_seal (by simp [bare]) h rfl

/-- An accumulate's first part of two. -/
def tPart : Packet := tSeal { bare 3 1 0 0 with payload := List.replicate 64 0, last := false }

/-- A key held for a request of device 1 with the given parts. -/
def tHeldKey (st : KeySt) (req : List Packet) : HKey :=
  { src := 1, ticket := 0, slot := none, st := st, req := req, reply := [], resends := 0, landed := 0, relAt := 0, pended := false, port := 0, via := 1 }
/-- With that key held. -/
def tKeyAt (st : KeySt) (req : List Packet) : State := { tFab with fab := { tFab.fab with keys := [tHeldKey st req] } }
/-- With a remote stream of device 1 open and slot 0 alone free. -/
def tRemote : State := { tFab.setStrm 0x80000 { Strm.core 0 with kind := 2, pin := false, owner := 1 } with freeq := [0] }

theorem witness_RequestsLandOnTheirTarget :
    (Reaches tFab 0 1 (tPk 1 []) ∧ Reaches tFab 0 2 (tPk 2 (List.replicate 64 0)) ∧ Reaches tFab 0 3 (tPk 3 (List.replicate 64 0)) ∧ Reaches tFab 0 4 (tPk 4 (List.replicate 64 0))
      ∧ Reaches tFab 0 5 (tPk 5 (List.replicate 64 0))) ∧ keyOf tFab 1 0 = none ∧ ({ tFab with quiesce := some 3 } : State).quiesce.isSome = true ∧ tFab.quiesce = none
    ∧ tFab.fab.keys.length < 65536 ∧ Reaches tFab 0 3 tPart
    ∧ (Reaches { tFab with freeq := [] } 0 1 (tPk 1 []) ∧ (openKey { tFab with freeq := [] } 0 (tPk 1 [])).isNone = true ∧ (openKey tFab 0 (tPk 1 [])).isSome = true)
    ∧ (Reaches tRemote 0 3 tPart ∧ tPart.last = false ∧ remoteStrm tRemote 1 0 = some 0x80000 ∧ tRemote.freeq = [0] ∧ keyOf tRemote 1 0 = none)
    ∧ (∀ st ∈ [KeySt.running, .replied], ∀ req ∈ [[tPk 1 []], []], Reaches (tKeyAt st req) 0 1 (tPk 1 []) ∧ keyOf (tKeyAt st req) 1 0 = some (tHeldKey st req)) := by
  refine ⟨⟨reaches_of (by decide +kernel), reaches_of (by decide +kernel), reaches_of (by decide +kernel), reaches_of (by decide +kernel), reaches_of (by decide +kernel)⟩,
    rfl, rfl, rfl, by decide, reaches_seal rfl (by decide +kernel) rfl, ⟨reaches_seal rfl (by decide +kernel) rfl, by decide +kernel, by decide +kernel⟩,
    ⟨reaches_seal rfl (by decide +kernel) rfl, rfl, by decide +kernel, rfl, rfl⟩, ?_⟩
  intro st hst req hr
  refine ⟨?_, rfl⟩
  simp only [List.mem_cons, List.not_mem_nil, or_false] at hr hst
  rcases hst with rfl | rfl <;> rcases hr with rfl | rfl <;> exact reaches_seal rfl (by decide +kernel) rfl

/-- A packet that answers the request of ticket 0xF000. -/
def tAns (kind : Byte) (last : Bool) : Packet := tSeal { bare kind.toNat 0 0 0xF000 with last := last }
/-- With that request sent and its operation in slot 0. -/
def tAsked : State := { tSlot tFab (tOp 0x13 .running) with fab := { tFab.fab with orig :=
  [{ slot := 0, ticket := 0xF000, dst := 1, packets := [], sentAt := 0, pend := false, retried := false, parts := [], lastPart := none, status := 0, fwdOf := none }] } }
/-- With a request of device 1 replied to, its operation in slot 0. -/
def tReplied : State := { tSlot tFab { tOp 0x13 .held with src := .remote 1 0 0 } with fab := { tFab.fab with keys :=
  [{ src := 1, ticket := 0, slot := some 0, st := .replied, req := [], reply := [], resends := 0, landed := 0, relAt := 0, pended := false, port := 0, via := 1 }] } }
/-- With devices 1 and 2 partners, and device 3 absent. -/
def tPair : State := { tFab with store := [(0, 6)], fab := { tFab.fab with absent := [3] } }

theorem witness_RepliesAndMessagesArrive :
    Reaches tFab 0 0x08 (tPk 0x08 []) ∧ Reaches tFab 0 0x09 (tPk 0x09 []) ∧ Reaches tFab 0 0x0A (tPk 0x0A []) ∧ Reaches tFab 0 0x0C (tPk 0x0C (List.replicate 128 0))
    ∧ (Reaches tFab 0 0x10 (tPk 0x10 (List.replicate 576 0)) ∧ barPayloadOk (tPk 0x10 (List.replicate 576 0)).payload = true ∧ barOf tFab 0 = none)
    ∧ (Reaches tFab 0 0x10 (tPk 0x10 (List.replicate 64 0)) ∧ barPayloadOk (tPk 0x10 (List.replicate 64 0)).payload = false)
    ∧ Reaches tFab 0 0x11 (tPk 0x11 []) ∧ Reaches tFab 0 0x12 (tPk 0x12 (List.replicate 64 0)) ∧ Reaches tFab 0 0x13 (tPk 0x13 (List.replicate 64 0)) :=
  ⟨reaches_of (by decide +kernel), reaches_of (by decide +kernel), reaches_of (by decide +kernel), reaches_of (by decide +kernel),
    ⟨reaches_of (by decide +kernel), by decide +kernel, rfl⟩, ⟨reaches_of (by decide +kernel), by decide +kernel⟩,
    reaches_of (by decide +kernel), reaches_of (by decide +kernel), reaches_of (by decide +kernel)⟩

theorem witness_RepliesAndMessagesArrive_answers :
    (Reaches tFab 0 0x08 (tAns 0x08 true) ∧ answered tFab (tAns 0x08 true) = none)
    ∧ (Reaches tAsked 0 0x08 (tAns 0x08 true) ∧ (answered tAsked (tAns 0x08 true)).isSome = true)
    ∧ (Reaches tAsked 0 0x09 (tAns 0x09 false) ∧ (answered tAsked (tAns 0x09 false)).any (fun e => decide (e.parts = []) && decide (e.lastPart = none)) = true)
    ∧ (Reaches tFab 0 0x0A (tPk 0x0A []) ∧ keyOf tFab 1 0 = none)
    ∧ (Reaches tReplied 0 0x0A (tPk 0x0A []) ∧ (keyOf tReplied 1 0).any (fun k => decide (k.st = .replied) && decide (k.slot = some 0)
        && (tReplied.op 0).any (fun o => o.ofKey k.src k.ticket && decide (o.phase = .held))) = true)
    ∧ (Reaches (tKeyAt .running []) 0 0x0A (tPk 0x0A []) ∧ (keyOf (tKeyAt .running []) 1 0).any (fun k => decide (k.st ≠ .replied)) = true) :=
  ⟨⟨reaches_seal rfl (by decide +kernel) rfl, by decide +kernel⟩, ⟨reaches_seal rfl (by decide +kernel) rfl, by decide +kernel⟩,
    ⟨reaches_seal rfl (by decide +kernel) rfl, by decide +kernel⟩, ⟨reaches_seal rfl (by decide +kernel) rfl, by decide +kernel⟩,
    ⟨reaches_seal rfl (by decide +kernel) rfl, by decide +kernel⟩, reaches_seal rfl (by decide +kernel) rfl, by decide +kernel⟩

/-- Payloads that R363 lets a Bleat and an EXCL have, and ones with a bit too many. -/
theorem witness_RepliesAndMessagesArrive_reserved :
    (let l := List.replicate 64 (0 : Byte); l.length = 64 ∧ fieldAt l 1 1 = 0 ∧ fieldAt l 6 2 < 4096 ∧ fieldAt l 8 24 = 0 ∧ fieldAt l 0 64 < 4096)
    ∧ (let l := 0 :: 1 :: List.replicate 62 (0 : Byte); Reaches tFab 0 0x12 (tPk 0x12 l) ∧ fieldAt l 1 1 ≠ 0)
    ∧ (let l := 0 :: 0x10 :: List.replicate 62 (0 : Byte); Reaches tFab 0 0x13 (tPk 0x13 l) ∧ ¬ fieldAt l 0 64 < 4096) :=
  ⟨by decide +kernel, ⟨reaches_of (by decide +kernel), by decide +kernel⟩, reaches_of (by decide +kernel), by decide +kernel⟩

theorem witness_RepliesAndMessagesArrive_absence :
    (let k := tSeal (bare 0x11 3 0 0); reaches tPair 0 k = true ∧ fromAbsent (ecrcGood tPair 0 k) k = true)
    ∧ (let k := tPk 0x13 (List.replicate 64 0); Reaches tPair 0 0x13 k ∧ fieldAt k.payload 0 2 % 4096 = tPair.dev)
    ∧ (let k := tPk 0x13 (2 :: List.replicate 63 0); Reaches tPair 0 0x13 k ∧ fieldAt k.payload 0 2 % 4096 ≠ tPair.dev ∧ isPartner tPair k.src.toNat = true
        ∧ isPartner tPair (fieldAt k.payload 0 2 % 4096) = true) :=
  ⟨by decide +kernel, ⟨reaches_seal rfl (by decide +kernel) rfl, by decide +kernel⟩, reaches_seal rfl (by decide +kernel) rfl, by decide +kernel⟩

/-- A packet whose hop budget is spent. -/
def tPk0 : Packet :=
  let k := { bare 1 1 0 0 with hb := 0 }
  { k with ecrc := BitVec.ofNat 32 (ecrcOf k) }

theorem witness_PacketsOfOthersPassOn :
    tFs.live = false ∧ portUp tUp 0 = false ∧ (tFab.live = true ∧ portUp tFab 0 = true)
    ∧ ({ tPk 1 [] with ecrc := 0 } : Packet).ecrc.toNat ≠ ecrcOf (tPk 1 [])
    ∧ ((tPk 1 [0]).ecrc.toNat = ecrcOf (tPk 1 [0]) ∧ packetMalformed (tPk 1 [0]) = true)
    ∧ ((tPk 1 []).ecrc.toNat = ecrcOf (tPk 1 []) ∧ packetMalformed (tPk 1 []) = false ∧ packetKind (tPk 1 []).kind.toNat = true)
    ∧ (let s := { tFab with fab := { tFab.fab with absent := [1] } }; fromAbsent (ecrcGood s 0 (tPk 1 [])) (tPk 1 []) = true)
    ∧ (let s := { tFab with sched := { tFab.sched with fabcfg := 0x50000 } }; fromAbsent (ecrcGood s 0 tPk0) tPk0 = false
        ∧ tPk0.dst.toNat ≠ (ecrcGood s 0 tPk0).dev ∧ tPk0.hb = 0) ∧ (tPk0.ecrc.toNat = ecrcOf tPk0 ∧ packetMalformed tPk0 = false)
    ∧ (let s := { tFab with fab := { tFab.fab with egress := [{ port := 0, pk := tPk 1 [], from_ := some 1, at_ := 0 }, { port := 0, pk := tPk 1 [], from_ := none, at_ := 0 }] } }
       (∃ e, s.fab.egress[0]? = some e ∧ e.from_ = some 1) ∧ ∃ e, s.fab.egress[1]? = some e ∧ e.from_ = none)
    ∧ (let k := tSeal (bare 1 1 2 0); k.dst.toNat ≠ tFab.dev ∧ k.hb ≠ 0 ∧ (route tFab { k with hb := k.hb - 1 }).isSome = true
        ∧ (route { tFab with fab := { tFab.fab with absent := [2] } } { k with hb := k.hb - 1 }).isNone = true)
    ∧ heldBack tFab 0 (tPk 1 []) = false ∧ heldBack (tFab.setFport 0 { tFab.fport 0 with held := [tPk 1 []] }) 0 (tPk 1 []) = true :=
  ⟨by decide, by decide, by decide, by decide +kernel, ⟨ecrc_checks { bare 1 1 0 0 with payload := [0] }, by decide⟩,
    ⟨ecrc_checks { bare 1 1 0 0 with payload := [] }, by decide⟩, by decide, by decide,
    ⟨ecrc_checks { bare 1 1 0 0 with hb := 0 }, by decide⟩, ⟨⟨_, rfl, rfl⟩, _, rfl, rfl⟩, by decide +kernel, by decide +kernel, by decide +kernel⟩

/-- A held key. -/
def tKey (st : KeySt) (resends : Nat) (pended : Bool) : HKey :=
  { src := 1, ticket := 0, slot := none, st := st, req := [tPk 1 []], reply := [], resends := resends, landed := 0, relAt := 0, pended := pended, port := 0, via := 1 }
/-- With it held. -/
def tKeyed (k : HKey) : State := { tFab with fab := { tFab.fab with keys := [k] } }
/-- A request that this device sent. -/
def tOrig (retried : Bool) : Orig :=
  { slot := 0, ticket := 0, dst := 1, packets := [], sentAt := 0, pend := false, retried := retried, parts := [], lastPart := none, status := 0, fwdOf := none }
/-- With it sent. -/
def tSent (e : Orig) : State := { tFab with fab := { tFab.fab with orig := [e] } }

theorem witness_FabricTimersAct :
    (∀ k ∈ [tKey .running 0 false, tKey .running 0 true, tKey .replied 0 false, tKey .replied 3 false, tKey .replied 4 false, tKey .released 0 false],
      keyOf (tKeyed k) 1 0 = some k ∧ (tKeyed k).live = true ∧ k.viaKnown = true) ∧ (tHeldKey .running []).viaKnown = false
    ∧ (let s := tUp.setHoof 0 { Hoof.reset with haon := true }; (s.hoof 0).haon = true ∧ (s.hoof 0).refclk = true)
    ∧ (let e : FiltEnt := { src := 1, ticket := 0, status := 0, at_ := 0 }
       ((tUp.setHoof 0 { Hoof.reset with filter := [e] }).hoof 0).filter.find? (fun e => e.src = (1 : DevId).toNat && e.ticket = (0 : BitVec 16).toNat) = some e)
    ∧ (let k := { Strm.core 0 with kind := 2, pin := false }
       (tUp.setStrm 0x80000 k).strm 0x80000 = some k ∧ (tUp.setStrm 0x80000 k).live = true ∧ k.kind = 2 ∧ k.infl = 0 ∧ { k with infl := 1 }.infl ≠ 0
         ∧ (tUp.setStrm 0x80000 { k with infl := 1 }).strm 0x80000 = some { k with infl := 1 })
    ∧ ((tSent (tOrig false)).fab.orig.find? (fun e => e.slot = (0 : SlotId).toNat && e.silent && !e.retried) = some (tOrig false)
      ∧ (tSent (tOrig true)).fab.orig.find? (fun e => e.slot = (0 : SlotId).toNat && e.silent && e.retried) = some (tOrig true))
    ∧ (let s := { tFab with sched := { tFab.sched with fabcfg := 0x100 }, store := [(0, 2)] }
       s.live = true ∧ flag s.sched.fabcfg 8 = true ∧ isPartner s 1 = true ∧ isAbsent s 1 = false) := by decide +kernel

theorem witness_FabricLinksGoDownAndUp :
    flag (tFab.fport 0).lstat 0 = true ∧ flag (tUp.fport 0).lstat 0 = false ∧ (tFab.live = true ∧ portUp tFab 0 = true)
    ∧ (let s := { tUp with sched := { tUp.sched with fabcfg := 0x100 }, mgmt := { tUp.mgmt with pwrstat := 0xFFFFFFFFFFFFFFFF } }
       s.live = true ∧ flag s.sched.fabcfg 8 = true
       ∧ (∀ p ∈ [0, 11, 12, 15], flag s.mgmt.fltstat (40 + p) = false ∧ powered s (fabDomain p) = true ∧ flag (s.fport p).lstat 0 = false ∧ (s.fport p).mods ≠ 0)
       ∧ (1 : DevId).toNat = neighbour s.dev (0 / 2) ∧ (0 : FabPort).toNat < 12 ∧ (2 : DevId).toNat ≠ neighbour s.dev (0 / 2) ∧ 12 ≤ (12 : FabPort).toNat
       ∧ (let s1 := s.setFport 0 { FPort.reset with downAt := 1 }; flag (s1.fport 0).lstat 0 = false ∧ (s1.fport 0).downAt ≠ 0))
    ∧ (tUp.fport 0).mods = 2 ∧ 4 < (tHost.hport 0).mods ∧ flag tUp.mgmt.fltstat (12 + (3 : BitVec 2).toNat) = false
    ∧ (let s := tUp.setFport 0 { FPort.reset with mods := 1 }; (s.fport 0).mods ≤ 1)
    ∧ (let s := tUp.setHoof 11 { Hoof.reset with hlstat := 11 }; 3 < fld (s.hoof 11).hlstat 3 1) := by decide +kernel

/-! ### Stacks, faults, clocks -/

/-- Stack 0 at work. -/
def tStack : State := tUp.setHoof 0 { Hoof.reset with hctl := true, hmem := 0x1501808 }

theorem witness_StackServiceEvents :
    (stackUp tStack 0 = true ∧ tStack.phase = .up ∧ fld (tStack.hoof 0).href 15 8 ≠ 0 ∧ (0 : BitVec 27).toNat < channelAccesses (tStack.hoof 0)
      ∧ (12582911 : BitVec 27).toNat < channelAccesses (tStack.hoof 0) ∧ stackUp tUp 0 = false)
    ∧ (let q : Patch := { ch := 0, idx := 0, state := 0 }
       patchOf (tStack.setHoof 0 { tStack.hoof 0 with patches := [q] }) 0 0 0 = some q ∧ stackUp (tStack.setHoof 0 { tStack.hoof 0 with patches := [q] }) 0 = true
         ∧ q.state = 0 ∧ { q with state := 1 }.state ≠ 0)
    ∧ (let e : Delta := { slot := 0, src := 1, hoof := 0, ch := 0, off := 0, bytes := List.replicate 256 1 }
       ({ tStack with deltas := [e] } : State).deltas[0]? = some e ∧ stackUp { tStack with deltas := [e] } e.hoof = true ∧ stackUp { tUp with deltas := [e] } e.hoof = false)
    ∧ (∀ got ∈ [[(1, 2 ^ 256 - 1)], [(1, 1)]],
       let e : Full := { slot := 0, hoof := 0, ch := 0, off := 0, need := 1, got := got, bytes := List.replicate 256 1, olds := List.replicate 256 0 }
       ({ tStack with fulls := [e] } : State).fulls[0]? = some e ∧ (e.complete = true ↔ got = [(1, 2 ^ 256 - 1)]) ∧ tStack.op e.slot = none ∧ tStack.deltas = []
         ∧ stackUp { tStack with fulls := [e] } e.hoof = true ∧ stackUp { tUp with fulls := [e] } e.hoof = false) := by decide +kernel

/-- Around one access: not scrubbed yet, and scrubbed; a period that has not ended; a code word without error. And what a bank's refresh asks. -/
theorem witness_StackServiceEvents_scrub :
    (tStack.hoof 0).scrubs = [] ∧ (let s := tStack.setHoof 0 { tStack.hoof 0 with scrubs := [(0, 0)] }; (0, 0) ∈ ((scrubPass s 0 0).hoof 0).scrubs)
    ∧ (tStack.hoof 0).ltime - (tStack.hoof 0).scrubAt < scrubPeriod (tStack.hoof 0) ∧ eccDecode (eccWord tStack 0 0 0) = .clean
    ∧ (let s := tStack.setHoof 0 { tStack.hoof 0 with haon := true, href := setFlag (tStack.hoof 0).href 0 true }
       (0 : HoofId).val < s.part.hoofs ∧ (s.hoof 0).haon = true ∧ (s.hoof 0).refclk = true ∧ flag (s.hoof 0).hmem 24 = true
         ∧ flag (s.hoof 0).href 1 = false ∧ lostStack s 0 = false ∧ flag (s.hoof 0).href 0 = true ∧ (s.hoof 0).refreshed = []) := by decide +kernel

theorem witness_LinkTimeoutsRetryThenRetrain :
    (∀ k ∈ [Hoof.reset, { Hoof.reset with resent := true }, { Hoof.reset with retrain := true }],
      (tUp.setHoof 11 k).live = true ∧ 11 < (tUp.setHoof 11 k).part.hoofs ∧ (tUp.setHoof 11 k).hoof 11 = k ∧ lostStack (tUp.setHoof 11 k) 11 = false)
    ∧ (let s := { tHost with host := { tHost.host with out := [tMsg 0 0 0] } }
       s.live = true ∧ (s.hport 0).up = true ∧ (s.hport 0).resent = false ∧ lastResponse s 0 = some (tMsg 0 0 0))
    ∧ (let s := tUp.setHport 0 { HPort.reset with up := true, resent := true }; (s.hport 0).up = true ∧ (s.hport 0).resent = true)
    ∧ (let s := tUp.setHport 0 { HPort.reset with training := true }; s.live = true ∧ (s.hport 0).up = false ∧ (s.hport 0).training = true) := by decide +kernel

/-- With alerts of temperature on, as at reset, or off; and with the alert already up. -/
def tHot (en hi : Bool) : State := { tUp with mgmt := { tUp.mgmt with therm := setFlag (setFlag tUp.mgmt.therm 25 en) 24 hi } }

theorem witness_ClocksSuppliesAndHeat :
    (tUp.phase ≠ .coldReset ∧ tUp.failstop = false ∧ (11 : HoofId).val < tUp.part.hoofs ∧ lostStack tUp 11 = false)
    ∧ (let s := { tUp with mgmt := { tUp.mgmt with fltstat := 0x800 } }; s.failstop = false ∧ lostStack s 11 = true)
    ∧ (tUp.hoof 11).refclk = true ∧ ((tUp.setHoof 11 { Hoof.reset with refclk := false }).hoof 11).refclk = false ∧ (tFs.phase ≠ .coldReset ∧ tFs.mgmt.refclk = true)
    ∧ tUp.mgmt.refclk = true ∧ ({ tUp with mgmt := { tUp.mgmt with refclk := false } } : State).mgmt.refclk = false
    ∧ (∀ e : Bool, let s1 := noteTemp (tHot e false) .central 105; fld s1.mgmt.therm 23 16 ≤ 105 ∧ flag s1.mgmt.therm 25 = e ∧ flag s1.mgmt.therm 24 = false)
    ∧ (let s1 := noteTemp (tHot true true) .central 105; flag s1.mgmt.therm 24 = true) ∧ 104 < fld (noteTemp tUp .central 104).mgmt.therm 23 16
    ∧ (124 : Byte).toNat < 125 ∧ 125 ≤ (125 : Byte).toNat := by decide +kernel

/-! ### Power and reset -/

/-- With domain VEC gated or powered, and an operation that needs it or none. -/
def tDom (on need : Bool) : State :=
  let s := if need then tSlot tUp (tOp 0x40 .waiting) else tUp
  { s with mgmt := { s.mgmt with pwrctl := 0x4000000500, pwrstat := if on then 0x200 else 0 } }

theorem witness_DomainsFollowDemandAndPolicy :
    (let s := tDom false true; s.live = true ∧ s.phase = .up ∧ domainHere s .vec = true ∧ policy s .vec = 0 ∧ powered s .vec = false ∧ retiredHalf s .vec = false
      ∧ demand s .vec = true)
    ∧ (let s := tDom true false; policy s .vec = 0 ∧ fld s.mgmt.pwrctl 39 32 ≠ 0 ∧ powered s .vec = true ∧ demand s .vec = false)
    ∧ policy tUp .fabp0 ≠ 0
    ∧ (let s := { tUp with sched := { tUp.sched with fnstat := 1 } }; s.live = true ∧ fnState s 0 = 1 ∧ fnBusy s 0 = false)
    ∧ (let s := { tUp with sched := { tUp.sched with fnstat := 0x8000 } }; s.live = true ∧ fnState s 7 = 2 ∧ fnBusy s 7 = false)
    ∧ fnBusy (tSlot tUp (tOp 0x20 .running)) 0 = true := by decide +kernel

/-- What training found: 16-high, 24 Gb, 6.4 Gb/s. -/
def tTrain : TrainP := { ok := true, height := 16, dens := 24, bin := 64, ext := false, badChan := 0 }

theorem witness_ResetAndBringUp : (99 < 100 ∧ 1000 ≤ 1000) ∧ ({ tUp with phase := .coldReset } : State).phase = .coldReset ∧ tUp.phase ≠ .coldReset
    ∧ (State.reset.phase = .bringUp ∧ State.reset.failstop = false) ∧ tUp.phase ≠ .bringUp
    ∧ (let s := tUp.setHoof 11 { Hoof.reset with hctl := true }
       s.live = true ∧ s.phase = .up ∧ (11 : HoofId).val < s.part.hoofs ∧ (s.hoof 11).hctl = true ∧ trainedOrLost s 11 = false)
    ∧ { tTrain with ok := false }.ok = false ∧ tTrain.ok = true ∧ geometryOk tTrain = true ∧ tTrain.badChan = 0 := by decide +kernel

/-- In a warm reset, before or after step 5. -/
def tWarm (ph : Phase) (held : Bool) : State := { tUp with phase := ph, wrstHeld := held }

theorem witness_WarmResetDrainsThenResets :
    (tUp.phase = .up ∧ tUp.failstop = false ∧ tFs.failstop = true ∧ State.reset.phase ≠ .up)
    ∧ (let s := { tSlot (tWarm .warmDrain true) (tOp 0x13 .running) with fab := { tUp.fab with orig := [tOrig false] } }
       s.phase = .warmDrain ∧ s.failstop = false ∧ s.fab.orig.any (fun e => e.slot = (0 : SlotId).toNat) = true ∧ s.op 0 = some (tOp 0x13 .running)
         ∧ (busySlots s).all (fun e => !e.2.inFlight) = false)
    ∧ (let s := tWarm .warmDrain true; s.phase = .warmDrain ∧ s.failstop = false ∧ (busySlots s).all (fun e => !e.2.inFlight) = true)
    ∧ (let s := tWarm .warmIdle true; s.phase = .warmIdle ∧ s.failstop = false) ∧ tUp.phase ≠ .warmIdle := by decide +kernel

/-! ### Registers and ports -/

theorem witness_FabadmitReadmits : tUp.live = true ∧ tFs.live = false ∧ isAbsent { tUp with fab := { tUp.fab with absent := [1] } } 1 = true := by decide

theorem witness_MonitorTestCallAndPeakRegisters : tUp.phase ≠ .coldReset ∧ tUp.live = true ∧ hoofThere tUp 11 = true := by decide

theorem witness_StreamAndFunctionCommands :
    (let s := { tUp with sched := { tUp.sched with strmcmd := 0x8000000000000000 } }; s.live = true ∧ flag s.sched.strmcmd 63 = true)
    ∧ (tUp.live = true ∧ flag tUp.sched.strmcmd 63 = false)
    ∧ ((∀ g : Fin 8, fld tUp.sched.fnctl (2 * g.val + 1) (2 * g.val) < 3) ∧ flag tUp.sched.fnctl 16 = false ∧ tUp.sched.fnctl.toNat < 65536) := by decide +kernel

theorem witness_ConfigurationWrites : tUp.live = true ∧ idle tOpen = false ∧ tOpen.live = true ∧ hoofThere tUp 0 = true ∧ tUp.phase ≠ .coldReset
    ∧ ((0x300 : BitVec 28).toNat % 8 = 0 ∧ csrReach tUp (0x300 : BitVec 28).toNat = true) ∧ (0x304 : BitVec 28).toNat % 8 ≠ 0 := by decide

theorem witness_CounterReadsClear : tUp.phase ≠ .coldReset ∧ tUp.live = true ∧ hoofThere tUp 11 = true := by decide

theorem witness_ManagementPortAnswers :
    (tUp.phase ≠ .coldReset ∧ tUp.ports.dyn = none)
    ∧ (let s := { tUp with ports := { tUp.ports with dyn := some 9 }, mgmt := { tUp.mgmt with pwrstat := 0xFFFFFFFFFFFFFFFF } }
       s.phase ≠ .coldReset ∧ s.ports.dyn = some 9 ∧ s.ports.result = none ∧ i3cStatus s (2 ^ 52) ≠ 0 ∧ i3cStatus s (storeBase + 4) ≠ 0
         ∧ i3cStatus s storeBase = 0 ∧ inCsr storeBase = false)
    ∧ ({ tUp.ports with result := some (0, 7) } : Ports).result = some (0, 7) := by decide +kernel

theorem witness_TestAccessPort : (tUp.part = .rlu12 ∧ tUp.stepping = 0x10) ∧ ({ tUp with phase := .coldReset } : State).phase = .coldReset ∧ tUp.phase ≠ .coldReset
    ∧ (2 : BitVec 3).toNat < 3 ∧ 3 ≤ (3 : BitVec 3).toNat ∧ (4 : BitVec 3).toNat < 5 := by decide

/-! ### Ill-formed commands are refused -/

theorem test_wf_payload_units : Instr.wf (.rdreq 0 { tPk 1 [] with payload := List.replicate 63 0 }) = false := by decide +kernel
theorem test_wf_payload_size : Instr.wf (.ring 0 { tPk 1 [] with payload := List.replicate 4160 0 }) = false := by decide +kernel
theorem test_wf_host_write : Instr.wf (.write 0 { tMsg 0 0 0 with len := 2 }) = false := by decide +kernel
theorem test_wf_host_read : Instr.wf (.read 0 (tMsg 0 0 0)) = false := by decide +kernel
theorem test_wf_scrub : Instr.wf (.scrub 0 0 0 [(3, 1), (3, 2)] []) = false := by decide +kernel
theorem test_wf_module_down : Instr.wf (.moduleDown ⟨.dram 0 0 0 [(3, 1), (3, 2)] [], false, 0⟩) = false := by decide +kernel
theorem test_wf_scrub_again : Instr.wf (.scrub 0 0 0 [] [(3, 1), (3, 2)]) = false := by decide +kernel
theorem test_wf_register_write : Instr.wf (.registerWrite 4 0) = false := by decide
theorem test_wf_ijtag : Instr.wf (.ijtag 5) = false := by decide
theorem test_wf_bring_up : Instr.wf (.bringUpComplete [3, 3]) = false := by decide
theorem test_wf_good : Instr.wf (.rdreq 0 (tPk 1 [])) = true ∧ Instr.wf (.write 0 (tMsg 0 0 0)) = true := by decide +kernel

/-! ### The manual's worked numbers -/

/-- Table 5-7, the row after round 0. -/
theorem test_dritex_round0 :
    drxRound 16 12 0 1 (drxStart 1 0) = { x0 := 0x00000002, x1 := 0x278BB698, x2 := 0x698278BB, x3 := 0x0F6AB4D2 } := by decide

/-- Table 5-8: the counter of a stochastic rounding. -/
theorem test_rounding_counter : drxCtr 1000000000 45999 1 (37 + 1 * 4096) = 0x3B9ACA00 + 0xB3AF0000 * 2 ^ 32 + 0x25010000 * 2 ^ 64 + 0x00000010 * 2 ^ 96 := by decide

/-- Table 5-8: a uniform draw over 37 edges. -/
theorem test_uniform_draw : (drawUniform 37 1 true (fun _ => 0xFE0F6D271446EFFB)).out = [36] := by decide

/-- The worked draw of chapter 5: the scores 3, 1, 4, 1, 5, -2, 4, 0 with K 5 and P 0.75 draw index 6. -/
theorem test_draw_example :
    (draw [(0, .fin 3 0), (1, .fin 1 0), (2, .fin 4 0), (3, .fin 1 0), (4, .fin 5 0), (5, .fin (-2) 0), (6, .fin 4 0), (7, .fin 0 0)]
      { tm := 1, te := 0, topk := 5, topp := 0x6000, draws := 1, repl := true } (fun _ => 0xFE0F6D271446EFFB)).out = [6] := by decide +kernel

/-- The worked L8 codes of chapter 3 at E = -2: 3.0, -0.3, 0.2 and 0.01. -/
theorem test_l8_codes : (encode fL8 false (-2) (.fin 3 0)).code = 0x49 ∧ (encode fL8 false (-2) (.fin (-329853488332) (-40))).code = 0x94
    ∧ (encode fL8 false (-2) (.fin 219902325556 (-40))).code = 0x0C ∧ (encode fL8 false (-2) (.fin 10995116277 (-40))).code = 0
    ∧ (encode fL8 false (-2) (.fin 10995116277 (-40))).unf = true := by decide +kernel

/-- The worked compensated values of chapter 3 at E = -4. -/
theorem test_compensated : compensate 24166 (-12) (-4) = (94, 102) ∧ compensate 24192 (-12) (-4) = (94, 127) := by decide +kernel

/-- The worked roundings of chapter 4 at E = -6: 0.73 with r = 0x4A3, and 127.3 quanta on both sides of its edge. -/
theorem test_stochastic_rounding : (sround fK8 false (-6) 12 0x4A3 (.fin 802643488604 (-40))).code = 0x2F
    ∧ (sround fK8 false (-6) 12 2868 (.fin 133483724 (-26))).edge = true ∧ (sround fK8 false (-6) 12 2867 (.fin 133483724 (-26))).edge = false := by decide +kernel

/-- The worked fine scales of chapter 4. -/
theorem test_fine_scale : chooseF fK16 (-21) 0 [.fin 629145 (-21)] = 5 ∧ chooseF fK8 (-8) 0 [.fin 847709 (-20)] = 1 := by decide +kernel

/-- The worked place of chapter 14. -/
theorem test_dram_place :
    let p : Space := { par := true, gran := 9, hset := 0xFFF, ikey := 3, base := 0, asize := 10752, pbase := 0 }
    place p 0x1E8480 = { hoof := 4, pos := 4, antler := 4, d := 23680, ch := 19, off := 5248 } ∧ parityPos p 23680 = 8 := by decide +kernel

/-- The worked engine word of chapter 6. -/
theorem test_engine_word :
    let w := parseEWord (0x224008FF + 0x00025045 * 2 ^ 32 + 0x48D1 * 2 ^ 64)
    w.ok = true ∧ w.opc = 0x23 ∧ w.sD = 9 ∧ w.sA = 4 ∧ w.sB = 5 ∧ w.hold = true ∧ w.crec = false ∧ w.fb = false ∧ w.region = 37 ∧ w.doff = 0x48D1 := by
  decide +kernel

/-- Parcels written out from Table 6-2: the fields from bit 0 up, MAJ first; a form's unused bits set, and a MAJ that Table 6-3 lacks, give none. -/
theorem test_decode_parcels :
    decodeParcel 0 (0x01 + 1 * 2 ^ 6 + 2 * 2 ^ 11 + 3 * 2 ^ 16 + 14 * 2 ^ 21) 0 = some (.op 0 1 2 3 14)
    ∧ decodeParcel 0 (0x02 + 1 * 2 ^ 6 + 2 * 2 ^ 11 + 0xFFFF * 2 ^ 16) 0 = some (.addi 0 1 2 0xFFFF)
    ∧ decodeParcel 0 (0x07 + 5 * 2 ^ 6 + 0x100001 * 2 ^ 11) 0x89ABCDEF = some (.li 0 5 0x100001 0x89ABCDEF)
    ∧ decodeParcel 0 (0x18 + 6 * 2 ^ 6 + 1 * 2 ^ 9 + 0x3FFFFF * 2 ^ 10) 0 = some (.br 0 6 true 0x3FFFFF)
    ∧ decodeParcel 0 (0x28 + 2 * 2 ^ 6 + 3 * 2 ^ 11 + 4 * 2 ^ 16) 0 = some (.drx 0 2 3 4)
    ∧ decodeParcel 0 (0x29 + 1 * 2 ^ 6) 0 = none ∧ decodeParcel 0 0 0 = none := by decide

/-- The worked ticket of chapter 6: slot 0x2A7 at generation 2 next issues 0x32A7. -/
theorem test_ticket : nextTicket (tUp.setSlot 0x2A7 { gen := 2, st := .free }) 0x2A7 = 0x32A7 := by decide

/-- The worked CSR address of chapter 0 and identity of chapter 17. -/
theorem test_csr_addresses : csrBase + hoofReg 5 0 = 0x030001500000 ∧ csrRead State.reset 0 = 0x100C7E1D := by decide

/-- A single wrong symbol is corrected; a wrong address symbol is detected (R391). -/
theorem test_ecc : let y := (List.range 32).map (fun i => 0x1111 * (i % 16)) ++ [0, 7]
    let w := eccCheck y ++ y
    eccDecode (flipSyms w [(5, 0xABCD)]) = .fixed 5 0xABCD ∧ eccDecode (flipSyms w [(36, 1)]) = .detected ∧ eccDecode w = .clean := by decide +kernel

/-- The check values of the two checksums over the digits 1 to 9 (R362 names CRC-32C, Table 4-4 the polynomial 0x1021 from 0xFFFF). -/
theorem test_checksums : crc32 [0x31, 0x32, 0x33, 0x34, 0x35, 0x36, 0x37, 0x38, 0x39] = 0xE3069283
    ∧ crc16 [0x31, 0x32, 0x33, 0x34, 0x35, 0x36, 0x37, 0x38, 0x39] = 0x29B1 := by decide +kernel

/-! ### Single steps -/

/-- What a register of core 0 holds after a command. -/
def after (i : Instr) (s : State) (r : Nat) : Option W64 := match exec i s with | .next t => some ((t.core 0).getS r) | _ => none

theorem test_add_wraps : after (.addi 0 6 3 0xFFFA) tRun 6 = some 0xFFFFFFFFFFFFFFFF := by decide
theorem test_s0_discards : after (.addi 0 0 3 1) tRun 0 = some 0 := by decide
theorem test_source_is_destination : after (.op 0 3 3 3 0) tRun 3 = some 10 := by decide
theorem test_li_sign : after (.li 0 6 0x100000 0) tRun 6 = some 0xFFF0000000000000 := by decide
theorem test_mulh_signed : after (.op 0 7 6 6 10) (tUp.setCore 0 { tCore with s := [(6, 0x8000000000000000)] }) 7 = some 0x4000000000000000 := by decide
theorem test_clz : after (.op 0 6 3 0 15) tRun 6 = some 61 := by decide
theorem test_load_reads_store : after (.ld 0 6 1 0) { tRun with store := [(0, 0x12), (7, 0x80)] } 6 = some 0x8000000000000012 := by decide
theorem test_store_writes : (match exec (.st32 0 3 1 4) tRun with | .next t => t.store | _ => []) = [(4, 5)] := by decide
theorem test_branch_back : (match exec (.br 0 0 false 0x3FFFFF) (tUp.setCore 0 { tCore with pc := 8 }) with | .next t => (t.core 0).pc | _ => 0) = 4 := by decide
theorem test_step_takes_front : (match step { tUp with pending := [.pclr, .sbstatRead] } with | .next t => t.pending | _ => []) = [.sbstatRead] := by decide
/-- SUMM's word of the worked loop of chapter 6: three saturating blocks, no magnitude. -/
theorem test_summary : summaryOf { tOp 2 .held with ovfcnt := 3 } = 0x0000030000000080 := by decide

end Sys2Proof.Tests
end

/-!
The commands as a whole: a step runs the front command of the model's queue (log entry 6), and every command completes (log entry 7).
-/

namespace Sys2Proof.Machine

theorem step_of_pending_nil {s : State} (h : s.pending = []) : step s = .next (tick s) := by
  simp only [step, h]

theorem step_of_pending_cons {s : State} {c : Instr} {rest : List Instr} (h : s.pending = c :: rest) :
    step s = exec c { s with pending := rest } := by
  simp only [step, h]

theorem exec_completes (c : Instr) (s : State) : ∃ t, exec c s = .next t := by
  obtain ⟨r, hr⟩ := exec_commit c s
  exact ⟨settle s r, hr⟩

theorem step_completes (s : State) : ∃ t, step s = .next t := by
  cases h : s.pending with
  | nil => exact ⟨tick s, step_of_pending_nil h⟩
  | cons c rest =>
    rw [step_of_pending_cons h]
    exact exec_completes c _

/-- Settles O4: every meaning of a command ends in a commit, and a step either ticks or runs one command. -/
theorem everyCommandCompletes : Obligations.EveryCommandCompletes :=
  ⟨exec_completes, step_completes⟩

/-- Settles O1: the queue of the state is its front command and the rest. -/
theorem stepRunsFrontCommand : Obligations.StepRunsFrontCommand := by
  intro c rest s
  exact step_of_pending_cons rfl

end Sys2Proof.Machine

/-!
An 8-byte CSR write (R16, R17, R469): every half is covered, so a field takes the value written and a W1C bit looks at the bit written; and
which sub-block's write function an offset of Table 17-12 reaches.
-/

namespace Sys2Proof.Machine

/-! ### Fields of a whole-register write -/

theorem mergeHalf_full (old v : W64) : mergeHalf old (2 ^ 64 - 1) v.toNat = v := by
  have hm : BitVec.ofNat 64 (2 ^ 64 - 1) = BitVec.allOnes 64 := by decide
  have hv : BitVec.ofNat 64 (v.toNat &&& (2 ^ 64 - 1)) = v := by
    rw [Nat.and_two_pow_sub_one_of_lt_two_pow v.isLt, BitVec.ofNat_toNat, BitVec.setWidth_eq]
  rw [mergeHalf, hm, hv]
  simp

/-- A W1C bit clears where 1 is written (R16). -/
theorem w1c_full (w v : W64) (i : Nat) (hi : i < 64) :
    w1c w (2 ^ 64 - 1) v.toNat i = if flag v i then setFlag w i false else w := by
  have hm : bitAt (2 ^ 64 - 1) i = true := by
    unfold bitAt bits
    interval_cases i <;> rfl
  rw [w1c, wrote1, hm, Bool.true_and]
  rfl

/-- An RW field that admits every value admits the one a register holds there. -/
theorem anyRW_ok_fld (w : W64) (hi lo : Nat) : (anyRW hi lo).ok (fld w hi lo) = true := by
  have hlt : fld w hi lo < 2 ^ (hi + 1 - lo) := Nat.mod_lt _ (Nat.two_pow_pos _)
  simp only [RW.ok, anyRW, Nat.zero_le, decide_true, Bool.true_and]
  exact decide_eq_true (Nat.le_sub_one_of_lt hlt)

@[simp] theorem writeRW_nil (old raw : W64) : writeRW old raw [] = (old, false) := rfl

/-- A field that admits every value takes the one written (R16). -/
@[simp] theorem writeRW_anyRW_cons (old raw : W64) (hi lo : Nat) (fs : List RW) :
    writeRW old raw (anyRW hi lo :: fs) = writeRW (setFld old hi lo (fld raw hi lo)) raw fs := by
  have hok := anyRW_ok_fld raw hi lo
  simp only [writeRW, List.foldl_cons]
  rw [if_pos (show (anyRW hi lo).ok (fld raw (anyRW hi lo).hi (anyRW hi lo).lo) = true from hok)]
  rfl

/-! ### Reach and routing -/

theorem csrReach_of_live {s : State} (h : s.live = true) (off : Nat) : csrReach s off = true := by
  have hp : s.phase ≠ .coldReset := by
    intro hc
    simp [State.live, hc] at h
  simp [csrReach, h, hp]

theorem csrReach_mgmt {s : State} {off : Nat} (h : s.phase ≠ .coldReset) (ho : off < bSCHED) : csrReach s off = true := by
  simp [csrReach, h, ho]

/-- What a register command answers whose meaning is an 8-byte write that reaches CSR space. -/
theorem answers_csrWrite8 {i : Instr} {s r : State} {off v : Nat} (hi : exec i s = commit s (csrWrite8 s off v))
    (hreach : csrReach s off = true) (hr : csrWrite s off (2 ^ 64 - 1) v = r) : Answers i s r := by
  rw [Answers, hi, csrWrite8, if_pos hreach, fullMask, hr]
  rfl

variable (s : State) (mask v : Nat)

theorem csrWrite_mgmt {off : Nat} (h : off < bSCHED) : csrWrite s off mask v = writeMgmt s off mask v := by
  rw [csrWrite, if_pos h]

theorem csrWrite_sched {o : Nat} (h : o < 0x100000) : csrWrite s (bSCHED + o) mask v = writeSched s o mask v := by
  have h2 : bSCHED + o < bSTORE := by unfold bSCHED bSTORE; omega
  rw [csrWrite, if_neg (by omega), if_pos h2, Nat.add_sub_cancel_left]

theorem csrWrite_units {off : Nat} (hlo : bSTORE ≤ off) (hhi : off < bHOST) : csrWrite s off mask v = writeUnits s off mask v := by
  have h1 : ¬ off < bSCHED := by unfold bSCHED; unfold bSTORE at hlo; omega
  rw [csrWrite, if_neg h1, if_neg (by omega), if_pos hhi]

theorem csrWrite_lstat (p : FabPort) : csrWrite s (bFAB + p.toNat * 0x10000) mask v
    = s.setFport p.toNat { s.fport p.toNat with lstat := w1c (s.fport p.toNat).lstat mask v 1 } := by
  have hp := p.isLt
  have past : ∀ b, b ≤ bFAB → ¬ bFAB + p.toNat * 0x10000 < b := fun b hb => by omega
  have hin : bFAB + p.toNat * 0x10000 < bFAB + 0x100000 := by omega
  rw [csrWrite, if_neg (past _ (by decide)), if_neg (past _ (by decide)), if_neg (past _ (by decide)), if_neg (past _ le_rfl), if_pos hin]
  simp

theorem csrWrite_hoof (h : HoofId) {o : Nat} (ho : o < 0x100000) (hh : hoofThere s h.val = true) :
    csrWrite s (hoofReg h o) mask v = writeHoof s h.val o mask v := by
  have hlt := h.isLt
  have hdiv : (hoofReg h o - bHOOF) / 0x100000 = h.val := by unfold hoofReg; omega
  have hmod : (hoofReg h o - bHOOF) % 0x100000 = o := by unfold hoofReg; omega
  have hlo : bHOOF ≤ hoofReg h o := by unfold hoofReg; omega
  have hhi : hoofReg h o < bHOOF + 12 * 0x100000 := by unfold hoofReg; omega
  have past : ∀ b, b ≤ bHOOF → ¬ hoofReg h o < b := fun b hb => Nat.not_lt.mpr (hb.trans hlo)
  rw [csrWrite, if_neg (past _ (by decide)), if_neg (past _ (by decide)), if_neg (past _ (by decide)), if_neg (past _ (by decide)),
    if_neg (past _ (by decide)), if_pos ⟨hlo, hhi⟩, hdiv, hmod]
  exact if_pos hh

/-! ### Layout, spaces and reserves -/

theorem csrWrite_slay (i : Fin 3) : csrWrite s (bSTORE + 8 * i.val) mask v = writeSlay s i.val mask v := by
  have hi := i.isLt
  rw [csrWrite_units s mask v (by omega) (by unfold bSTORE bHOST; omega)]
  match i with
  | 0 => rfl
  | 1 => rfl
  | 2 => rfl

theorem writeSched_space {o : Nat} (hlo : 0x800 ≤ o) (hhi : o < 0xC00) :
    writeSched s o mask v = writeSpace s ((o - 0x800) / 16) (decide (o % 16 = 8)) mask v := by
  unfold writeSched
  iterate 13 rw [if_neg (by omega)]
  rw [if_pos ⟨hlo, hhi⟩]

theorem csrWrite_space (k : BitVec 6) (b : Bool) :
    csrWrite s (bSCHED + 0x800 + 16 * k.toNat + (if b then 8 else 0)) mask v = writeSpace s k.toNat b mask v := by
  have hk := k.isLt
  have hb : (if b then 8 else 0) = 8 * b.toNat := by cases b <;> rfl
  have hb1 := b.toNat_le
  rw [hb, Nat.add_assoc bSCHED, Nat.add_assoc bSCHED, csrWrite_sched s mask v (by omega), writeSched_space s mask v (by omega) (by omega)]
  have hidx : (0x800 + 16 * k.toNat + 8 * b.toNat - 0x800) / 16 = k.toNat := by omega
  have hsel : decide ((0x800 + 16 * k.toNat + 8 * b.toNat) % 16 = 8) = b := by
    cases b
    · exact decide_eq_false (by simp)
    · exact decide_eq_true (by simp; omega)
  rw [hidx, hsel]

theorem csrWrite_hresv (h : HoofId) (hh : hoofThere s h.val = true) :
    csrWrite s (hoofReg h 0x408) mask v = writeHresv s h.val mask v :=
  csrWrite_hoof s mask v h (by decide) hh

/-- A layout write while operations are in flight or a step is open is ignored and logged (R297). -/
theorem writeSlay_busy (i : Nat) (h : idle s = false) : writeSlay s i mask v = logIgnored s (bSTORE + 8 * i) := by
  simp [writeSlay, h]

/-- A space write while operations are in flight or a step is open is ignored and logged (R394). -/
theorem writeSpace_busy (k : Nat) (b : Bool) (h : idle s = false) :
    writeSpace s k b mask v = logIgnored s (bSCHED + 0x800 + 16 * k + (if b then 8 else 0)) := by
  simp [writeSpace, h]

end Sys2Proof.Machine

/-!
The configuration registers one by one: what an 8-byte write leaves in each.
-/

namespace Sys2Proof.Machine

section

variable (s : State) (mask v : Nat)

/-! ### Registers of SCHED, STORE, ARRAY and VEC -/

theorem csrWrite_fabcfg : csrWrite s (bSCHED + 0x600) mask v = writeFabcfg s mask v :=
  csrWrite_sched s mask v (by decide)

theorem csrWrite_vecstat : csrWrite s bVEC mask v
    = { s with units := { s.units with vecstat := w1c (w1c s.units.vecstat mask v 16) mask v 17 } } :=
  csrWrite_units s mask v (by decide) (by decide)

theorem csrWrite_drstat : csrWrite s (bVEC + 0x208) mask v = { s with units := { s.units with drstat := w1c s.units.drstat mask v 1 } } :=
  csrWrite_units s mask v (by decide) (by decide)

/-! ### Registers of MGMT -/

theorem csrWrite_pwrctl : csrWrite s 0x300 mask v = writePwrctl s mask v :=
  csrWrite_mgmt s mask v (by decide)

theorem csrWrite_fltstat : csrWrite s 0x200 mask v = { s with mgmt := { s.mgmt with fltstat := w1c s.mgmt.fltstat mask v 60 } } :=
  csrWrite_mgmt s mask v (by decide)

theorem csrWrite_mlogptr (v : W64) : csrWrite s 0x218 (2 ^ 64 - 1) v.toNat
    = { s with mgmt := { s.mgmt with mlogptr := w1c (setFld s.mgmt.mlogptr 26 16 (fld v 26 16)) (2 ^ 64 - 1) v.toNat 32 } } := by
  rw [csrWrite_mgmt s _ _ (by decide)]
  show { s with mgmt := { s.mgmt with mlogptr := w1c (writeRW _ (mergeHalf _ _ _) [anyRW 26 16]).1 _ _ 32 } } = _
  rw [mergeHalf_full, writeRW_anyRW_cons, writeRW_nil]

/-- The state with another word in THERM. -/
def withTherm (s : State) (w : W64) : State := { s with mgmt := { s.mgmt with therm := w } }

theorem withTherm_fields (w : W64) : (withTherm s w).mgmt.therm = w ∧ (withTherm s w).cores = s.cores
    ∧ (withTherm s w).store = s.store ∧ (withTherm s w).dram = s.dram := ⟨rfl, rfl, rfl, rfl⟩

/-- The alarm's log entry leaves THERM, cores and memory. -/
theorem addLogAt_withTherm_fields (w : W64) (die : Die) (temp : Nat) :
    let t := addLogAt (withTherm s w) die 4 0 0xFFFF 0 0 temp
    t.mgmt.therm = w ∧ t.cores = s.cores ∧ t.store = s.store ∧ t.dram = s.dram := ⟨rfl, rfl, rfl, rfl⟩

/-- THERM as a write of v leaves it before the alarm looks at it: ALIM and ALERT_EN take their value, AL clears where 1 is written (Table 16-10). -/
def thermTaken (w v : W64) : W64 :=
  let a := setFld (setFld w 23 16 (fld v 23 16)) 25 25 (fld v 25 25)
  if flag v 24 then setFlag a 24 false else a

theorem writeMgmt_therm : writeMgmt s 0x310 mask v = thermAlarm (withTherm s
    (w1c (writeRW s.mgmt.therm (mergeHalf s.mgmt.therm mask v) [anyRW 23 16, anyRW 25 25]).1 mask v 24)) := by
  unfold writeMgmt
  iterate 5 rw [if_neg (by decide)]
  rw [if_pos rfl, withTherm]

theorem csrWrite_therm (v : W64) :
    csrWrite s 0x310 (2 ^ 64 - 1) v.toNat = thermAlarm (withTherm s (thermTaken s.mgmt.therm v)) := by
  rw [csrWrite_mgmt s _ _ (by decide), writeMgmt_therm, mergeHalf_full, writeRW_anyRW_cons, writeRW_anyRW_cons, writeRW_nil,
    w1c_full _ _ _ (by decide), thermTaken]

/-- Below ALIM the alarm leaves the state (R436). -/
theorem thermAlarm_below (h : fld s.mgmt.therm 7 0 < fld s.mgmt.therm 23 16) : thermAlarm s = s := by
  rw [thermAlarm, if_pos h]

/-- At or above ALIM the alarm sets AL, and may log that it did (R436). -/
theorem thermAlarm_reached (h : fld s.mgmt.therm 23 16 ≤ fld s.mgmt.therm 7 0) :
    thermAlarm s = withTherm s (setFlag s.mgmt.therm 24 true)
      ∨ ∃ die temp, thermAlarm s = addLogAt (withTherm s (setFlag s.mgmt.therm 24 true)) die 4 0 0xFFFF 0 0 temp := by
  rw [thermAlarm, if_neg (Nat.not_lt.mpr h)]
  by_cases hlog : flag s.mgmt.therm 25 ∧ ¬ flag s.mgmt.therm 24
  · exact .inr ⟨_, _, if_pos hlog⟩
  · exact .inl (if_neg hlog)

/-- Whether or not it logs, the alarm at or above ALIM leaves AL set, and cores and memory as they were. -/
theorem thermAlarm_reached_fields (h : fld s.mgmt.therm 23 16 ≤ fld s.mgmt.therm 7 0) :
    (thermAlarm s).mgmt.therm = setFlag s.mgmt.therm 24 true ∧ (thermAlarm s).cores = s.cores
      ∧ (thermAlarm s).store = s.store ∧ (thermAlarm s).dram = s.dram := by
  obtain hs | ⟨die, temp, hs⟩ := thermAlarm_reached s h
  · rw [hs]
    exact withTherm_fields s _
  · rw [hs]
    exact addLogAt_withTherm_fields s _ die temp

theorem thermWrite_below (v : W64) (hp : s.phase ≠ .coldReset)
    (h : fld (thermTaken s.mgmt.therm v) 7 0 < fld (thermTaken s.mgmt.therm v) 23 16) :
    Answers (.thermWrite v) s (withTherm s (thermTaken s.mgmt.therm v)) :=
  answers_csrWrite8 rfl (csrReach_mgmt hp (by decide)) ((csrWrite_therm s v).trans (thermAlarm_below _ h))

theorem thermWrite_reached (v : W64) (hp : s.phase ≠ .coldReset)
    (h : fld (thermTaken s.mgmt.therm v) 23 16 ≤ fld (thermTaken s.mgmt.therm v) 7 0) :
    ∃ t, exec (.thermWrite v) s = .next t ∧ t.mgmt.therm = setFlag (thermTaken s.mgmt.therm v) 24 true
      ∧ t.cores = s.cores ∧ t.store = s.store ∧ t.dram = s.dram :=
  ⟨_, answers_csrWrite8 rfl (csrReach_mgmt hp (by decide)) (csrWrite_therm s v), thermAlarm_reached_fields _ h⟩

/-! ### REGISTER_WRITE (R17) -/

theorem registerWrite_aligned (v : W64) {off : BitVec 28} (h8 : off.toNat % 8 = 0) (hr : csrReach s off.toNat = true) :
    Answers (.registerWrite off v) s (csrWrite s off.toNat (2 ^ 64 - 1) v.toNat) := by
  have hx : exec (.registerWrite off v) s = commit s (csrWrite8 s off.toNat v.toNat) := by
    show commit s (if off.toNat % 8 = 0 then csrWrite8 s off.toNat v.toNat else s) = _
    rw [if_pos h8]
  exact answers_csrWrite8 hx hr rfl

theorem registerWrite_unaligned (v : W64) {off : BitVec 28} (h8 : off.toNat % 8 ≠ 0) : Answers (.registerWrite off v) s s := by
  show commit s (if off.toNat % 8 = 0 then csrWrite8 s off.toNat v.toNat else s) = _
  rw [if_neg h8]
  rfl

end

/-! ### The obligation -/

/-- Settles O57: each command is the 8-byte write of its register, so the lemma about that register gives its clause. -/
theorem configurationWrites : Obligations.ConfigurationWrites := by
  intro v s
  refine ⟨fun hl => ?_, fun hp => ?_, fun off => ⟨registerWrite_aligned s v, registerWrite_unaligned s v⟩⟩
  · have hreach := csrReach_of_live hl
    exact ⟨fun i hb => answers_csrWrite8 rfl (hreach _) ((csrWrite_slay s _ _ i).trans (writeSlay_busy s _ _ _ hb)),
      fun i => answers_csrWrite8 rfl (hreach _) (csrWrite_slay s _ _ i),
      fun k b hb => answers_csrWrite8 rfl (hreach _) ((csrWrite_space s _ _ k b).trans (writeSpace_busy s _ _ _ b hb)),
      fun k b => answers_csrWrite8 rfl (hreach _) (csrWrite_space s _ _ k b),
      fun h hh => answers_csrWrite8 rfl (hreach _) (csrWrite_hresv s _ _ h hh),
      answers_csrWrite8 rfl (hreach _) (csrWrite_fabcfg s _ _),
      answers_csrWrite8 rfl (hreach _) (by rw [csrWrite_vecstat, w1c_full _ _ _ (by decide), w1c_full _ _ _ (by decide)]),
      answers_csrWrite8 rfl (hreach _) (by rw [csrWrite_drstat, w1c_full _ _ _ (by decide)]),
      fun p => answers_csrWrite8 rfl (hreach _) (by rw [csrWrite_lstat, w1c_full _ _ _ (by decide)])⟩
  · have hreach := fun off => csrReach_mgmt (off := off) hp
    exact ⟨answers_csrWrite8 rfl (hreach _ (by decide)) (csrWrite_pwrctl s _ _),
      answers_csrWrite8 rfl (hreach _ (by decide)) (by rw [csrWrite_mlogptr, w1c_full _ _ _ (by decide)]),
      answers_csrWrite8 rfl (hreach _ (by decide)) (by rw [csrWrite_fltstat, w1c_full _ _ _ (by decide)]),
      thermWrite_below s v hp, thermWrite_reached s v hp⟩

end Sys2Proof.Machine

/-!
DISPATCH (R32 to R34, R184, R187, R222, R241, R433, R442, R446): the conditions of `dispatchable` for an operation issued on this device, and the
state in which `dispatchOp` leaves one that starts.
-/

namespace Sys2Proof.Machine

section

variable {s : State} {t : Nat} {o : Op}

/-! ### The conditions -/

/-- Was the operation issued on this device? -/
def Op.IssuedHere (o : Op) : Prop := ∀ d k n, o.src ≠ .remote d k n

/-- The filters of the Hoofs (R284) hold back accumulates of other devices alone. -/
theorem accumulateReady_of_issuedHere (h : o.IssuedHere) : accumulateReady s o = true := by
  unfold accumulateReady
  split
  · exact absurd ‹_› (h _ _ _)
  · rfl

/-- What an operation waits for before it is dispatched, whatever it does. -/
structure DispatchTurn (s : State) (o : Op) : Prop where
  waiting : o.phase = .waiting
  live : s.live = true
  notPlan : o.src ≠ .plan
  notFenc : o.opc ≠ 0x03
  stream : streamBehind s o = false
  fb : o.fb = true → streamClear s o = true
  ranges : rangeBlocked s o = false
  step : stepReady s o = true

/-- What the place at which an operation works must give: room at the Antlers of a released UPD, the array, a context, powered domains, DRAM, patches
at rest, and for CTXS and CTXR an otherwise idle scheduler. -/
structure TargetReady (s : State) (t : Nat) (o : Op) : Prop where
  upd : o.opc = 0x20 → updReady s o = true
  array : o.arrayOp = true → arrayFree s = true
  vector : o.vectorOp = true → freeCtxNo s ≠ none
  power : (opDomains s o).all (powered s) = true
  dram : o.touchesDram = true → s.dramUp = true
  patches : awaitsMove s o = false
  context : o.opc = 0x60 ∨ o.opc = 0x61 → alone s t = true

/-- An operation that is no UPD is not held back by the Antlers. -/
theorem TargetReady.updReady_eq (h : TargetReady s t o) : updReady s o = true := by
  by_cases hu : o.opc = 0x20
  · exact h.upd hu
  · simp [updReady, hu]

/-- CTXS and CTXR wait until they are alone (R446). -/
theorem TargetReady.context_eq (h : TargetReady s t o) : (o.opc ≠ 0x60 && o.opc ≠ 0x61 || alone s t) = true := by
  by_cases hc : o.opc = 0x60 ∨ o.opc = 0x61
  · rw [h.context hc, Bool.or_true]
  · rw [not_or] at hc
    simp [hc.1, hc.2]

/-- A condition that `dispatchable` asks of some operations only. -/
theorem not_or_of_imp_bool {a b : Bool} (h : a = true → b = true) : (!a || b) = true := by
  cases a with
  | false => rfl
  | true => exact h rfl

theorem dispatchable_of_issuedHere (hl : o.IssuedHere) (hd : DispatchTurn s o) (ht : TargetReady s t o) : dispatchable s t o = true := by
  have hvec : (!o.vectorOp || (freeCtxNo s).isSome) = true := not_or_of_imp_bool fun hv => Option.isSome_iff_ne_none.mpr (ht.vector hv)
  simp only [dispatchable, hd.waiting, hd.live, hd.notPlan, hd.notFenc, hd.stream, not_or_of_imp_bool hd.fb, hd.ranges, hd.step,
    accumulateReady_of_issuedHere hl, ht.updReady_eq, not_or_of_imp_bool ht.array, hvec, ht.power, not_or_of_imp_bool ht.dram, ht.patches,
    ne_eq, not_false_eq_true, decide_true, Bool.not_false, Bool.true_or, Bool.true_and]
  split
  · exact absurd ‹_› (hl _ _ _)
  · exact ht.context_eq

/-! ### The state after a start -/

/-- The operation as it runs: its ranges, an UPD's decay tables (R212), its place in the order of dispatches (R187), the mode of the array (R222). -/
def startedOp (s : State) (o : Op) : Op :=
  { o with phase := .running, ranges := startRanges s o, tabs := if o.opc = 0x20 then decayWords s o else [], dispAt := s.car.seq,
           prog := if o.arrayOp then [arrayMode (arrayHalf s) o.arrayKN.1 o.arrayKN.2 + 1] else o.prog }

/-- The contexts with the one that the operation takes, if it is a vector operation (R241). -/
def startedCtxs (s : State) (t : Nat) (o : Op) : List (Nat × VCtx) :=
  if o.vectorOp then
    match freeCtxNo s with
    | some x => s.ctxs ++ [(x, VCtx.fresh t (if o.opc = 0x40 then vopVl0 o.desc else 0))]
    | none => s.ctxs
  else s.ctxs

/-- The state in which a start leaves the block. -/
def started (s : State) (t : Nat) (o : Op) : State :=
  { s.setOp t (startedOp s o) with car := { s.car with seq := s.car.seq + 1 }, ctxs := startedCtxs s t o }

theorem startedCtxs_of_not_vector (h : o.vectorOp = false) : startedCtxs s t o = s.ctxs := by
  simp [startedCtxs, h]

theorem startedCtxs_of_vector {x : Nat} (h : o.vectorOp = true) (hx : freeCtxNo s = some x) :
    startedCtxs s t o = s.ctxs ++ [(x, VCtx.fresh t (if o.opc = 0x40 then vopVl0 o.desc else 0))] := by
  simp [startedCtxs, h, hx]

theorem op_started : (started s t o).op t = some (startedOp s o) := State.op_setOp_same s t _

theorem gen_started : ((started s t o).slot t).gen = (s.slot t).gen := State.gen_setOp s t t _

theorem slot_started_ne {y : Nat} (h : y ≠ t) : (started s t o).slot y = s.slot y := State.slot_setSlot_ne s _ h

/-! ### What `dispatchOp` does -/

theorem dispatchOp_remote {d k n : Nat} (h : o.src = .remote d k n) : dispatchOp s t o = serveRemote s t o := by
  simp only [dispatchOp, h]

/-- A status found at dispatch ends the operation (notes/assumptions/44). -/
theorem dispatchOp_finds {f : Nat × Nat} (hl : o.IssuedHere) (hf : startFinds s o = some f) :
    dispatchOp s t o = if f.1 = 0x18 then endIllegal s t else endOp s t f.1 f.2 := by
  unfold dispatchOp
  split
  · exact absurd ‹_› (hl _ _ _)
  · rw [hf]

theorem dispatchOp_starts (hl : o.IssuedHere) (hf : startFinds s o = none) : dispatchOp s t o = started s t o := by
  unfold dispatchOp
  split
  · exact absurd ‹_› (hl _ _ _)
  · rw [hf]
    cases hv : o.vectorOp with
    | false => rw [started, startedCtxs_of_not_vector hv]; rfl
    | true =>
      cases hx : freeCtxNo s with
      | none => simp only [started, startedCtxs, hv, hx]; rfl
      | some x => rw [started, startedCtxs_of_vector hv hx]; rfl

end

/-! ### DISPATCH -/

section

variable {s : State} {t : SlotId} {o : Op}

theorem exec_dispatch (h : s.op t.toNat = some o) :
    exec (.dispatch t) s = commit s (if dispatchable s t.toNat o then dispatchOp s t.toNat o else s) := by
  show execDispatch t s = _
  simp only [execDispatch, h]

theorem dispatch_waits (h : s.op t.toNat = some o) (hd : dispatchable s t.toNat o = false) : Answers (.dispatch t) s s := by
  rw [Answers, exec_dispatch h, hd]
  rfl

theorem dispatch_goes (h : s.op t.toNat = some o) (hd : dispatchable s t.toNat o = true) {r : State} (hr : dispatchOp s t.toNat o = r) :
    Answers (.dispatch t) s r := by
  rw [Answers, exec_dispatch h, if_pos hd, hr]
  rfl

end

/-- Settles O25: `dispatchable` decides whether DISPATCH does anything, its conditions are `DispatchTurn` and `TargetReady`, and
a start leaves `started`. -/
theorem dispatchWaitsForItsConditions : Obligations.DispatchWaitsForItsConditions := by
  intro t o s ho
  refine ⟨dispatch_waits ho, ?_, fun d k n hsrc hd => dispatch_goes ho hd (dispatchOp_remote hsrc)⟩
  intro hl hplan hfenc hwait hlive hstream hfb hranges hstep hupd harray hvector hpower hdram hpatches hcontext
  have hd : dispatchable s t.toNat o = true :=
    dispatchable_of_issuedHere hl ⟨hwait, hlive, hplan, hfenc, hstream, hfb, hranges, hstep⟩
      ⟨hupd, harray, hvector, hpower, hdram, hpatches, hcontext⟩
  refine ⟨fun f hf => dispatch_goes ho hd (dispatchOp_finds hl hf), fun hf => ?_⟩
  exact ⟨settle s (started s t.toNat o), dispatch_goes ho hd (dispatchOp_starts hl hf), op_started, gen_started,
    fun y hy => slot_started_ne hy, rfl, startedCtxs_of_not_vector, fun x hv hx => startedCtxs_of_vector hv hx⟩

end Sys2Proof.Machine

/-!
Fields of a register word: what a field reads after the same or another field was replaced.
-/

namespace Sys2Proof.Machine

/-- A replaced field stands between the unchanged bits above it and below it. -/
theorem setBits_eq {w hi lo : Nat} (v : Nat) (h : lo ≤ hi) :
    setBits w hi lo v = 2 ^ lo * (2 ^ (hi + 1 - lo) * (w / 2 ^ (hi + 1)) + v % 2 ^ (hi + 1 - lo)) + w % 2 ^ lo := by
  have hpow : 2 ^ (hi + 1) = 2 ^ lo * 2 ^ (hi + 1 - lo) := by
    rw [← pow_add]
    congr 1
    omega
  have hw : w = 2 ^ lo * (2 ^ (hi + 1 - lo) * (w / 2 ^ (hi + 1))) + 2 ^ lo * bits w hi lo + w % 2 ^ lo := by
    rw [← Nat.mul_add, hpow, ← Nat.div_div_eq_div_mul, bits, Nat.div_add_mod, Nat.div_add_mod]
  rw [setBits, Nat.mul_add, Nat.mul_comm (bits w hi lo), Nat.mul_comm (v % _)]
  omega

theorem testBit_setBits {w hi lo : Nat} (v i : Nat) (h : lo ≤ hi) :
    (setBits w hi lo v).testBit i = if lo ≤ i ∧ i ≤ hi then v.testBit (i - lo) else w.testBit i := by
  have hfield : v % 2 ^ (hi + 1 - lo) < 2 ^ (hi + 1 - lo) := Nat.mod_lt _ (Nat.two_pow_pos _)
  rw [setBits_eq v h, Nat.testBit_two_pow_mul_add _ (Nat.mod_lt _ (Nat.two_pow_pos _)), Nat.testBit_two_pow_mul_add _ hfield,
    Nat.testBit_mod_two_pow, Nat.testBit_mod_two_pow, Nat.testBit_div_two_pow]
  by_cases hlo : i < lo
  · rw [if_pos hlo, if_neg (by omega), decide_eq_true hlo, Bool.true_and]
  · by_cases hhi : i ≤ hi
    · rw [if_neg hlo, if_pos (by omega), if_pos (by omega), decide_eq_true (by omega), Bool.true_and]
    · rw [if_neg hlo, if_neg (by omega), if_neg (by omega)]
      congr 1
      omega

theorem testBit_fld (w : W64) (hi lo i : Nat) :
    (fld w hi lo).testBit i = (decide (i < hi + 1 - lo) && w.toNat.testBit (i + lo)) := by
  rw [fld, bits, Nat.testBit_mod_two_pow, Nat.testBit_div_two_pow]

theorem testBit_setFld {w : W64} {hi lo i : Nat} (v : Nat) (h : lo ≤ hi) (h64 : i < 64) :
    (setFld w hi lo v).toNat.testBit i = if lo ≤ i ∧ i ≤ hi then v.testBit (i - lo) else w.toNat.testBit i := by
  rw [setFld, BitVec.toNat_ofNat, Nat.testBit_mod_two_pow, testBit_setBits v i h, decide_eq_true h64, Bool.true_and]

theorem fld_setFld_same {w : W64} {hi lo : Nat} (v : Nat) (h : lo ≤ hi) (h64 : hi < 64) :
    fld (setFld w hi lo v) hi lo = v % 2 ^ (hi + 1 - lo) := by
  refine Nat.eq_of_testBit_eq fun i => ?_
  rw [testBit_fld, Nat.testBit_mod_two_pow]
  by_cases hin : i < hi + 1 - lo
  · rw [testBit_setFld v h (by omega), if_pos (by omega), Nat.add_sub_cancel]
  · rw [decide_eq_false hin, Bool.false_and, Bool.false_and]

theorem fld_setFld_disjoint {w : W64} {hi lo hi' lo' : Nat} (v : Nat) (h : lo ≤ hi) (h64 : hi' < 64) (hd : hi' < lo ∨ hi < lo') :
    fld (setFld w hi lo v) hi' lo' = fld w hi' lo' := by
  refine Nat.eq_of_testBit_eq fun i => ?_
  rw [testBit_fld, testBit_fld]
  by_cases hin : i < hi' + 1 - lo'
  · rw [testBit_setFld v h (by omega), if_neg (by omega)]
  · rw [decide_eq_false hin, Bool.false_and, Bool.false_and]

theorem flag_setFlag_same {w : W64} {i : Nat} (b : Bool) (h64 : i < 64) : flag (setFlag w i b) i = b := by
  show decide (fld (setFld w i i _) i i = 1) = b
  rw [fld_setFld_same _ le_rfl h64, Nat.add_sub_cancel_left]
  cases b <;> rfl

theorem flag_setFld_disjoint {w : W64} {hi lo i : Nat} (v : Nat) (h : lo ≤ hi) (h64 : i < 64) (hd : i < lo ∨ hi < i) :
    flag (setFld w hi lo v) i = flag w i :=
  congrArg (fun n => decide (n = 1)) (fld_setFld_disjoint v h h64 hd)

end Sys2Proof.Machine

/-!
Fail-stop, the temperature alarm and the rate monitors as functions of the state: what they leave of the registers of MGMT.
-/

namespace Sys2Proof.Machine

/-! ### Fail-stop (R423) and the trip (R436) -/

theorem foldl_mgmt {α : Type} {f : State → α → State} (hf : ∀ s a, (f s a).mgmt = s.mgmt) (l : List α) (s : State) :
    (l.foldl f s).mgmt = s.mgmt := by
  induction l generalizing s with
  | nil => rfl
  | cons a l ih => exact (ih (f s a)).trans (hf s a)

section

variable (s : State) (die : Die) (code unit detail : Nat)

/-- Of MGMT, fail-stop writes the log and FLTSTAT.FAILSTOP alone: the links and the stacks are elsewhere. -/
theorem failStop_mgmt : (failStop s die code unit detail).mgmt
    = { (addLogAt s die 3 code unit 0 0 detail).mgmt with fltstat := setFlag s.mgmt.fltstat 61 true } := by
  unfold failStop
  dsimp only
  rw [foldl_mgmt, foldl_mgmt, foldl_mgmt]
  · rfl
  all_goals exact fun _ _ => rfl

theorem failstop_failStop : (failStop s die code unit detail).failstop = true := by
  rw [State.failstop, failStop_mgmt]
  exact flag_setFlag_same true (by decide)

theorem trip_failStop : (failStop s die code unit detail).mgmt.trip = s.mgmt.trip := by
  rw [failStop_mgmt]
  rfl

end

variable {s : State}

theorem thermTrip_stopped (hf : s.failstop = true) : thermTrip s = { s with mgmt := { s.mgmt with trip := true } } :=
  if_pos hf

theorem thermTrip_working (hf : s.failstop = false) :
    thermTrip s = failStop { s with mgmt := { s.mgmt with trip := true } } (hotDie s) 0x0D 0xFFFF (fld s.mgmt.therm 7 0) :=
  if_neg (ne_true_of_eq_false hf)

/-- After the trip THERMTRIP_N is asserted and the device is in fail-stop, also where it was already. -/
theorem thermTrip_trips (s : State) : (thermTrip s).mgmt.trip = true ∧ (thermTrip s).failstop = true := by
  cases hf : s.failstop with
  | true =>
    rw [thermTrip_stopped hf]
    exact ⟨rfl, hf⟩
  | false =>
    rw [thermTrip_working hf, trip_failStop]
    exact ⟨rfl, failstop_failStop _ _ _ _ _⟩

/-! ### The temperature alarm (R436, Table 16-10) -/

/-- With the alert disabled, or AL set already, the alarm sets AL and logs nothing. -/
theorem thermAlarm_silent (h : fld s.mgmt.therm 23 16 ≤ fld s.mgmt.therm 7 0)
    (hq : flag s.mgmt.therm 25 = false ∨ flag s.mgmt.therm 24 = true) :
    thermAlarm s = withTherm s (setFlag s.mgmt.therm 24 true) := by
  have hlog : ¬ (flag s.mgmt.therm 25 = true ∧ ¬ flag s.mgmt.therm 24 = true) := fun ⟨hen, hal⟩ =>
    hq.elim (fun hdis => ne_true_of_eq_false hdis hen) hal
  rw [thermAlarm, if_neg (Nat.not_lt.mpr h)]
  exact if_neg hlog

/-- With the alert enabled, an AL that turns 1 is logged with the hottest die and its temperature. -/
theorem thermAlarm_logs (h : fld s.mgmt.therm 23 16 ≤ fld s.mgmt.therm 7 0) (hen : flag s.mgmt.therm 25 = true)
    (hal : flag s.mgmt.therm 24 = false) :
    thermAlarm s = addLogAt (withTherm s (setFlag s.mgmt.therm 24 true)) (hotDie s) 4 0 0xFFFF 0 0 (fld s.mgmt.therm 7 0) := by
  rw [thermAlarm, if_neg (Nat.not_lt.mpr h)]
  exact if_pos ⟨hen, ne_true_of_eq_false hal⟩

/-! ### RATE after a window (R58, Table 2-6) -/

section

variable (rate lim : W64) {mhz : Nat} (rated : Bool)

/-- RATE with the three frequencies of a window that measured `mhz`, LOW as it was. -/
def rateMeasured (rate : W64) (mhz : Nat) (rated : Bool) : W64 :=
  setFld (setFld (setFld rate 15 0 mhz) 31 16 (if rated then Nat.min (fld rate 31 16) mhz else mhz)) 47 32 (Nat.max (fld rate 47 32) mhz)

theorem rateAfter_eq : rateAfter rate lim mhz rated
    = if mhz < fld lim 15 0 then setFlag (rateMeasured rate mhz rated) 48 true else rateMeasured rate mhz rated := rfl

theorem fld_rateAfter_below_low {hi : Nat} (lo : Nat) (h : hi < 48) :
    fld (rateAfter rate lim mhz rated) hi lo = fld (rateMeasured rate mhz rated) hi lo := by
  rw [rateAfter_eq]
  split
  · exact fld_setFld_disjoint _ le_rfl (by omega) (.inl h)
  · rfl

theorem rateAfter_now (h : mhz < 2 ^ 16) : fld (rateAfter rate lim mhz rated) 15 0 = mhz := by
  rw [fld_rateAfter_below_low _ _ _ _ (by decide), rateMeasured, fld_setFld_disjoint _ (by decide) (by decide) (by decide),
    fld_setFld_disjoint _ (by decide) (by decide) (by decide), fld_setFld_same _ (by decide) (by decide)]
  exact Nat.mod_eq_of_lt h

theorem rateAfter_min (h : mhz < 2 ^ 16) :
    fld (rateAfter rate lim mhz rated) 31 16 = if rated then Nat.min (fld rate 31 16) mhz else mhz := by
  have hmin : (if rated then Nat.min (fld rate 31 16) mhz else mhz) < 2 ^ 16 := by
    split
    · exact lt_of_le_of_lt (Nat.min_le_right _ _) h
    · exact h
  rw [fld_rateAfter_below_low _ _ _ _ (by decide), rateMeasured, fld_setFld_disjoint _ (by decide) (by decide) (by decide),
    fld_setFld_same _ (by decide) (by decide)]
  exact Nat.mod_eq_of_lt hmin

theorem rateAfter_max (h : mhz < 2 ^ 16) : fld (rateAfter rate lim mhz rated) 47 32 = Nat.max (fld rate 47 32) mhz := by
  have hold : fld rate 47 32 < 2 ^ 16 := Nat.mod_lt _ (Nat.two_pow_pos _)
  rw [fld_rateAfter_below_low _ _ _ _ (by decide), rateMeasured, fld_setFld_same _ (by decide) (by decide)]
  exact Nat.mod_eq_of_lt (max_lt hold h)

theorem flag_rateMeasured_low : flag (rateMeasured rate mhz rated) 48 = flag rate 48 := by
  rw [rateMeasured]
  iterate 3 rw [flag_setFld_disjoint _ (by decide) (by decide) (by decide)]

theorem rateAfter_low : flag (rateAfter rate lim mhz rated) 48 = (flag rate 48 || decide (mhz < fld lim 15 0)) := by
  rw [rateAfter_eq]
  by_cases hlow : mhz < fld lim 15 0
  · rw [if_pos hlow, flag_setFlag_same _ (by decide), decide_eq_true hlow, Bool.or_true]
  · rw [if_neg hlow, flag_rateMeasured_low, decide_eq_false hlow, Bool.or_false]

end

end Sys2Proof.Machine

/-!
Losses of a clock or a rail, reports of a temperature and the ends of rate windows (R57, R58, R434, R436).
-/

namespace Sys2Proof.Machine

section

variable {s : State}

/-! ### Clocks and supplies -/

theorem centralClockLoss_working (hf : s.failstop = false) :
    centralClockLoss s = failStop { s with mgmt := { s.mgmt with refclk := false } } .central 0x0D 0xFFFF 0 :=
  if_neg (ne_true_of_eq_false hf)

/-- A stopped device still records the loss, and its local time stands still (notes/assumptions/53). -/
theorem centralClockLoss_stopped (hf : s.failstop = true) :
    centralClockLoss s = addLogAt { s with mgmt := { s.mgmt with refclk := false } } .central 3 0x0D 0xFFFF 0 0 0 :=
  if_pos hf

theorem hoofClockLoss_serving {h : HoofId} (hf : s.failstop = false) (hl : lostStack s h.val = false) :
    hoofClockLoss s h = stackFaultBy (s.setHoof h.val { s.hoof h.val with refclk := false }) (.hoof h) h.val :=
  (if_neg (ne_true_of_eq_false hf)).trans (if_neg (ne_true_of_eq_false hl))

theorem hoofClockLoss_lost {h : HoofId} (hf : s.failstop = false) (hl : lostStack s h.val = true) :
    hoofClockLoss s h = addLogAt (s.setHoof h.val { s.hoof h.val with refclk := false }) (.hoof h) 2 0x04 h.val 0 0 0 :=
  (if_neg (ne_true_of_eq_false hf)).trans (if_pos hl)

theorem hoofClockLoss_stopped {h : HoofId} (hf : s.failstop = true) :
    hoofClockLoss s h = addLogAt (s.setHoof h.val { s.hoof h.val with refclk := false }) (.hoof h) 3 0x04 h.val 0 0 0 :=
  if_pos hf

theorem watched_eq (hp : s.phase ≠ .coldReset) (hf : s.failstop = false) : watched s = true := by
  rw [watched, decide_eq_true hp, hf]
  rfl

/-- What the loss of REFCLK_C answers outside a cold reset. -/
theorem refclkLoss_central (hp : s.phase ≠ .coldReset) {r : State} (hr : (if s.mgmt.refclk then centralClockLoss s else s) = r) :
    Answers (.refclkLoss .central) s r :=
  congrArg (commit s) ((if_neg hp).trans hr)

theorem refclkLoss_hoof (hp : s.phase ≠ .coldReset) {h : HoofId} (hh : h.val < s.part.hoofs) (hc : (s.hoof h.val).refclk = true)
    {r : State} (hr : hoofClockLoss s h = r) : Answers (.refclkLoss (.hoof h)) s r :=
  congrArg (commit s) ((if_neg hp).trans ((if_pos ⟨hh, hc⟩).trans hr))

theorem refclkLoss_hoof_again (hp : s.phase ≠ .coldReset) {h : HoofId} (hc : (s.hoof h.val).refclk = false) :
    Answers (.refclkLoss (.hoof h)) s s :=
  congrArg (commit s) ((if_neg hp).trans (if_neg fun hlive => ne_true_of_eq_false hc hlive.2))

theorem supplyFault_central (hp : s.phase ≠ .coldReset) (hf : s.failstop = false) :
    Answers (.supplyFault .central) s (failStop s .central 0x0D 0xFFFF 0) :=
  congrArg (commit s) (if_neg (not_not_intro (watched_eq hp hf)))

theorem supplyFault_hoof (hp : s.phase ≠ .coldReset) (hf : s.failstop = false) {h : HoofId} (hh : h.val < s.part.hoofs) :
    Answers (.supplyFault (.hoof h)) s (stackFault s h.val) :=
  congrArg (commit s) ((if_neg (not_not_intro (watched_eq hp hf))).trans (if_pos hh))

/-! ### Temperature -/

variable {d : Die} {c : Byte}

theorem tempReport_cool (hc : c.toNat < 125) : tempReport s d c.toNat = thermAlarm (noteTemp s d c.toNat) :=
  if_neg (Nat.not_le.mpr hc)

theorem tempReport_hot (hc : 125 ≤ c.toNat) : tempReport s d c.toNat = thermTrip (thermAlarm (noteTemp s d c.toNat)) :=
  if_pos hc

theorem thermAlert_cool (hp : s.phase ≠ .coldReset) (hc : c.toNat < 125) {r : State} (hr : thermAlarm (noteTemp s d c.toNat) = r) :
    Answers (.thermAlert d c) s r :=
  congrArg (commit s) ((if_neg hp).trans ((tempReport_cool hc).trans hr))

theorem thermalTrip_cool (hc : c.toNat < 125) : Answers (.thermalTrip d c) s s :=
  congrArg (commit s) (if_pos (.inr hc))

/-- At 125 degrees either report trips, whatever the state of the device. -/
theorem hotReport_trips (hp : s.phase ≠ .coldReset) (hc : 125 ≤ c.toNat) {i : Instr} (hi : i ∈ [Instr.thermAlert d c, Instr.thermalTrip d c]) :
    Answers i s (thermTrip (thermAlarm (noteTemp s d c.toNat))) := by
  obtain rfl | rfl : i = .thermAlert d c ∨ i = .thermalTrip d c := by simpa using hi
  · exact congrArg (commit s) ((if_neg hp).trans (tempReport_hot hc))
  · exact congrArg (commit s) ((if_neg (not_or_intro hp (Nat.not_lt.mpr hc))).trans (tempReport_hot hc))

/-! ### Rate windows -/

/-- The state at the end of the central die's window, to which its local time moves (notes/assumptions/6), before an alert is logged. -/
def rateReported (s : State) (mhz : BitVec 16) : State :=
  { s with mgmt := { s.mgmt with rate := rateAfter s.mgmt.rate s.mgmt.ratelim mhz.toNat s.mgmt.rated, ltime := windowEnd s.mgmt.ltime, rated := true } }

theorem rateWindow_unclocked (hp : s.phase ≠ .coldReset) (hc : s.mgmt.refclk = false) (mhz : BitVec 16) :
    Answers (.rateWindow .central mhz) s s :=
  congrArg (commit s) ((if_neg hp).trans (if_neg (ne_true_of_eq_false hc)))

theorem rateWindow_clocked (hp : s.phase ≠ .coldReset) (hc : s.mgmt.refclk = true) (mhz : BitVec 16) :
    Answers (.rateWindow .central mhz) s (if rateAlerts s.mgmt.rate s.mgmt.ratelim mhz.toNat
      then addLogAt (rateReported s mhz) .central 4 0 0xFFFF 0 0 mhz.toNat else rateReported s mhz) :=
  congrArg (commit s) ((if_neg hp).trans (if_pos hc))

/-- Whether or not the window raises the alert, it leaves the monitor and the local time so, and cores and memory as they were. -/
theorem rateWindow_leaves (hp : s.phase ≠ .coldReset) (hc : s.mgmt.refclk = true) (mhz : BitVec 16) :
    ∃ t, exec (.rateWindow .central mhz) s = .next t ∧ t.mgmt.ltime = windowEnd s.mgmt.ltime
      ∧ t.mgmt.rate = rateAfter s.mgmt.rate s.mgmt.ratelim mhz.toNat s.mgmt.rated ∧ t.mgmt.rated = true
      ∧ t.cores = s.cores ∧ t.store = s.store ∧ t.dram = s.dram := by
  have hw := rateWindow_clocked hp hc mhz
  split at hw
  · exact ⟨_, hw, rfl, rfl, rfl, rfl, rfl, rfl⟩
  · exact ⟨_, hw, rfl, rfl, rfl, rfl, rfl, rfl⟩

end

/-- Settles O48: each command is its guard and one of the functions above, and RATE's fields are those of `rateAfter`. -/
theorem clocksSuppliesAndHeat : Obligations.ClocksSuppliesAndHeat := by
  refine ⟨fun s hp => ⟨?_, ?_, ?_, supplyFault_central hp, ?_⟩, ?_, ?_⟩
  · exact fun hc hf => refclkLoss_central hp ((if_pos hc).trans (centralClockLoss_working hf))
  · exact fun hc hf => refclkLoss_central hp ((if_pos hc).trans (centralClockLoss_stopped hf))
  · exact fun hc => refclkLoss_central hp (if_neg (ne_true_of_eq_false hc))
  · intro h hh
    refine ⟨fun hf => supplyFault_hoof hp hf hh, fun hc => ⟨?_, ?_, ?_⟩, refclkLoss_hoof_again hp⟩
    · exact fun hf hl => refclkLoss_hoof hp hh hc (hoofClockLoss_serving hf hl)
    · exact fun hf hl => refclkLoss_hoof hp hh hc (hoofClockLoss_lost hf hl)
    · exact fun hf => refclkLoss_hoof hp hh hc (hoofClockLoss_stopped hf)
  · intro d c s hp
    refine ⟨fun hc => ⟨?_, ?_, ?_, thermalTrip_cool hc⟩, fun hc i hi => ?_⟩
    · exact fun hb => thermAlert_cool hp hc (thermAlarm_below _ hb)
    · exact fun ha hq => thermAlert_cool hp hc (thermAlarm_silent ha hq)
    · exact fun ha hen hal => thermAlert_cool hp hc (thermAlarm_logs ha hen hal)
    · have hx := hotReport_trips hp hc hi
      exact ⟨_, hx, (thermTrip_trips _).1, (thermTrip_trips _).2, fun _ => hx⟩
  · intro mhz s hp
    refine ⟨fun hc => rateWindow_unclocked hp hc mhz, fun hc => ?_⟩
    obtain ⟨t, hx, htime, hrate, hrated, hcores, hstore, hdram⟩ := rateWindow_leaves hp hc mhz
    refine ⟨t, hx, htime, ?_, ?_, ?_, hrated, ?_, hcores, hstore, hdram⟩
    · rw [hrate, rateAfter_now _ _ _ mhz.isLt]
    · rw [hrate, rateAfter_max _ _ _ mhz.isLt]
    · rw [hrate, rateAfter_min _ _ _ mhz.isLt]
    · rw [hrate, rateAfter_low]

end Sys2Proof.Machine

/-!
The registers of the rate monitors, of the test call of Dritex and of the peak of the transit pool (R58, R142, R324).
-/

namespace Sys2Proof.Machine

/-! ### What a write of RATE leaves (Table 2-6) -/

/-- A W1C bit whose 0 is written stays (R16). -/
theorem w1c_zero (w : W64) (mask : Nat) {v i : Nat} (h : bitAt v i = false) : w1c w mask v i = w := by
  rw [w1c, wrote1, h, Bool.and_false]
  rfl

theorem writeRate_clr (r : W64) :
    writeRate r (2 ^ 64 - 1) (2 ^ 63) = setFld (setFld r 31 16 (fld r 15 0)) 47 32 (fld r 15 0) := by
  have hclr : wrote1 (2 ^ 64 - 1) (2 ^ 63) 63 = true := by decide
  rw [writeRate, w1c_zero _ _ (by decide)]
  exact if_pos hclr

theorem writeRate_low (r : W64) : writeRate r (2 ^ 64 - 1) (2 ^ 48) = setFlag r 48 false := by
  have hlow : wrote1 (2 ^ 64 - 1) (2 ^ 48) 48 = true := by decide
  have hclr : ¬ wrote1 (2 ^ 64 - 1) (2 ^ 48) 63 = true := by decide
  rw [writeRate, w1c, if_pos hlow]
  exact if_neg hclr

section

variable (s : State) (mask v : Nat)

theorem csrWrite_rate : csrWrite s (dieReg .central 0x108) mask v
    = { s with mgmt := { s.mgmt with rate := writeRate s.mgmt.rate mask v } } :=
  csrWrite_mgmt s mask v (by decide)

theorem csrWrite_hoofRate (h : HoofId) (hh : hoofThere s h.val = true) : csrWrite s (dieReg (.hoof h) 0x108) mask v
    = s.setHoof h.val { s.hoof h.val with rate := writeRate (s.hoof h.val).rate mask v } :=
  csrWrite_hoof s mask v h (by decide) hh

/-! ### The test call and the peak -/

/-- The test call (R142): TCTR1 takes the value, and the output for TKEY and the counter is there at once. -/
theorem csrWrite_tctr1 (v : W64) : csrWrite s (bSCHED + 0x230) (2 ^ 64 - 1) v.toNat
    = let s1 := drxTest { s with sched := { s.sched with tctr1 := v } }
      { s1 with sched := { s1.sched with tbusy := true } } := by
  rw [csrWrite_sched s _ _ (by decide)]
  show (let s1 := drxTest { s with sched := { s.sched with tctr1 := mergeHalf s.sched.tctr1 (2 ^ 64 - 1) v.toNat } }
    { s1 with sched := { s1.sched with tbusy := true } }) = _
  rw [mergeHalf_full]

theorem csrReadFx_tout (hi lo1 hi1 : Bool) :
    csrReadFx s (bSCHED + (if hi then 0x240 else 0x238)) lo1 hi1 = { s with sched := { s.sched with tbusy := false } } := by
  cases hi
  · rfl
  · rfl

theorem csrWrite_pclr : csrWrite s (bSTORE + 0x18) (2 ^ 64 - 1) (2 ^ 63) = { s with units := { s.units with tppeak := tpuse s } } :=
  csrWrite_units s _ _ (by decide) (by decide)

end

theorem toutRead_answers {s : State} (hi : Bool) (hl : s.live = true) :
    Answers (.toutRead hi) s { s with sched := { s.sched with tbusy := false } } := by
  refine congrArg (commit s) ?_
  rw [csrRead8, if_pos (csrReach_of_live hl _), csrReadFx_tout]

/-- PCLR leaves the peak at the present use, which the command itself does not change. -/
theorem pclr_leaves {s : State} (hl : s.live = true) : ∃ t, exec .pclr s = .next t ∧ t.units.tppeak = tpuse s
    ∧ t = settle s { s with units := { s.units with tppeak := t.units.tppeak } } := by
  have hx : Answers .pclr s { s with units := { s.units with tppeak := tpuse s } } :=
    answers_csrWrite8 rfl (csrReach_of_live hl _) (csrWrite_pclr s)
  have hpeak : (settle s { s with units := { s.units with tppeak := tpuse s } }).units.tppeak = tpuse s := Nat.max_self _
  exact ⟨_, hx, hpeak, by rw [hpeak]⟩

/-- Settles O55: each command is one access to one register, and each register has its law above. -/
theorem monitorTestCallAndPeakRegisters : Obligations.MonitorTestCallAndPeakRegisters := by
  intro s
  refine ⟨fun hp => ⟨?_, ?_⟩, fun h hl hh => ⟨?_, ?_⟩, fun v hl => ?_, fun hi hl => toutRead_answers hi hl, pclr_leaves⟩
  · exact answers_csrWrite8 rfl (csrReach_mgmt hp (by decide)) (by rw [csrWrite_rate, writeRate_clr])
  · exact answers_csrWrite8 rfl (csrReach_mgmt hp (by decide)) (by rw [csrWrite_rate, writeRate_low])
  · exact answers_csrWrite8 rfl (csrReach_of_live hl _) (by rw [csrWrite_hoofRate s _ _ h hh, writeRate_clr])
  · exact answers_csrWrite8 rfl (csrReach_of_live hl _) (by rw [csrWrite_hoofRate s _ _ h hh, writeRate_low])
  · exact answers_csrWrite8 rfl (csrReach_of_live hl _) (csrWrite_tctr1 s v)

end Sys2Proof.Machine

/-!
The scalar instructions of a control core (R148 to R154): a core that fetches one runs it, and what it leaves is what the instruction's row says.
-/

namespace Sys2Proof.Machine

/-! ### A fetched instruction runs -/

section

variable {i : Instr} {s r : State} {c : CoreId} {n maj func : Nat} {ok : Bool} {f : Core → State}

theorem answers_of_scalar (hx : exec i s = commit s (scalar s c.toNat n maj func ok f)) (h : Fetches s c n) (hk : ok = true)
    (hf : f (s.core c.toNat) = r) : Answers i s (turned s c.toNat r) := by
  rw [Answers, hx, scalar_run' h hk, hf]
  rfl

theorem setsCore_of_scalar {k : Core} (hx : exec i s = commit s (scalar s c.toNat n maj func ok f)) (h : Fetches s c n) (hk : ok = true)
    (hf : f (s.core c.toNat) = s.setCore c.toNat k) : SetsCore i s c k :=
  setsCore_of (answers_of_scalar hx h hk hf)

theorem writesReg_of_scalar {rd : BitVec 5} {v : W64} (hx : exec i s = commit s (scalar s c.toNat n maj func ok f)) (h : Fetches s c n)
    (hk : ok = true) (hf : f (s.core c.toNat) = s.setCore c.toNat (((s.core c.toNat).setS rd.toNat v).adv n)) : WritesReg i s c rd v n :=
  writesReg_of (answers_of_scalar hx h hk hf)

theorem writesPred_of_scalar {p : Nat} {b : Bool} (hx : exec i s = commit s (scalar s c.toNat 4 maj func ok f)) (h : Fetches s c 4)
    (hk : ok = true) (hf : f (s.core c.toNat) = s.setCore c.toNat (((s.core c.toNat).setP p b).adv 4)) : WritesPred i s c p b :=
  writesPred_of (answers_of_scalar hx h hk hf)

end

/-! ### Arithmetic (Tables 6-3 and 6-4) -/

section

variable {s : State} {c : CoreId} {rd rs1 rs2 : BitVec 5}

theorem op_writesReg (h : Fetches s c 4) {func : BitVec 6} (hle : func.toNat ≤ 15) (hclz : func = 15 → rs2 = 0) :
    WritesReg (.op c rd rs1 rs2 func) s c rd
      (aluOp func.toNat ((s.core c.toNat).getS rs1.toNat) ((s.core c.toNat).getS rs2.toNat)) 4 := by
  have hrs2 : func.toNat ≠ 15 ∨ rs2 = 0 := (em (func.toNat = 15)).symm.imp_right fun e => hclz (BitVec.eq_of_toNat_eq e)
  exact writesReg_of_scalar rfl h (by simp only [hle, decide_true, Bool.true_and, ← Bool.decide_or, hrs2]) rfl

/-- SHI shifts by imm[5:0] in the kind imm[7:6]. -/
theorem shi_writesReg (h : Fetches s c 4) {imm : BitVec 16} {kind : Nat} (hk : kind < 3) (hlo : 64 * kind ≤ imm.toNat)
    (hhi : imm.toNat < 64 * kind + 64) :
    WritesReg (.shi c rd rs1 imm) s c rd (shiOp kind (imm.toNat - 64 * kind) ((s.core c.toNat).getS rs1.toNat)) 4 := by
  have hkind : bits imm.toNat 7 6 = kind := by simp only [bits]; omega
  have hamount : bits imm.toNat 5 0 = imm.toNat - 64 * kind := by simp only [bits]; omega
  rw [← hamount, ← hkind]
  exact writesReg_of_scalar rfl h (decide_eq_true (by omega)) rfl

end

/-- Settles O9: each row is `scalar` of a register write, OP by `aluOp` and SHI by `shiOp`. -/
theorem scalarArithmetic : Obligations.ScalarArithmetic := by
  intro c rd rs1 rs2 s
  refine ⟨fun func h hle hclz => op_writesReg h hle hclz, fun imm h => ⟨?_, ?_, ?_, ?_, fun h1 => ?_, fun h0 h1 => ?_, fun h0 h1 => ?_⟩, fun imm lo h => ?_⟩
  · exact writesReg_of_scalar rfl h rfl rfl
  · exact writesReg_of_scalar rfl h rfl rfl
  · exact writesReg_of_scalar rfl h rfl rfl
  · exact writesReg_of_scalar rfl h rfl rfl
  · exact shi_writesReg (kind := 0) h (by decide) (by omega) (by omega)
  · exact shi_writesReg (kind := 1) h (by decide) (by omega) (by omega)
  · exact shi_writesReg (kind := 2) h (by decide) (by omega) (by omega)
  · exact writesReg_of_scalar rfl h rfl rfl

/-! ### Predicates -/

section

variable {s : State} {c : CoreId} {rd rs1 rs2 : BitVec 5}

theorem cmp_writesPred (h : Fetches s c 4) (hrd : rd.toNat < 8) {func : BitVec 6} (hle : func.toNat ≤ 5) :
    WritesPred (.cmp c rd rs1 rs2 func) s c rd.toNat
      (cmpOp func.toNat ((s.core c.toNat).getS rs1.toNat) ((s.core c.toNat).getS rs2.toNat)) :=
  writesPred_of_scalar rfl h (by simp only [hle, hrd, decide_true, Bool.true_and]) rfl

theorem cmpi_writesPred (h : Fetches s c 4) {imm : BitVec 16} {kind : Nat} (hkind : rd.toNat / 8 = kind) :
    WritesPred (.cmpi c rd rs1 imm) s c (rd.toNat % 8) (cmpOp kind ((s.core c.toNat).getS rs1.toNat) (imm.signExtend 64)) := by
  subst hkind
  exact writesPred_of_scalar rfl h rfl rfl

theorem plog_writesPred (h : Fetches s c 4) (hrd : rd.toNat < 8) (h1 : rs1.toNat < 8) (h2 : rs2.toNat < 8) {func : BitVec 6} (hle : func.toNat ≤ 3) :
    WritesPred (.plog c rd rs1 rs2 func) s c rd.toNat
      (plogOp func.toNat ((s.core c.toNat).getP rs1.toNat) ((s.core c.toNat).getP rs2.toNat)) :=
  writesPred_of_scalar rfl h (by simp only [hle, hrd, h1, h2, decide_true, Bool.true_and]) rfl

end

/-- Settles O10: each kind is a case of `cmpOp` or `plogOp`. -/
theorem scalarPredicates : Obligations.ScalarPredicates := by
  intro c rd rs1 rs2 s h
  refine ⟨fun hrd => ?_, fun imm => ?_, fun hrd h1 h2 => ?_⟩
  · exact ⟨cmp_writesPred h hrd (by decide), cmp_writesPred h hrd (by decide), cmp_writesPred h hrd (by decide),
      cmp_writesPred h hrd (by decide), cmp_writesPred h hrd (by decide), cmp_writesPred h hrd (by decide)⟩
  · exact ⟨cmpi_writesPred h, cmpi_writesPred h, cmpi_writesPred h, cmpi_writesPred h⟩
  · exact ⟨plog_writesPred h hrd h1 h2 (by decide), plog_writesPred h hrd h1 h2 (by decide), plog_writesPred h hrd h1 h2 (by decide),
      plog_writesPred h hrd h1 h2 (by decide)⟩

end Sys2Proof.Machine

/-!
Traps of a control core (R151, R171 to R173): what `preciseTrap` and `boundaryTrap` leave of a core that can take one, and the instructions that take one.
-/

namespace Sys2Proof.Machine

/-! ### Store writes beside core updates -/

namespace State

variable (s : State) (o : Nat) (bs : List Byte)

/-- A write of software space touches the store and what the buckets note of it (R298, R332). -/
theorem stWrite_eq : s.stWrite o bs = { s with store := (s.stWrite o bs).store, armed := (s.stWrite o bs).armed } := by
  unfold stWrite
  split <;> rfl

@[simp] theorem core_stWrite (c : Nat) : (s.stWrite o bs).core c = s.core c := by rw [stWrite_eq]; rfl

/-- Where it writes, and what it notes, does not look at the cores. -/
theorem stWrite_setCore (c : Nat) (k : Core) : (s.setCore c k).stWrite o bs = (s.stWrite o bs).setCore c k := by
  unfold stWrite
  rw [setCore_units]
  split <;> rfl

end State

/-! ### What an instruction leaves that stores -/

theorem onlyStores_turned {s r : State} (c : CoreId) (h : r = { s with cores := r.cores, store := r.store, armed := r.armed }) :
    OnlyStores s (settle s (turned s c.toNat r)) c := by
  refine ⟨?_, onlyTurn_turned s r c (by rw [h])⟩
  rw [h]
  unfold turned
  split_ifs <;> rfl

theorem onlyStores_settle {s r : State} (c : CoreId) (h : r = { s with cores := r.cores, store := r.store, armed := r.armed }) :
    OnlyStores s (settle s r) c := by
  rw [h]
  exact ⟨rfl, fun _ => rfl, fun _ _ => Iff.rfl⟩

/-! ### A trap that is taken -/

/-- The store offset of the place at which the next record of core k enters its queue (Table 6-12). -/
def tqPlace (k : Core) : Nat := k.tqbase.toNat / 512 * 512 + 32 * (k.tqtail.toNat % 16)

/-- Core c of s takes a trap with record w and becomes k; beside it only the store and the buckets' notes of it change. -/
structure Entered (s r : State) (c : Nat) (w : TrapRec) (k : Core) : Prop where
  frame : r = { s with cores := r.cores, store := r.store, armed := r.armed }
  store : r.store = (s.stWrite (tqPlace (s.core c)) (trapBytes w)).store
  core : r.core c = k
  others : ∀ d, d ≠ c → r.core d = s.core d

/-- The record enters the queue and the core jumps, from a state in which core c was set to k without touching its queue. -/
theorem entered_jumpTrap_pushTrap {s : State} {c : Nat} {k : Core} (w : TrapRec) (pc : W64) (hplace : tqPlace k = tqPlace (s.core c)) :
    Entered s (jumpTrap (pushTrap (s.setCore c k) c w) c pc) c w
      { k with tqtail := k.tqtail + 1, epc := pc &&& ~~~3#64, inTrap := true, pc := k.tvec &&& ~~~3#64 } := by
  have hpush : pushTrap (s.setCore c k) c w
      = ((s.stWrite (tqPlace (s.core c)) (trapBytes w)).setCore c k).setCore c { k with tqtail := k.tqtail + 1 } := by
    rw [← hplace, ← State.stWrite_setCore, pushTrap, State.core_setCore_same]
    rfl
  rw [hpush, jumpTrap, State.core_setCore_same]
  refine ⟨?_, by simp only [State.setCore_store], State.core_setCore_same _ _ _, fun d hd => ?_⟩
  · rw [State.stWrite_eq]; rfl
  · rw [State.core_setCore_ne _ _ hd, State.core_setCore_ne _ _ hd, State.core_setCore_ne _ _ hd, State.core_stWrite]

theorem preciseTrap_entered {s : State} {c : CoreId} (hfree : TrapFree s c) (w : TrapRec) :
    Entered s (preciseTrap s c.toNat w) c.toNat w
      (let k := s.core c.toNat
       { k with stall := none, tqtail := k.tqtail + 1, epc := k.pc &&& ~~~3#64, inTrap := true, pc := k.tvec &&& ~~~3#64 }) := by
  obtain ⟨htrap, hroom⟩ := hfree
  have hcan : ¬ ((s.core c.toNat).inTrap = true ∨ tqFull (s.core c.toNat) = true) := by simp [htrap, hroom]
  have htaken : preciseTrap s c.toNat w
      = jumpTrap (pushTrap (s.setCore c.toNat { s.core c.toNat with stall := none }) c.toNat w) c.toNat (s.core c.toNat).pc := by
    simp only [preciseTrap, hcan, if_false]
  rw [htaken]
  exact entered_jumpTrap_pushTrap w _ rfl

/-- A core that is in a trap, or whose queue is full, halts with DFAULT, and the log records it (R171, R173). -/
theorem preciseTrap_doubleFault {s : State} {c : Nat} (h : (s.core c).inTrap = true ∨ tqFull (s.core c) = true) (w : TrapRec) :
    preciseTrap s c w = doubleFault (s.setCore c { s.core c with stall := none }) c :=
  if_pos h

theorem doubleFault_store (s : State) (c : Nat) : (doubleFault s c).store = s.store := rfl
theorem doubleFault_dram (s : State) (c : Nat) : (doubleFault s c).dram = s.dram := rfl

theorem core_doubleFault_same (s : State) (c : Nat) :
    (doubleFault s c).core c = { s.core c with running := false, byHalt := false, stall := none, dfault := true } :=
  State.core_setCore_same _ _ _

theorem core_doubleFault_ne (s : State) {c d : Nat} (h : d ≠ c) : (doubleFault s c).core d = s.core d :=
  State.core_setCore_ne _ _ h

theorem flushAsync_of_nil {s : State} {c : Nat} (h : (s.core c).async = []) :
    flushAsync s c = s.setCore c { s.core c with async := [] } := by
  rw [flushAsync, h]; rfl

section

variable {i : Instr} {s : State} {c : CoreId} {w : TrapRec}

/-- A command whose meaning is the trap w at the instruction of core c. -/
theorem takesTrap_of_preciseTrap (hx : exec i s = commit s (turned s c.toNat (preciseTrap s c.toNat w))) (hfree : TrapFree s c) :
    TakesTrap i s c w := by
  obtain ⟨hframe, hstore, hcore, hothers⟩ := preciseTrap_entered hfree w
  refine ⟨_, hx, onlyStores_turned c hframe, ?_, ?_, fun d hd => ?_⟩
  · rw [State.settle_store, turned_store, hstore]
    rfl
  · rw [State.settle_core, turned_core, hcore]
  · rw [State.settle_core, turned_core, hothers d hd]

variable {maj func n : Nat} {ok : Bool} {f : Core → State}

/-- A fetched instruction with a reserved encoding takes the trap ILLEGAL (R15, R150). -/
theorem takesTrap_illegal (hx : exec i s = commit s (scalar s c.toNat n maj func ok f)) (h : Fetches s c n) (hk : ok = false)
    (hfree : TrapFree s c) : TakesTrap i s c (preciseRec s c.toNat causeILLEGAL 0 maj func 0 0x18) := by
  refine takesTrap_of_preciseTrap ?_ hfree
  rw [hx, hk]
  simp only [scalar, h.1, h.2, not_true_eq_false, if_false, Bool.false_eq_true, not_false_eq_true, if_true, trapIllegal]

/-- A fetched instruction whose effect is a trap. -/
theorem takesTrap_of_scalar (hx : exec i s = commit s (scalar s c.toNat n maj func true f)) (h : Fetches s c n)
    (hf : f (s.core c.toNat) = preciseTrap s c.toNat w) (hfree : TrapFree s c) : TakesTrap i s c w := by
  refine takesTrap_of_preciseTrap ?_ hfree
  rw [hx, scalar_run h, hf]

/-- Outside CSR space and the store no access reaches (R151). -/
theorem scalarReach_outside {a : Nat} (n : Nat) (hcsr : inCsr a = false) (hstore : inStore a = false) : scalarReach s a n = false := by
  rw [scalarReach, hcsr, hstore]
  rfl

/-- What a load or a store does: ADDR out of reach, ALIGN at a place that is no multiple of its length, else its access `g` (R151). -/
def accessOr (s : State) (c : CoreId) (maj n a : Nat) (g : State) : State :=
  if ¬ scalarReach s a n then trapAddr s c.toNat maj else if a % n ≠ 0 then trapAlign s c.toNat maj else g

variable {a : Nat} {g : State}

theorem access_misaligned (h : Fetches s c 4) (hfree : TrapFree s c) (hx : exec i s = commit s (scalar s c.toNat 4 maj 0 true f))
    (hf : f (s.core c.toNat) = accessOr s c maj n a g) (hr : scalarReach s a n = true) (ha : a % n ≠ 0) :
    TakesTrap i s c (preciseRec s c.toNat causeALIGN 0 maj 0 0 0) := by
  refine takesTrap_of_scalar hx h ?_ hfree
  rw [hf, accessOr, if_neg (not_not_intro hr), if_pos ha, trapAlign]

theorem access_unreachable (h : Fetches s c 4) (hfree : TrapFree s c) (hx : exec i s = commit s (scalar s c.toNat 4 maj 0 true f))
    (hf : f (s.core c.toNat) = accessOr s c maj n a g) (hr : scalarReach s a n = false) :
    TakesTrap i s c (preciseRec s c.toNat causeADDR 0 maj 0 0 0x16) := by
  refine takesTrap_of_scalar hx h ?_ hfree
  rw [hf, accessOr, if_pos (ne_true_of_eq_false hr), trapAddr]

/-- Four parcels of which the first is no engine word are that parcel's command (notes/assumptions/8). -/
theorem exec_engineWord_parcel {w : BitVec 128} (hmaj : bits w.toNat 5 0 ≠ 0x3F) :
    exec (.engineWord c w) s = commit s (coreParcel s c.toNat w.toNat) :=
  congrArg (commit s) (if_pos hmaj)

/-- MAJ 0x00 and 0x30 are in no table: reserved (R150). -/
theorem parcelOk_of_unlisted {m : Nat} (h : bits m 5 0 = 0 ∨ bits m 5 0 = 0x30) : parcelOk m = false ∧ parcelFunc m = 0 := by
  rcases h with h | h <;> simp [parcelOk, parcelFunc, h]

theorem engineWord_unlisted (h : Fetches s c 4) (hfree : TrapFree s c) {w : BitVec 128} (hw : w.toNat % 64 = 0 ∨ w.toNat % 64 = 0x30) :
    TakesTrap (.engineWord c w) s c (preciseRec s c.toNat causeILLEGAL 0 (w.toNat % 64) 0 0 0x18) := by
  have hmaj : bits w.toNat 5 0 = w.toNat % 64 := by simp [bits]
  obtain ⟨hok, hfunc⟩ := parcelOk_of_unlisted (m := w.toNat) (by rwa [hmaj])
  refine takesTrap_illegal ?_ h rfl hfree (f := fun _ => s)
  rw [exec_engineWord_parcel (by omega), coreParcel, hok, hfunc, hmaj]
  rfl

end

/-- Settles O17: each instruction reaches `preciseTrap` with its cause, and `preciseTrap_entered` says what that leaves. -/
theorem preciseTraps : Obligations.PreciseTraps := by
  intro c rd rs1 rs2 imm func s h hfree
  refine ⟨?_, fun hfunc => ?_, fun himm hfields => ?_, fun w hw => engineWord_unlisted h hfree hw, fun hr ha => ⟨?_, ?_⟩,
    fun hr ha => ⟨?_, ?_⟩, fun hcsr hstore => ?_⟩
  · exact takesTrap_of_scalar rfl h rfl hfree
  · exact takesTrap_illegal rfl h (by simp [Nat.not_le.mpr hfunc]) hfree
  · refine takesTrap_illegal rfl h ?_ hfree
    have hkind : imm.toNat ≠ 1 := by omega
    have hreserved : ¬ (rd = 0 ∧ rs1 = 0) := fun ⟨h1, h2⟩ => hfields.elim (· h1) (· h2)
    simp only [hkind, decide_false, Bool.false_or, ← Bool.decide_and, hreserved, decide_false, Bool.and_false]
  · exact access_misaligned h hfree rfl rfl hr ha
  · exact access_misaligned h hfree rfl rfl hr ha
  · exact access_misaligned h hfree rfl rfl hr ha
  · exact access_misaligned h hfree rfl rfl hr ha
  · have hr : ∀ n, scalarReach s (scalarAddr (s.core c.toNat) rs1 imm) n = false := fun n => scalarReach_outside n hcsr hstore
    exact ⟨access_unreachable h hfree rfl rfl (hr 8), access_unreachable h hfree rfl rfl (hr 8),
      access_unreachable h hfree rfl rfl (hr 4), access_unreachable h hfree rfl rfl (hr 4)⟩

/-! ### A core alone changes -/

/-- Core c of s becomes k, and nothing else changes. -/
structure CoreOnly (s r : State) (c : Nat) (k : Core) : Prop where
  frame : r = { s with cores := r.cores }
  core : r.core c = k
  others : ∀ d, d ≠ c → r.core d = s.core d

namespace CoreOnly

variable {s r : State} {c : Nat} {k : Core}

theorem refl (s : State) (c : Nat) : CoreOnly s s c (s.core c) := ⟨rfl, rfl, fun _ _ => rfl⟩

theorem setCore (h : CoreOnly s r c k) (k' : Core) : CoreOnly s (r.setCore c k') c k' := by
  obtain ⟨hframe, -, hothers⟩ := h
  refine ⟨by rw [hframe]; rfl, State.core_setCore_same _ _ _, fun d hd => ?_⟩
  rw [State.core_setCore_ne _ _ hd, hothers d hd]

/-- A core with no record waiting has none to flush. -/
theorem flushAsync (h : CoreOnly s r c k) (hk : k.async = []) : CoreOnly s (flushAsync r c) c k := by
  have hflush : Machine.flushAsync r c = r.setCore c k := by
    rw [flushAsync_of_nil (by rw [h.core, hk]), h.core, ← hk]
  rw [hflush]
  exact h.setCore k

theorem jumpTrap (h : CoreOnly s r c k) (pc : W64) :
    CoreOnly s (jumpTrap r c pc) c { k with epc := pc &&& ~~~3#64, inTrap := true, pc := k.tvec &&& ~~~3#64 } := by
  rw [Machine.jumpTrap, h.core]
  exact h.setCore _

theorem haltNow (h : CoreOnly s r c k) (hk : k.async = []) :
    CoreOnly s (haltNow r c) c { k with running := false, byHalt := false, halting := false, stall := none } := by
  rw [Machine.haltNow, h.core]
  exact (h.setCore _).flushAsync hk

theorem setsCore {i : Instr} {c : CoreId} (h : CoreOnly s r c.toNat k) (hx : exec i s = commit s r) : SetsCore i s c k := by
  obtain ⟨hframe, hcore, hothers⟩ := h
  refine ⟨_, hx, ⟨by rw [hframe]; rfl, ?_, fun d hd => (State.settle_core _ _ _).trans (hothers d hd)⟩, (State.settle_core _ _ _).trans hcore⟩
  rw [hframe]
  exact ⟨fun _ => rfl, fun _ _ => Iff.rfl⟩

end CoreOnly

/-! ### The boundary of an instruction (R171) -/

theorem Entered.flushAsync {s r : State} {c : Nat} {w : TrapRec} {k : Core} (h : Entered s r c w k) (hk : k.async = []) :
    Entered s (flushAsync r c) c w k := by
  obtain ⟨hframe, hstore, hcore, hothers⟩ := h
  have hflush : Machine.flushAsync r c = r.setCore c k := by
    rw [flushAsync_of_nil (by rw [hcore, hk]), hcore, ← hk]
  rw [hflush]
  refine ⟨by rw [hframe]; rfl, hstore, State.core_setCore_same _ _ _, fun d hd => ?_⟩
  rw [State.core_setCore_ne _ _ hd, hothers d hd]

section

variable {s : State} {c : CoreId}

/-- Core c stands at a boundary at which a waiting trap is taken. -/
structure AtBoundary (s : State) (c : CoreId) : Prop where
  live : s.live = true
  running : (s.core c.toNat).running = true
  stall : (s.core c.toNat).stall = none
  free : TrapFree s c

theorem AtBoundary.takes (h : AtBoundary s c) :
    ¬ ¬ (s.live = true ∧ (s.core c.toNat).running = true ∧ (s.core c.toNat).stall.isNone = true ∧ ¬ (s.core c.toNat).inTrap = true) := by
  simp [h.live, h.running, h.stall, h.free.1]

theorem boundaryTrap_record (h : AtBoundary s c) (hj : (s.core c.toNat).jumps = 0) {w : TrapRec} (ha : (s.core c.toNat).async = [w]) :
    boundaryTrap s c.toNat = flushAsync (jumpTrap (pushTrap (s.setCore c.toNat { s.core c.toNat with async := [] }) c.toNat w)
      c.toNat (s.core c.toNat).pc) c.toNat := by
  simp only [boundaryTrap, if_neg h.takes, hj, ha, h.free.2, Nat.lt_irrefl, if_false, Bool.false_eq_true]

theorem boundaryTrap_jump (h : AtBoundary s c) (hj : 0 < (s.core c.toNat).jumps) :
    boundaryTrap s c.toNat = flushAsync (jumpTrap (s.setCore c.toNat { s.core c.toNat with jumps := (s.core c.toNat).jumps - 1 })
      c.toNat (s.core c.toNat).pc) c.toNat := by
  simp only [boundaryTrap, if_neg h.takes, hj, if_true]

end

/-- Settles O18: the record waiting enters as a precise trap's does, and a counted one jumps alone. -/
theorem pendingTrapTaken : Obligations.PendingTrapTaken := by
  intro c s hlive hrun hstall hfree
  have hb : AtBoundary s c := ⟨hlive, hrun, hstall, hfree⟩
  refine ⟨fun w hj ha => ?_, fun hj ha => ?_⟩
  · obtain ⟨hframe, hstore, hcore, hothers⟩ :=
      (entered_jumpTrap_pushTrap (s := s) (c := c.toNat) (k := { s.core c.toNat with async := [] }) w (s.core c.toNat).pc rfl).flushAsync rfl
    rw [← boundaryTrap_record hb hj ha] at hframe hstore hcore hothers
    exact ⟨_, rfl, onlyStores_settle c hframe, hstore, hcore, hothers⟩
  · have hjump := (((CoreOnly.refl s c.toNat).setCore { s.core c.toNat with jumps := (s.core c.toNat).jumps - 1 }).jumpTrap
      (s.core c.toNat).pc).flushAsync ha
    rw [← boundaryTrap_jump hb hj] at hjump
    exact hjump.setsCore rfl

end Sys2Proof.Machine

/-!
CORECTL of a core (R154, Table 6-6): what RUN, its absence and WAKE make of the core.
-/

namespace Sys2Proof.Machine

namespace CoreOnly

variable {s r : State} {c : Nat} {k : Core}

theorem runCore_halted (h : CoreOnly s r c k) (hk : k.running = false) :
    CoreOnly s (runCore r c) c
      { Core.reset c with bootpc := k.bootpc, dfault := k.dfault, running := true, pc := BitVec.ofNat 64 (k.bootpc.toNat * 4) } := by
  rw [runCore, h.core]
  simp only [hk, Bool.false_eq_true, if_false]
  exact h.setCore _

theorem runCore_running (h : CoreOnly s r c k) (hk : k.running = true) : CoreOnly s (runCore r c) c k := by
  rw [runCore, h.core]
  simp only [hk, if_true]
  exact h

theorem haltCore_halted (h : CoreOnly s r c k) (hk : k.running = false) : CoreOnly s (haltCore r c) c k := by
  rw [haltCore, h.core]
  simp only [hk, Bool.false_eq_true, not_false_eq_true, if_true]
  exact h

/-- A core that stalls on nothing, or in WAIT, halts at once. -/
theorem haltCore_now (h : CoreOnly s r c k) (hk : k.running = true) (ha : k.async = []) (hst : k.stall = none ∨ ∃ rd w, k.stall = some (.wait rd w)) :
    CoreOnly s (haltCore r c) c { k with running := false, byHalt := false, halting := false, stall := none } := by
  have hnow : Machine.haltCore r c = Machine.haltNow r c := by
    rw [haltCore, h.core]
    rcases hst with hst | ⟨rd, w, hst⟩
    · simp only [hk, not_true_eq_false, if_false, hst]
    · simp only [hk, not_true_eq_false, if_false, hst]
  rw [hnow]
  exact h.haltNow ha

theorem haltCore_later (h : CoreOnly s r c k) (hk : k.running = true) {st : Stall} (hst : k.stall = some st) (hw : ∀ rd w, st ≠ .wait rd w) :
    CoreOnly s (haltCore r c) c { k with halting := true } := by
  have hlater : Machine.haltCore r c = r.setCore c { k with halting := true } := by
    rw [haltCore, h.core]
    simp only [hk, not_true_eq_false, if_false, hst]
  rw [hlater]
  exact h.setCore _

theorem wakeCore_wakes (h : CoreOnly s r c k) (hk : k.running = false) (hb : k.byHalt = true) :
    CoreOnly s (wakeCore r c) c { k with running := true, byHalt := false } := by
  rw [wakeCore, h.core]
  simp only [hk, hb, Bool.false_eq_true, not_false_eq_true, and_self, if_true]
  exact h.setCore _

theorem wakeCore_stays (h : CoreOnly s r c k) (hk : k.running = true ∨ k.byHalt = false) : CoreOnly s (wakeCore r c) c k := by
  have hno : ¬ (k.byHalt = true ∧ ¬ k.running = true) := fun ⟨hb, hr⟩ => hk.elim hr (ne_true_of_eq_false · hb)
  rw [wakeCore, h.core]
  simp only [hno, if_false]
  exact h

end CoreOnly

/-! ### The register -/

/-- The word of CORECTL with BOOTPC b, RUN and WAKE (Table 6-6). -/
def corectlWord (b : BitVec 28) (run wake : Bool) : Nat := b.toNat * 4 + (if run then 2 ^ 32 else 0) + (if wake then 2 ^ 34 else 0)

section

variable (b : BitVec 28) (run wake : Bool)

theorem corectlWord_eq : corectlWord b run wake = b.toNat * 4 + 2 ^ 32 * run.toNat + 2 ^ 34 * wake.toNat := by
  cases run <;> cases wake <;> rfl

theorem corectlWord_lt : corectlWord b run wake < 2 ^ 64 := by
  have hb := b.isLt
  have hrun := run.toNat_le
  have hwake := wake.toNat_le
  rw [corectlWord_eq]
  omega

/-- The four fields that a write looks at. -/
theorem bits_corectlWord : bits (corectlWord b run wake) 29 2 = b.toNat ∧ bits (corectlWord b run wake) 32 32 = run.toNat
    ∧ bits (corectlWord b run wake) 34 34 = wake.toNat ∧ bits (corectlWord b run wake) 35 35 = 0 := by
  have hb := b.isLt
  have hrun := run.toNat_le
  have hwake := wake.toNat_le
  rw [corectlWord_eq]
  simp only [bits]
  omega

theorem corectlWord_bootpc : bits (corectlWord b run wake) 29 2 = b.toNat := (bits_corectlWord b run wake).1

theorem corectlWord_run : bitAt (corectlWord b run wake) 32 = run := by
  obtain ⟨-, hbits, -, -⟩ := bits_corectlWord b run wake
  rw [bitAt, hbits]
  cases run <;> rfl

theorem corectlWord_wake : bitAt (corectlWord b run wake) 34 = wake := by
  obtain ⟨-, -, hbits, -⟩ := bits_corectlWord b run wake
  rw [bitAt, hbits]
  cases wake <;> rfl

theorem corectlWord_dfault : bitAt (corectlWord b run wake) 35 = false := by
  obtain ⟨-, -, -, hbits⟩ := bits_corectlWord b run wake
  rw [bitAt, hbits]
  rfl

/-- An 8-byte write of CORECTL: BOOTPC takes its field, then RUN and WAKE act. -/
theorem writeCorectl_full (s : State) (c : Nat) :
    writeCorectl s c (2 ^ 64 - 1) (corectlWord b run wake)
      = let s1 := s.setCore c { s.core c with bootpc := b }
        let s2 := if run then runCore s1 c else haltCore s1 c
        if wake then wakeCore s2 c else s2 := by
  have hv : (BitVec.ofNat 64 (corectlWord b run wake)).toNat = corectlWord b run wake :=
    Nat.mod_eq_of_lt (corectlWord_lt b run wake)
  have hmerge : ∀ old, mergeHalf old (2 ^ 64 - 1) (corectlWord b run wake) = BitVec.ofNat 64 (corectlWord b run wake) := fun old => by
    conv_lhs => rw [← hv]
    exact mergeHalf_full _ _
  have hbit : ∀ i, i = 34 ∨ i = 35 → bitAt (2 ^ 64 - 1) i = true := by rintro i (rfl | rfl) <;> decide
  simp only [writeCorectl, hmerge, fld, flag, hv, corectlWord_bootpc, corectlWord_run, wrote1, corectlWord_wake, corectlWord_dfault,
    hbit _ (.inl rfl), Bool.true_and, Bool.and_false, Bool.not_false, Bool.and_true, BitVec.ofNat_toNat, BitVec.setWidth_eq]

end

theorem writeSched_corectl (s : State) (c : CoreId) (mask v : Nat) : writeSched s (0x300 + 8 * c.toNat) mask v = writeCorectl s c.toNat mask v := by
  have hc := c.isLt
  unfold writeSched
  iterate 5 rw [if_neg (by omega)]
  rw [if_pos (by omega)]
  congr 1
  omega

/-- What a command answers that writes CORECTL c. -/
theorem exec_corectl {i : Instr} {s : State} {c : CoreId} {b : BitVec 28} {run wake : Bool} {v : Nat}
    (hx : exec i s = commit s (csrWrite8 s (bSCHED + 0x300 + 8 * c.toNat) v)) (hv : v = corectlWord b run wake) (hl : s.live = true) :
    exec i s = commit s (let s1 := s.setCore c.toNat { s.core c.toNat with bootpc := b }
      let s2 := if run then runCore s1 c.toNat else haltCore s1 c.toNat
      if wake then wakeCore s2 c.toNat else s2) := by
  have hc := c.isLt
  rw [hx, csrWrite8, if_pos (csrReach_of_live hl _), Nat.add_assoc, csrWrite_sched _ _ _ (by omega), writeSched_corectl, hv, fullMask,
    writeCorectl_full]

section

variable {s : State} {c : CoreId} {k : Core}

/-- RUN = 1 with BOOTPC b. -/
theorem coreRun_setsCore (b : BitVec 28) (hl : s.live = true)
    (hk : CoreOnly s (runCore (s.setCore c.toNat { s.core c.toNat with bootpc := b }) c.toNat) c.toNat k) : SetsCore (.coreRun c b) s c k :=
  hk.setsCore (exec_corectl (run := true) (wake := false) rfl rfl hl)

/-- RUN = 0, BOOTPC as it is. -/
theorem coreHalt_setsCore (hl : s.live = true)
    (hk : CoreOnly s (haltCore (s.setCore c.toNat (s.core c.toNat)) c.toNat) c.toNat k) : SetsCore (.coreHalt c) s c k :=
  hk.setsCore (exec_corectl (run := false) (wake := false) rfl rfl hl)

/-- WAKE = 1, RUN and BOOTPC as they are. -/
theorem wake_setsCore (hl : s.live = true)
    (hk : CoreOnly s (wakeCore (if (s.core c.toNat).running then runCore (s.setCore c.toNat (s.core c.toNat)) c.toNat
      else haltCore (s.setCore c.toNat (s.core c.toNat)) c.toNat) c.toNat) c.toNat k) : SetsCore (.wake c) s c k :=
  hk.setsCore (exec_corectl (run := (s.core c.toNat).running) (wake := true) rfl rfl hl)

end

/-- Settles O53: each command is a write of CORECTL, and the three functions say what RUN, its absence and WAKE do. -/
theorem coreControlRegister : Obligations.CoreControlRegister := by
  intro c b s hl
  have hset := fun k => (CoreOnly.refl s c.toNat).setCore k
  refine ⟨fun hk => ?_, fun hk => ?_, fun hk ha hst => ?_, fun st hk hst hw => ?_, fun hk => ?_, fun hk hb => ?_, fun hk hb => ?_, fun hk => ?_⟩
  · exact coreRun_setsCore b hl ((hset _).runCore_halted hk)
  · exact coreRun_setsCore b hl ((hset _).runCore_running hk)
  · exact coreHalt_setsCore hl ((hset _).haltCore_now hk ha hst)
  · exact coreHalt_setsCore hl ((hset _).haltCore_later hk hst hw)
  · exact coreHalt_setsCore hl ((hset _).haltCore_halted hk)
  · refine wake_setsCore hl ?_
    rw [if_neg (ne_true_of_eq_false hk)]
    exact ((hset _).haltCore_halted hk).wakeCore_wakes hk hb
  · refine wake_setsCore hl ?_
    rw [if_neg (ne_true_of_eq_false hk)]
    exact ((hset _).haltCore_halted hk).wakeCore_stays (.inr hb)
  · refine wake_setsCore hl ?_
    rw [if_pos hk]
    exact ((hset _).runCore_running hk).wakeCore_stays (.inl hk)

end Sys2Proof.Machine

/-!
Loads and stores, jumps, DRX and the special registers (R151 to R154, Tables 6-3 and 6-5).
-/

namespace Sys2Proof.Machine

/-! ### Loads and stores -/

section

variable {s : State} {c : CoreId} {rd rs1 : BitVec 5} {imm : BitVec 16} {i : Instr} {maj n : Nat}

theorem load_answers (h : Fetches s c 4) (hx : exec i s = commit s (loadInstr s c.toNat maj n rd rs1 imm))
    (hr : scalarReach s (scalarAddr (s.core c.toNat) rs1 imm) n = true) (ha : scalarAddr (s.core c.toNat) rs1 imm % n = 0) :
    Answers i s (turned s c.toNat (loadFx (s.setCore c.toNat (((s.core c.toNat).setS rd.toNat
      (BitVec.ofNat 64 (loadVal s (scalarAddr (s.core c.toNat) rs1 imm) n))).adv 4)) (scalarAddr (s.core c.toNat) rs1 imm) n)) := by
  rw [Answers, hx, load_run s c maj n rd rs1 imm h hr ha]
  rfl

theorem load_store_writesReg (h : Fetches s c 4) (hx : exec i s = commit s (loadInstr s c.toNat maj n rd rs1 imm))
    (hcsr : inCsr (scalarAddr (s.core c.toNat) rs1 imm) = false) (hr : scalarReach s (scalarAddr (s.core c.toNat) rs1 imm) n = true)
    (ha : scalarAddr (s.core c.toNat) rs1 imm % n = 0) :
    WritesReg i s c rd (BitVec.ofNat 64 (leNat (readBytes s.store (scalarAddr (s.core c.toNat) rs1 imm - storeBase) n))) 4 := by
  have hload := load_answers h hx hr ha
  rw [loadFx_store _ _ hcsr, loadVal_store _ _ hcsr] at hload
  exact writesReg_of hload

theorem store_answers (h : Fetches s c 4) (hx : exec i s = commit s (storeInstr s c.toNat maj n rd rs1 imm))
    (hr : scalarReach s (scalarAddr (s.core c.toNat) rs1 imm) n = true) (ha : scalarAddr (s.core c.toNat) rs1 imm % n = 0) :
    Answers i s (turned s c.toNat (storeVal (s.setCore c.toNat ((s.core c.toNat).adv 4)) (scalarAddr (s.core c.toNat) rs1 imm) n
      ((s.core c.toNat).getS rd.toNat).toNat)) := by
  rw [Answers, hx, store_run s c maj n rd rs1 imm h hr ha]
  rfl

@[simp] theorem turned_armed (s : State) (c : Nat) (r : State) : (turned s c r).armed = r.armed := by unfold turned; split <;> rfl

theorem readBytes_writeBytes_of_length {m : List (Nat × Byte)} {o : Nat} {bs : List Byte} (hlen : bs.length = n) :
    readBytes (writeBytes m o bs) o n = bs := by
  rw [← hlen, readBytes_writeBytes]

/-- The end of a store of n bytes at offset o of the store. -/
theorem stWrite_leaves (s : State) (c : CoreId) {o : Nat} {bs : List Byte} (k : Core) (hlen : bs.length = n) (hok : storeOk s.units o n = true) :
    let t := settle s (turned s c.toNat ((s.stWrite o bs).setCore c.toNat k))
    OnlyStores s t c ∧ t.armed = markedArmed s o n ∧ (∀ d, d ≠ c.toNat → t.core d = s.core d) ∧ t.core c.toNat = k
      ∧ t.store = writeBytes s.store o bs := by
  refine ⟨onlyStores_turned c (by rw [State.stWrite_eq]; rfl), ?_, fun d hd => ?_, ?_, ?_⟩
  · rw [State.settle_armed, turned_armed, State.setCore_armed, stWrite_store hok hlen]
  · rw [State.settle_core, turned_core, State.core_setCore_ne _ _ hd, State.core_stWrite]
  · rw [State.settle_core, turned_core, State.core_setCore_same]
  · rw [State.settle_store, turned_store, State.setCore_store, stWrite_store hok hlen]

/-- A store to the store writes its bytes and no others, and moves the PC on (R151). -/
theorem store_store_leaves (h : Fetches s c 4) (hx : exec i s = commit s (storeInstr s c.toNat maj n rd rs1 imm))
    (hcsr : inCsr (scalarAddr (s.core c.toNat) rs1 imm) = false) (hr : scalarReach s (scalarAddr (s.core c.toNat) rs1 imm) n = true)
    (ha : scalarAddr (s.core c.toNat) rs1 imm % n = 0) :
    let k := s.core c.toNat
    let a := scalarAddr k rs1 imm
    ∃ t, exec i s = .next t ∧ OnlyStores s t c ∧ t.armed = markedArmed s (a - storeBase) n
      ∧ (∀ d, d ≠ c.toNat → t.core d = s.core d) ∧ t.core c.toNat = { k with pc := k.pc + 4 }
      ∧ readBytes t.store (a - storeBase) n = leBytes n (k.getS rd.toNat).toNat ∧ SameOutside s t a n := by
  intro k a
  obtain ⟨hin, hok⟩ := scalarReach_store hr hcsr
  have hlow : storeBase ≤ a := by
    simp only [inStore, Bool.and_eq_true, decide_eq_true_eq] at hin
    exact hin.1
  have hlen := leBytes_length n (k.getS rd.toNat).toNat
  have hstored := store_answers h hx hr ha
  rw [storeVal_store _ _ _ hcsr, State.stWrite_setCore] at hstored
  obtain ⟨honly, harmed, hothers, hcore, hstore⟩ := stWrite_leaves s c (k.adv 4) hlen hok
  exact ⟨_, hstored, honly, harmed, hothers, hcore, hstore ▸ readBytes_writeBytes_of_length hlen, sameOutside_store hlen hlow c honly hstore⟩

end

/-- Settles O11: a load is `load_answers`, and `loadVal` and `loadFx` have their laws for the store and for each half of a register. -/
theorem scalarLoads : Obligations.ScalarLoads := by
  intro c rd rs1 imm s h a
  refine ⟨load_store_writesReg h rfl, load_store_writesReg h rfl, fun hcsr ha => ?_, fun hcsr ha => ?_, fun hcsr ha => ?_⟩
  · have hload := load_answers (i := .ld c rd rs1 imm) h rfl (reachCsr s 8 hcsr) ha
    rwa [loadVal8 _ hcsr ha, loadFx8 _ hcsr ha] at hload
  · have hload := load_answers (i := .ld32 c rd rs1 imm) h rfl (reachCsr s 4 hcsr) (show a % 4 = 0 by omega)
    rwa [loadVal4l _ hcsr ha, loadFx4l _ hcsr ha] at hload
  · have hload := load_answers (i := .ld32 c rd rs1 imm) h rfl (reachCsr s 4 hcsr) (show a % 4 = 0 by omega)
    rwa [loadVal4h _ hcsr ha, loadFx4h _ hcsr ha] at hload

/-- Settles O12: a store is `store_answers`, and `storeVal` has its laws for the store and for each half of a register. -/
theorem scalarStores : Obligations.ScalarStores := by
  intro c rd rs1 imm s h k a v
  refine ⟨?_, fun hcsr ha => ⟨?_, ?_⟩, fun hcsr ha => ?_⟩
  · rintro i n (⟨rfl, rfl⟩ | ⟨rfl, rfl⟩) hcsr hr ha
    · exact store_store_leaves h rfl hcsr hr ha
    · exact store_store_leaves h rfl hcsr hr ha
  · have hstored := store_answers (i := .st c rd rs1 imm) h rfl (reachCsr s 8 hcsr) ha
    rwa [storeVal8 _ _ hcsr ha] at hstored
  · have hstored := store_answers (i := .st32 c rd rs1 imm) h rfl (reachCsr s 4 hcsr) (show a % 4 = 0 by omega)
    rwa [storeVal4l _ _ hcsr ha] at hstored
  · have hstored := store_answers (i := .st32 c rd rs1 imm) h rfl (reachCsr s 4 hcsr) (show a % 4 = 0 by omega)
    rwa [storeVal4h _ _ hcsr ha] at hstored

/-! ### Jumps, BRK, DRX and the turn of a pair -/

section

variable {s : State} {c : CoreId}

/-- A core that begins an instruction does not stall. -/
theorem Fetches.stall {n : Nat} (h : Fetches s c n) : (s.core c.toNat).stall = none := by
  obtain ⟨hready, -⟩ := h
  simp only [coreReady, coreFree, Bool.and_eq_true, Option.isNone_iff_eq_none] at hready
  obtain ⟨⟨⟨-, hstall⟩, -⟩, -⟩ := hready
  exact hstall

theorem brk_takesTrap (h : Fetches s c 4) (hfree : TrapFree s c) : TakesTrap (.brk c) s c (preciseRec s c.toNat 6 0 0x27 0 0 0) :=
  takesTrap_of_scalar rfl h rfl hfree

/-- BRK on a core that cannot take its trap halts it with DFAULT (R171, R173). -/
theorem brk_doubleFault (h : Fetches s c 4) (hfull : (s.core c.toNat).inTrap = true ∨ tqFull (s.core c.toNat) = true) :
    Answers (.brk c) s (turned s c.toNat (doubleFault (s.setCore c.toNat { s.core c.toNat with stall := none }) c.toNat)) :=
  answers_of_scalar rfl h rfl (preciseTrap_doubleFault hfull _)

/-- An instruction of one core of a pair leaves the turn with the other (R411). -/
theorem oddTurn_turned (r : State) (hp : paired s c.toNat = true) :
    c.toNat / 2 ∈ (turned s c.toNat r).mgmt.oddTurn ↔ c.toNat % 2 = 0 := by
  unfold turned
  rw [if_pos hp]
  by_cases hodd : c.toNat % 2 = 1
  · simp [hodd]
  · simp only [hodd, if_false, mem_addNew_self, true_iff]
    omega

end

/-- Settles O13: each row is `scalar` of a change of its core; BRK is its trap, or the double fault. -/
theorem scalarJumpsHaltAndDraw : Obligations.ScalarJumpsHaltAndDraw := by
  intro c s h k
  have hstall : k.stall = none := h.stall
  refine ⟨fun p neg off => ?_, fun rd imm => ?_, fun rd rs1 imm => ?_, ?_, ?_, fun htrap hroom => ?_, fun hfull => ?_,
    fun rd rs1 rs2 heven hrd => ?_, fun hp => ?_⟩
  · refine setsCore_of_scalar rfl h rfl ?_
    rw [shl2]
    cases k.getP p.toNat ^^ neg <;> rfl
  · refine setsCore_of_scalar rfl h rfl ?_
    rw [shl2]
  · exact setsCore_of_scalar rfl h rfl rfl
  · exact setsCore_of_scalar rfl h rfl rfl
  · exact setsCore_of_scalar rfl h rfl rfl
  · obtain ⟨t, hx, honly, hstore, hcore, hothers⟩ := brk_takesTrap h ⟨htrap, hroom⟩
    exact ⟨t, hx, honly, hstore, by rw [hcore, ← hstall], hothers⟩
  · refine ⟨_, brk_doubleFault h hfull, ?_, ?_, ?_, fun d hd => ?_⟩
    · rw [State.settle_store, turned_store, doubleFault_store, State.setCore_store]
    · rw [State.settle_dram, turned_dram, doubleFault_dram, State.setCore_dram]
    · rw [State.settle_core, turned_core, core_doubleFault_same, State.core_setCore_same, ← hstall]
    · rw [State.settle_core, turned_core, core_doubleFault_ne _ hd, State.core_setCore_ne _ _ hd]
  · exact setsCore_of_scalar rfl h (by rw [heven, decide_eq_true hrd]; rfl) rfl
  · exact ⟨_, answers_of_scalar rfl h rfl rfl, oddTurn_turned _ hp⟩

/-! ### Special registers (R153, Table 6-5) -/

section

variable {s : State} {c : CoreId}

/-- MFS of an index whose read clears nothing. -/
theorem mfs_writesReg (h : Fetches s c 4) {rd : BitVec 5} {imm : BitVec 16} {v : W64} (himm : imm.toNat ≠ 9)
    (hv : readSpecial s c.toNat imm.toNat = some v) : WritesReg (.mfs c rd imm) s c rd v 4 := by
  refine writesReg_of_scalar rfl h (by rw [hv]; rfl) ?_
  rw [readSpecialFx, if_neg himm, hv]
  rfl

theorem mfs_illegal (h : Fetches s c 4) (hfree : TrapFree s c) {rd : BitVec 5} {imm : BitVec 16} (hv : readSpecial s c.toNat imm.toNat = none) :
    TakesTrap (.mfs c rd imm) s c (preciseRec s c.toNat 1 0 0x24 0 0 0x18) :=
  takesTrap_illegal rfl h (by rw [hv]; rfl) hfree

theorem mts_illegal (h : Fetches s c 4) (hfree : TrapFree s c) {rs1 : BitVec 5} {imm : BitVec 16}
    (hv : writeSpecial (s.core c.toNat) imm.toNat 0 = none) :
    TakesTrap (.mts c rs1 imm) s c (preciseRec s c.toNat 1 0 0x25 0 0 0x18) :=
  takesTrap_illegal rfl h (by rw [hv]; rfl) hfree

/-- The table read as a list, TQLOST apart. -/
theorem readSpecial_of_getElem {i : Nat} {v : W64} (hi : i ≠ 9)
    (hv : (let k := s.core c.toNat
      [k.pc, k.epc, k.tvec, k.tqbase, k.tqhead.setWidth 64, k.tqtail.setWidth 64, k.stream.setWidth 64, BitVec.ofNat 64 c.toNat,
        BitVec.ofNat 64 (tstat k), 0, stepn s, BitVec.ofNat 64 (heldBy s c.toNat)][i]?) = some v) : readSpecial s c.toNat i = some v := by
  match i, hi with
  | 0, _ | 1, _ | 2, _ | 3, _ | 4, _ | 5, _ | 6, _ | 7, _ | 8, _ | 10, _ | 11, _ => exact hv
  | n + 12, _ => simp at hv

theorem readSpecial_outside (s : State) (c : Nat) {i : Nat} (h : 12 ≤ i) : readSpecial s c i = none := by
  obtain ⟨n, rfl⟩ := Nat.exists_eq_add_of_le' h
  rfl

theorem writeSpecial_readOnly (k : Core) {i : Nat} (v : W64) (h : i ∉ [1, 2, 3, 4, 6]) : writeSpecial k i v = none :=
  match i, h with
  | 0, _ | 5, _ => rfl
  | _ + 7, _ => rfl
  | 1, h | 2, h | 3, h | 4, h | 6, h => absurd (by decide) h

end

/-- Settles O16: MFS by what `readSpecial` gives of the index, MTS by what `writeSpecial` gives. -/
theorem specialRegisters : Obligations.SpecialRegisters := by
  intro c s h
  refine ⟨fun rd imm v himm hv => mfs_writesReg h himm (readSpecial_of_getElem himm hv), fun rd => ?_, fun rs1 => ⟨?_, ?_, ?_, ?_, ?_⟩,
    fun hfree rd rs1 imm => ⟨fun himm => mfs_illegal h hfree (readSpecial_outside s _ himm), fun himm => mts_illegal h hfree (writeSpecial_readOnly _ _ himm)⟩⟩
  · exact setsCore_of_scalar rfl h rfl rfl
  · exact setsCore_of_scalar rfl h rfl rfl
  · exact setsCore_of_scalar rfl h rfl rfl
  · exact setsCore_of_scalar rfl h rfl rfl
  · exact setsCore_of_scalar rfl h rfl rfl
  · exact setsCore_of_scalar rfl h rfl rfl

end Sys2Proof.Machine

/-!
Waiting for operations (R164, R176): WAIT, SUMM, TSTS and FENCE, and the end of a stall.
-/

namespace Sys2Proof.Machine

/-! ### The slot of a complete operation (R160) -/

section

variable (s : State) (t : Nat) {o : Op}

/-- Without a retry the slot is free at once, at the end of the free list. -/
theorem leaveSlot_free (h : o.retried = false) :
    leaveSlot s t o = { s.setSlot t { s.slot t with st := .free } with freeq := s.freeq ++ [t] } := by
  simp only [leaveSlot, h, Bool.false_eq_true, if_false, freeSlot]

theorem leaveSlot_quarantine (h : o.retried = true) : leaveSlot s t o = s.setSlot t { s.slot t with st := .quarantine o.doneAt } := by
  simp only [leaveSlot, h, if_true]

theorem waitFrees_held (h : o.phase = .held) : waitFrees s t o = leaveSlot s t o := if_pos h

/-- The record still waits for room: the slot stays until it is written, without HOLD. -/
theorem waitFrees_unrecorded (h : o.phase ≠ .held) : waitFrees s t o = s.setOp t { o with hold := false } := if_neg h

end

/-- Settles O14: the three rows look the ticket up, and `waitFrees` says what WAIT does with a complete operation's slot. -/
theorem waitingForOperations : Obligations.WaitingForOperations := by
  intro c rd rs1 imm s h himm k tk
  have hok : rd.toNat < 8 → (decide (imm.toNat < 64) && decide (rd.toNat < 8)) = true := fun hrd => by
    rw [decide_eq_true himm, decide_eq_true hrd]; rfl
  refine ⟨fun hv => ⟨?_, ?_, fun hrd => ?_⟩, fun t o hv => ⟨fun hheld hret => ?_, fun hheld hret => ?_, fun hheld => ?_, ?_, fun hrd => ?_⟩,
    fun hv => ⟨?_, ?_, fun hrd => ?_⟩⟩
  · exact writesReg_of_scalar rfl h rfl (by simp only [hv, k, tk])
  · exact writesReg_of_scalar rfl h rfl (by simp only [hv, k, tk])
  · exact writesPred_of_scalar rfl h (hok hrd) (by simp only [hv, k, tk])
  · exact answers_of_scalar rfl h rfl (by simp only [hv, k, tk, waitFrees_held _ _ hheld, leaveSlot_free _ _ hret])
  · exact answers_of_scalar rfl h rfl (by simp only [hv, k, tk, waitFrees_held _ _ hheld, leaveSlot_quarantine _ _ hret])
  · exact answers_of_scalar rfl h rfl (by simp only [hv, k, tk, waitFrees_unrecorded _ _ hheld])
  · exact writesReg_of_scalar rfl h rfl (by simp only [hv, k, tk])
  · exact writesPred_of_scalar rfl h (hok hrd) (by simp only [hv, k, tk])
  · exact setsCore_of_scalar rfl h rfl (by simp only [hv, k, tk])
  · exact setsCore_of_scalar rfl h rfl (by simp only [hv, k, tk])
  · exact setsCore_of_scalar rfl h (hok hrd) (by simp only [hv, k, tk])

/-! ### FENCE and the end of a stall -/

section

variable {s : State} {c : CoreId}

@[simp] theorem setS_stall (k : Core) (r : Nat) (v : W64) : (k.setS r v).stall = k.stall := by rw [setS_eq]
@[simp] theorem setS_running (k : Core) (r : Nat) (v : W64) : (k.setS r v).running = k.running := by rw [setS_eq]
@[simp] theorem setS_halting (k : Core) (r : Nat) (v : W64) : (k.setS r v).halting = k.halting := by rw [setS_eq]
@[simp] theorem setS_async (k : Core) (r : Nat) (v : W64) : (k.setS r v).async = k.async := by rw [setS_eq]
@[simp] theorem setP_stall (k : Core) (r : Nat) (b : Bool) : (k.setP r b).stall = k.stall := by rw [setP_eq]
@[simp] theorem setP_running (k : Core) (r : Nat) (b : Bool) : (k.setP r b).running = k.running := by rw [setP_eq]
@[simp] theorem setP_halting (k : Core) (r : Nat) (b : Bool) : (k.setP r b).halting = k.halting := by rw [setP_eq]
@[simp] theorem setP_async (k : Core) (r : Nat) (b : Bool) : (k.setP r b).async = k.async := by rw [setP_eq]

/-- What a FENCE without a reserved field does (R176). -/
theorem fence_answers (h : Fetches s c 4) {rd rs1 : BitVec 5} {imm : BitVec 16} (himm : imm.toNat < 3)
    (hfields : imm.toNat = 1 ∨ (rd = 0 ∧ rs1 = 0)) {r : State}
    (hr : (if fenceAwaits s imm.toNat ((s.core c.toNat).getS rd.toNat).toNat then s
      else s.setCore c.toNat (if (fenceSet s c.toNat imm.toNat ((s.core c.toNat).getS rs1.toNat).toNat ((s.core c.toNat).getS rd.toNat).toNat).isEmpty
        then (s.core c.toNat).adv 4
        else { s.core c.toNat with stall := some (.fence
          (fenceSet s c.toNat imm.toNat ((s.core c.toNat).getS rs1.toNat).toNat ((s.core c.toNat).getS rd.toNat).toNat)) })) = r) :
    Answers (.fence c rd rs1 imm) s (turned s c.toNat r) := by
  refine answers_of_scalar rfl h ?_ hr
  simp only [himm, decide_true, Bool.true_and, ← Bool.decide_and, ← Bool.decide_or, hfields]

theorem stallEnd_of_running (hl : s.live = true) (hr : (s.core c.toNat).running = true) :
    stallEnd s c.toNat = if ((stallStep s c.toNat).core c.toNat).halting ∧ ((stallStep s c.toNat).core c.toNat).running
        ∧ ((stallStep s c.toNat).core c.toNat).stall.isNone then haltNow (stallStep s c.toNat) c.toNat else stallStep s c.toNat := by
  unfold stallEnd
  exact if_neg (not_not_intro ⟨hl, hr⟩)

/-- A core whose stall ends with k goes on, or halts behind that instruction where RUN = 0 waits for it (Table 6-6). -/
theorem coreStallEnd_setsCore (hl : s.live = true) (hr : (s.core c.toNat).running = true)
    (ha : (s.core c.toNat).halting = true → (s.core c.toNat).async = []) {k : Core} (hstep : stallStep s c.toNat = s.setCore c.toNat k)
    (hst : k.stall = none) (hrun : k.running = (s.core c.toNat).running) (hhalt : k.halting = (s.core c.toNat).halting)
    (hasync : k.async = (s.core c.toNat).async) :
    SetsCore (.coreStallEnd c) s c
      (if (s.core c.toNat).halting then { k with running := false, byHalt := false, halting := false, stall := none } else k) := by
  have honly : CoreOnly s (stallStep s c.toNat) c.toNat k := hstep ▸ (CoreOnly.refl s c.toNat).setCore k
  have hend := stallEnd_of_running hl hr
  rw [honly.core, hst, hrun, hr, hhalt] at hend
  cases hk : (s.core c.toNat).halting with
  | false =>
    simp only [hk, Bool.false_eq_true, false_and, if_false] at hend
    exact honly.setsCore (congrArg (commit s) hend)
  | true =>
    simp only [hk, Option.isNone_none, and_self, if_true] at hend
    exact (honly.haltNow (hasync.trans (ha hk))).setsCore (congrArg (commit s) hend)

/-- Nothing happens while an operation of a fence is in flight. -/
theorem coreStallEnd_waits (hl : s.live = true) (hr : (s.core c.toNat).running = true) {ts : List Nat}
    (hst : (s.core c.toNat).stall = some (.fence ts)) (hts : ts.any (ticketFlying s) = true) : Answers (.coreStallEnd c) s s := by
  have hstep : stallStep s c.toNat = s := by simp only [stallStep, hst, hts, if_true]
  have hend := stallEnd_of_running hl hr
  rw [hstep, hst, if_neg (by simp)] at hend
  exact congrArg (commit s) hend

end

/-- Settles O15: FENCE looks at the tickets of its kind, and the end of each kind of stall is a case of `stallStep`. -/
theorem fenceAndStallEnd : Obligations.FenceAndStallEnd := by
  refine ⟨fun c rd rs1 imm s h himm hfields => ⟨fun he hts => ?_, fun he hts => ?_, fun he => ?_⟩, fun c s hl hr => ?_⟩
  · exact setsCore_of (fence_answers h himm hfields (by rw [he, hts]; rfl))
  · exact setsCore_of (fence_answers h himm hfields (by rw [he, List.isEmpty_eq_false_iff.mpr hts]; rfl))
  · exact fence_answers h himm hfields (by rw [he]; rfl)
  · intro k fin ha
    refine ⟨fun rd v hst => ?_, fun p b hst => ?_, fun ts hst hts => ?_, fun ts hst hts => coreStallEnd_waits hl hr hst hts⟩
    · exact coreStallEnd_setsCore hl hr ha (by simp only [stallStep, hst, k]) (setS_stall _ _ _) (setS_running _ _ _) (setS_halting _ _ _)
        (setS_async _ _ _)
    · exact coreStallEnd_setsCore hl hr ha (by simp only [stallStep, hst, k]) (setP_stall _ _ _) (setP_running _ _ _) (setP_halting _ _ _)
        (setP_async _ _ _)
    · exact coreStallEnd_setsCore hl hr ha (by simp only [stallStep, hst, hts, k, Bool.false_eq_true, if_false]) rfl rfl rfl rfl

end Sys2Proof.Machine

/-!
The issue of an engine word (R155 to R161, R475): the operation takes the slot that is free longest, or its core waits at the word.
-/

namespace Sys2Proof.Machine

/-! ### Occupying a slot -/

section

variable (s : State) (t : Nat) (o : Op)

/-- Beside the slot, an issue touches the free list, the arrival number and the stream's counts (R158, R309). -/
theorem occupy_eq : occupy s t o = { s with slots := (occupy s t o).slots, freeq := (occupy s t o).freeq, car := (occupy s t o).car,
                                            strms := (occupy s t o).strms } := by
  unfold occupy
  dsimp only
  split <;> rfl

theorem occupy_mgmt : (occupy s t o).mgmt = s.mgmt := by rw [occupy_eq]

theorem core_occupy (c : Nat) : (occupy s t o).core c = s.core c := by rw [occupy_eq]; rfl

theorem slot_occupy_same : (occupy s t o).slot t = { gen := (s.slot t).gen + 1, st := .busy { o with seq := s.car.seq } } := by
  have hslots : (occupy s t o).slots
      = (s.setSlot t { gen := (s.slot t).gen + 1, st := .busy { o with seq := s.car.seq } }).slots := by
    unfold occupy
    dsimp only
    split <;> rfl
  rw [State.slot, hslots]
  exact State.slot_setSlot_same s t _

end

theorem op_of_slot {s : State} {t : Nat} {o : Op} (h : (s.slot t).st = .busy o) : s.op t = some o := by
  rw [State.op, h]

theorem ticketOf_congr {r s : State} {t : Nat} (h : r.slot t = s.slot t) : ticketOf r t = ticketOf s t := by
  rw [ticketOf, ticketOf, h]

/-! ### The word -/

section

variable {s : State} {c : CoreId} {w : BitVec 128}

theorem engineWord_answers (h : Fetches s c 16) (hmaj : bits w.toNat 5 0 = 0x3F) :
    Answers (.engineWord c w) s (turned s c.toNat (coreWord s c.toNat w)) := by
  obtain ⟨hready, hfetch⟩ := h
  refine congrArg (commit s) ?_
  rw [if_neg (not_not_intro hmaj), if_neg (not_not_intro hready), if_neg (not_not_intro hfetch)]

/-- A word with no reserved encoding has MAJ 0x3F (R155). -/
theorem EWord.major_of_ok {n : Nat} (h : (parseEWord n).ok = true) : bits n 5 0 = 0x3F := by
  simp only [EWord.ok, Bool.and_eq_true, decide_eq_true_eq] at h
  obtain ⟨⟨⟨hmajor, -⟩, -⟩, -⟩ := h
  exact hmajor

/-- What lets core c issue the word: no reserved encoding, a usable and resident stream, room under the HOLD limit, and no context operation that
quiesces the device (R157, R160, R446, R475). -/
structure MayIssue (s : State) (c : CoreId) (e : EWord) (q : Strm) : Prop where
  ok : e.ok = true
  stream : s.strm (s.core c.toNat).stream.toNat = some q
  opened : q.closing = false
  kind : q.kind = 0
  resident : q.resident = true
  quiesce : s.quiesce = none
  hold : e.hold = true → heldBy s c.toNat < 256

variable {q : Strm}

theorem coreWord_issues (h : MayIssue s c (parseEWord w.toNat) q) : coreWord s c.toNat w = tryIssue s c.toNat w (parseEWord w.toNat) := by
  have husable : streamUsable s (s.core c.toNat).stream.toNat = true := by
    simp only [streamUsable, h.stream, h.opened, h.kind, Bool.not_false, decide_true, Bool.and_self]
  have hhold : ¬ ((parseEWord w.toNat).hold = true ∧ 256 ≤ heldBy s c.toNat) := fun ⟨hh, hle⟩ => Nat.not_le.mpr (h.hold hh) hle
  simp only [coreWord, h.ok, husable, hhold, not_true_eq_false, if_false]

/-- The operation that core c issues by the word e. -/
def issuedOp (s : State) (c : CoreId) (e : EWord) : Op :=
  let k := s.core c.toNat
  Op.fresh (.core c.toNat k.pc.toNat) e (k.getS e.sA).toNat (k.getS e.sB).toNat k.stream.toNat s.car.seq

@[simp] theorem setS_pc (k : Core) (r : Nat) (v : W64) : (k.setS r v).pc = k.pc := by rw [setS_eq]

/-- Core k past a word that gave it ticket n in register rd. -/
def Core.issued (k : Core) (rd n : Nat) : Core := { k.setS rd (BitVec.ofNat 64 n) with stall := none, pc := k.pc + 16 }

theorem tryIssue_slot {e : EWord} (h : MayIssue s c e q) {t : Nat} (ht : pickSlot s (wordDests s e) = some t) :
    tryIssue s c.toNat w e = (occupy s t (issuedOp s c e)).setCore c.toNat
      ((s.core c.toNat).issued e.sD (ticketOf (occupy s t (issuedOp s c e)) t)) := by
  simp only [tryIssue, h.stream, h.quiesce, h.resident, issueWord, allocOp, ht, Option.isSome_none, Bool.false_eq_true, Bool.not_true, or_self,
    if_false, core_occupy, issuedOp, Core.issued, Core.adv, setS_pc]
  rfl

theorem tryIssue_waits {e : EWord} (h : MayIssue s c e q) (ht : pickSlot s (wordDests s e) = none) :
    tryIssue s c.toNat w e = s.setCore c.toNat { s.core c.toNat with stall := some (.word w) } := by
  simp only [tryIssue, h.stream, h.quiesce, h.resident, issueWord, allocOp, ht, Option.isSome_none, Bool.false_eq_true, Bool.not_true, or_self,
    if_false]

/-- The end of an issue in slot t: beside the slot's own records, core c alone has changed. -/
theorem occupied_leaves (s : State) (c : CoreId) (t : Nat) (o : Op) (k : Core) :
    let r := settle s (turned s c.toNat ((occupy s t o).setCore c.toNat k))
    r = settle s { occupy s t o with cores := r.cores, mgmt := { s.mgmt with oddTurn := r.mgmt.oddTurn } } ∧ OnlyTurn s r c
      ∧ r.slot t = (occupy s t o).slot t ∧ r.core c.toNat = k ∧ ∀ d, d ≠ c.toNat → r.core d = s.core d := by
  have hmgmt := occupy_mgmt s t o
  refine ⟨?_, onlyTurn_turned s _ c (by rw [State.setCore_mgmt, hmgmt]), ?_, ?_, fun d hd => ?_⟩
  · rw [← hmgmt]
    unfold turned
    split_ifs <;> rfl
  · rw [State.settle_slot, State.slot, turned_slots]
    rfl
  · rw [State.settle_core, turned_core, State.core_setCore_same]
  · rw [State.settle_core, turned_core, State.core_setCore_ne _ _ hd, core_occupy]

theorem engineWord_slot (h : Fetches s c 16) (hmay : MayIssue s c (parseEWord w.toNat) q) {t : Nat}
    (ht : pickSlot s (wordDests s (parseEWord w.toNat)) = some t) :
    let e := parseEWord w.toNat
    ∃ r, exec (.engineWord c w) s = .next r
      ∧ r = settle s { occupy s t (issuedOp s c e) with cores := r.cores, mgmt := { s.mgmt with oddTurn := r.mgmt.oddTurn } } ∧ OnlyTurn s r c
      ∧ r.op t = some (issuedOp s c e) ∧ (r.slot t).gen = (s.slot t).gen + 1
      ∧ r.core c.toNat = (s.core c.toNat).issued e.sD (ticketOf r t) ∧ ∀ d, d ≠ c.toNat → r.core d = s.core d := by
  have hanswer := engineWord_answers h (EWord.major_of_ok hmay.ok)
  rw [coreWord_issues hmay, tryIssue_slot hmay ht] at hanswer
  obtain ⟨hframe, hturn, hslot, hcore, hothers⟩ := occupied_leaves s c t (issuedOp s c (parseEWord w.toNat))
    ((s.core c.toNat).issued (parseEWord w.toNat).sD (ticketOf (occupy s t (issuedOp s c (parseEWord w.toNat))) t))
  have hticket := ticketOf_congr hslot
  rw [slot_occupy_same] at hslot
  exact ⟨_, hanswer, hframe, hturn, op_of_slot (by rw [hslot]; rfl), by rw [hslot], by rw [hcore, hticket], hothers⟩

theorem engineWord_waits (h : Fetches s c 16) (hmay : MayIssue s c (parseEWord w.toNat) q)
    (ht : pickSlot s (wordDests s (parseEWord w.toNat)) = none) :
    SetsCore (.engineWord c w) s c { s.core c.toNat with stall := some (.word w) } := by
  have hanswer := engineWord_answers h (EWord.major_of_ok hmay.ok)
  rw [coreWord_issues hmay, tryIssue_waits hmay ht] at hanswer
  exact setsCore_of hanswer

end

/-- Settles O19: a word that may be issued is `tryIssue`, which occupies the slot that `pickSlot` finds. -/
theorem engineWordIssues : Obligations.EngineWordIssues := by
  intro c w s q h k e hok hstream hopened hkind hresident hquiesce hhold
  have hmay : MayIssue s c e q := ⟨hok, hstream, hopened, hkind, hresident, hquiesce, hhold⟩
  exact ⟨fun t ht => engineWord_slot h hmay ht, engineWord_waits h hmay⟩

end Sys2Proof.Machine

/-!
One operation in its slot: what a command leaves that changes that operation alone, and acceptance (R162, R168, R174, R179).
-/

namespace Sys2Proof.Machine

/-! ### An operation alone changes -/

/-- The operation in slot t of s becomes o, and nothing else changes. -/
structure OpOnly (s r : State) (t : Nat) (o : Op) : Prop where
  frame : r = { s with slots := r.slots }
  slot : r.slot t = { s.slot t with st := .busy o }
  others : ∀ x, x ≠ t → r.slot x = s.slot x

/-- An operation as its end leaves it: the first of its status and st in the order of R168, with the detail that belongs to it. -/
def Op.ended (o : Op) (st detail : Nat) : Op :=
  { o with phase := .ended, status := statusMin o.status st, detail := if statusRank st ≤ statusRank o.status ∧ st ≠ 0 then detail else o.detail }

/-- An operation that has met nothing ends OK with its detail as it was. -/
theorem Op.ended_ok {o : Op} (h : Clean o) : o.ended 0 0 = { o with phase := .ended } := by
  obtain ⟨hstatus, -⟩ := h
  simp [ended, hstatus, statusMin]

theorem endOp_of_unvoided {s : State} {t : Nat} {o : Op} (ho : s.op t = some o) (hv : o.voids = none) (st d : Nat) :
    endOp s t st d = s.setOp t (o.ended st d) := by
  simp only [endOp, ho, hv, Op.ended]

namespace OpOnly

variable {s r : State} {t : Nat} {o : Op}

theorem of_setOp (s : State) (t : Nat) (o : Op) : OpOnly s (s.setOp t o) t o :=
  ⟨rfl, State.slot_setSlot_same s t _, fun _ hx => State.slot_setSlot_ne s _ hx⟩

theorem op (h : OpOnly s r t o) : r.op t = some o := op_of_slot (by rw [h.slot])

theorem setOp (h : OpOnly s r t o) (o' : Op) : OpOnly s (r.setOp t o') t o' := by
  obtain ⟨hframe, hslot, hothers⟩ := h
  refine ⟨by rw [hframe]; rfl, ?_, fun x hx => ?_⟩
  · rw [State.setOp, State.slot_setSlot_same, hslot]
  · rw [State.setOp, State.slot_setSlot_ne _ _ hx, hothers x hx]

theorem endOp (h : OpOnly s r t o) (hv : o.voids = none) (st d : Nat) : OpOnly s (endOp r t st d) t (o.ended st d) := by
  rw [endOp_of_unvoided h.op hv]
  exact h.setOp _

theorem setsOp {i : Instr} {t : SlotId} (h : OpOnly s r t.toNat o) (hx : exec i s = commit s r) : SetsOp i s t o := by
  obtain ⟨hframe, hslot, hothers⟩ := h
  exact ⟨_, hx, by rw [hframe]; rfl, (State.settle_slot _ _ _).trans hslot, fun x hne => (State.settle_slot _ _ _).trans (hothers x hne)⟩

end OpOnly

/-! ### Acceptance -/

section

variable {s : State} {t : SlotId} {opc : Nat} {o : Op}

/-- An operation whose turn for acceptance has come is issued. -/
theorem Accepts.issued (h : Accepts s t opc o) : isIssued s t.toNat opc = true := by
  obtain ⟨ho, hopc, hturn⟩ := h
  simp only [acceptTurn, ho, Bool.and_eq_true, decide_eq_true_eq] at hturn
  obtain ⟨⟨⟨⟨hphase, -⟩, -⟩, -⟩, -⟩ := hturn
  simp only [isIssued, ho, hphase, hopc, decide_true, Bool.and_self]

variable {need : State → Op → Bool} {chk : State → Op → Chk} {work : State → Op → State}

/-- The row of an operation that is issued accepts it. -/
theorem opRow_accepts (h : Accepts s t opc o) : opRow s t.toNat opc need chk work = acceptOp s t.toNat need chk := if_pos h.issued

theorem acceptOp_illegal (h : Accepts s t opc o) (hc : chk (s.setOp t.toNat (tagged s o)) (tagged s o) = .illegal) :
    acceptOp s t.toNat need chk = endIllegal (s.setOp t.toNat (tagged s o)) t.toNat := by
  obtain ⟨ho, -, hturn⟩ := h
  rw [tagged] at hc ⊢
  simp only [acceptOp, hturn, not_true_eq_false, if_false, ho, hc]

theorem acceptOp_ok (h : Accepts s t opc o) {rs : List Range} {imgs : List (Nat × Region)} {desc : List Byte} {prog : List Nat}
    (hc : chk (s.setOp t.toNat (tagged s o)) (tagged s o) = .ok rs imgs desc prog) :
    acceptOp s t.toNat need chk =
      let s1 := s.setOp t.toNat (tagged s o)
      let f := acceptFinds s1 (tagged s o) (decide (o.opc = 0x23) && gthProj desc) (need s1 (tagged s o))
      if f ≠ 0 then endOp s1 t.toNat f 0
      else s1.setOp t.toNat { tagged s o with phase := .waiting, ranges := recordRanges rs, imgs := imgs, desc := desc, prog := prog,
                                              writes := rs.filter (fun r => r.wr && !r.remote) } := by
  obtain ⟨ho, -, hturn⟩ := h
  rw [tagged] at hc ⊢
  simp only [acceptOp, hturn, not_true_eq_false, if_false, ho, hc]

theorem acceptOp_bad (h : Accepts s t opc o) {st d : Nat} (hc : chk (s.setOp t.toNat (tagged s o)) (tagged s o) = .bad st d) :
    acceptOp s t.toNat need chk =
      let s1 := s.setOp t.toNat (tagged s o)
      let f := acceptFinds s1 (tagged s o) (decide (o.opc = 0x23) && gthProj (descAt s1 o.doff 64)) (need s1 (tagged s o))
      if f ≠ 0 ∧ statusMin f st = f then endOp s1 t.toNat f 0 else endOp s1 t.toNat st d := by
  obtain ⟨ho, -, hturn⟩ := h
  rw [tagged] at hc ⊢
  simp only [acceptOp, hturn, not_true_eq_false, if_false, ho, hc]

end

/-- Each engine operation of Table 6-8 is `opRow` of its own check and work. -/
theorem exec_opRow {i : Instr} {w : OpRow} (h : opRowOf i = some w) (s : State) :
    exec i s = commit s (opRow s w.slot.toNat w.opc w.need w.chk w.work) := by
  unfold opRowOf at h
  split at h
  case h_17 => exact nomatch h
  all_goals
    obtain rfl := Option.some.inj h
    rfl

/-- Settles O28: the row's check decides between the three ways in which `acceptOp` goes on. -/
theorem operationsAreAccepted : Obligations.OperationsAreAccepted := by
  intro i w o s hw h
  have hx : exec i s = commit s (acceptOp s w.slot.toNat w.need w.chk) := (exec_opRow hw s).trans (by rw [opRow_accepts h])
  refine ⟨fun hc => ?_, fun rs imgs desc prog hc => ⟨fun hf => ?_, fun hf => ?_⟩, fun st d hc => ?_⟩
  · rw [acceptOp_illegal h hc] at hx
    exact hx
  · rw [acceptOp_ok h hc] at hx
    exact ((OpOnly.of_setOp s _ _).setOp _).setsOp (hx.trans (congrArg (commit s) (if_neg (not_not_intro hf))))
  · rw [acceptOp_ok h hc] at hx
    exact hx.trans (congrArg (commit s) (if_pos hf))
  · rw [acceptOp_bad h hc] at hx
    exact hx

end Sys2Proof.Machine

/-!
Steps (R177 to R181): STOP, STCL, FENC, the rounds of the barrier and the opening.
-/

namespace Sys2Proof.Machine

/-! ### STOP (R178) -/

section

variable {s : State} {t : SlotId} {o : Op}

theorem stopAllowed_iff (s : State) (n : Nat) :
    stopAllowed s n = true ↔ s.steps = [] ∨ ∃ x, s.steps = [x] ∧ x.stcl ≠ none ∧ n = (x.num + 1) % 2 ^ 32 := by
  unfold stopAllowed
  rcases s.steps with _ | ⟨x, _ | ⟨y, l⟩⟩ <;> simp [Option.isSome_iff_ne_none]

theorem exec_stop (h : Accepts s t 0x01 o) :
    exec (.stop t) s = commit s (if stopAllowed s (o.opA % 2 ^ 32)
      then endOp (({ s with steps := s.steps ++ [StepSt.fresh (o.opA % 2 ^ 32) o.seq] } : State).setOp t.toNat (tagged s o)) t.toNat 0 0
      else endOp (s.setOp t.toNat (tagged s o)) t.toNat 0x19 0) := by
  refine congrArg (commit s) ?_
  obtain ⟨ho, -, hturn⟩ := id h
  rw [if_pos ⟨h.issued, hturn⟩, ho]
  rfl

end

/-- Settles O20: `stopAllowed` decides, and either way STOP ends at once. -/
theorem stopOpensOneStepAtATime : Obligations.StopOpensOneStepAtATime := by
  intro t o s h hclean n may
  have hx := exec_stop h
  have hvoids : (tagged s o).voids = none := hclean.2
  refine ⟨fun hmay => ?_, fun hmay => ?_⟩
  · rw [if_pos ((stopAllowed_iff s n).mpr hmay)] at hx
    have hop := (OpOnly.of_setOp { s with steps := s.steps ++ [StepSt.fresh n o.seq] } t.toNat (tagged s o)).endOp hvoids 0 0
    have hended : (tagged s o).ended 0 0 = { tagged s o with phase := .ended } := Op.ended_ok hclean
    rw [hended] at hop
    exact ⟨_, hx, by rw [hop.frame]; rfl, by rw [hop.frame]; rfl, hop.op, hop.others⟩
  · rw [if_neg (mt (stopAllowed_iff s n).mp hmay)] at hx
    have hop := (OpOnly.of_setOp s t.toNat (tagged s o)).endOp hvoids 0x19 0
    have hended : (tagged s o).ended 0x19 0 = { tagged s o with phase := .ended, status := 0x19, detail := 0 } := by
      have hstatus : (tagged s o).status = 0 := hclean.1
      simp [Op.ended, hstatus, statusMin, statusRank]
    rw [hended] at hop
    exact hop.setsOp hx

/-! ### STCL (R180, R181) -/

section

/-- Member count of the barrier descriptor at the operation's DOFF. -/
def barCount (s : State) (o : Op) : Nat := fieldAt (descAt s o.doff 64) 4 2

/-- The barrier descriptor with its member list. -/
def barBytes (s : State) (o : Op) : List Byte := descAt s o.doff (64 + 2 * barCount s o)

/-- The descriptor of a STCL and its list stand in the store, the count not reserved. -/
structure BarrierRead (s : State) (o : Op) : Prop where
  desc : badAddr s (storeBase + o.doff * 64) 64 = none
  count : ¬ (barCount s o = 0 ∨ 4096 < barCount s o)
  list : badAddr s (storeBase + o.doff * 64) (barBytes s o).length = none

variable {s : State} {t : Nat} {o : Op} {x : Nat}

theorem stclAccept_descOutside (hd : badAddr (s.setOp t (tagged s o)) (storeBase + o.doff * 64) 64 = some x) :
    stclAccept s t o = endOp (s.setOp t (tagged s o)) t 0x16 x := by
  rw [tagged] at hd ⊢
  simp only [stclAccept, hd]

theorem stclAccept_countReserved (hd : badAddr (s.setOp t (tagged s o)) (storeBase + o.doff * 64) 64 = none)
    (hm : barCount (s.setOp t (tagged s o)) o = 0 ∨ 4096 < barCount (s.setOp t (tagged s o)) o) :
    stclAccept s t o = endIllegal (s.setOp t (tagged s o)) t := by
  rw [barCount, tagged] at hm
  rw [tagged] at hd ⊢
  simp only [stclAccept, hd, hm, if_true]

theorem stclAccept_listOutside (hd : badAddr (s.setOp t (tagged s o)) (storeBase + o.doff * 64) 64 = none)
    (hm : ¬ (barCount (s.setOp t (tagged s o)) o = 0 ∨ 4096 < barCount (s.setOp t (tagged s o)) o))
    (hl : badAddr (s.setOp t (tagged s o)) (storeBase + o.doff * 64) (barBytes (s.setOp t (tagged s o)) o).length = some x) :
    stclAccept s t o = endOp (s.setOp t (tagged s o)) t 0x16 x := by
  rw [barCount, tagged] at hm
  rw [barBytes, barCount, tagged] at hl
  rw [tagged] at hd ⊢
  simp only [stclAccept, hd, hm, hl, if_false]

/-- STCL p in slot t begins the close of its step: it records the descriptor b, the step records it, and the buckets of the step are triggered
(R180, R181, R333). -/
def stclBegun (s : State) (t : Nat) (p : Op) (b : List Byte) : State :=
  ((s.setOp t { p with desc := b, phase := .running }).onStep (p.opA % 2 ^ 32) (fun y => { y with stcl := some t })).onArmed (p.opA % 2 ^ 32)
    (fun a => { a with flushed := true })

/-- What STCL p in slot t does with a barrier b that it has read. -/
def stclDecide (s : State) (t : Nat) (p : Op) (b : List Byte) : State :=
  if ¬ barrierOk s (parseBarD b) then endIllegal s t
  else if (stepOf s (p.opA % 2 ^ 32)).all (fun x => x.stcl.isSome) then endOp s t 0x19 0
  else if heldMismatch (stclBegun s t p b) (p.opA % 2 ^ 32) then endMismatch (stclBegun s t p b) (p.opA % 2 ^ 32)
  else stclBegun s t p b

theorem stclAccept_read (h : BarrierRead (s.setOp t (tagged s o)) o) :
    stclAccept s t o = stclDecide (s.setOp t (tagged s o)) t (tagged s o) (barBytes (s.setOp t (tagged s o)) o) := by
  obtain ⟨hd, hm, hl⟩ := h
  rw [barCount] at hm
  rw [barBytes, barCount] at hl
  unfold stclAccept stclDecide
  rw [tagged] at hd hm hl ⊢
  simp only [hd, hm, hl, if_false]
  refine ite_congr rfl (fun _ => rfl) fun _ => ?_
  cases stepOf (s.setOp t { o with step := (newestStep s).map (fun x => x.num) }) (o.opA % 2 ^ 32) with
  | none => rfl
  | some x => rfl

end

section

variable {s r : State} {t : SlotId} {o : Op}

theorem stcl_answers (h : Accepts s t 0x02 o) (hr : stclAccept s t.toNat o = r) : Answers (.stcl t) s r := by
  obtain ⟨ho, -, hturn⟩ := id h
  refine congrArg (commit s) ?_
  rw [if_pos ⟨h.issued, hturn⟩, ho]
  exact hr

end

/-- Settles O22: the cases of `stclAccept` in the order in which it looks at them. -/
theorem stclStartsTheClose : Obligations.StclStartsTheClose := by
  intro t o s h n p s0 m b a
  have hcount : 0 < m → m ≤ 4096 → ¬ (m = 0 ∨ 4096 < m) := by omega
  refine ⟨fun x hd => stcl_answers h (stclAccept_descOutside hd), fun hd hm => stcl_answers h (stclAccept_countReserved hd hm),
    fun x hd hlo hhi hl => stcl_answers h (stclAccept_listOutside hd (hcount hlo hhi) hl), fun hd hlo hhi hl => ?_⟩
  have hread := stclAccept_read (s := s) (t := t.toNat) (o := o) ⟨hd, hcount hlo hhi, hl⟩
  refine ⟨fun hok => ?_, fun hok => ⟨fun hx => ?_, fun x hx hstcl => ?_⟩⟩
  · exact stcl_answers h (hread.trans (if_pos (ne_true_of_eq_false hok)))
  · refine stcl_answers h (hread.trans ((if_neg (not_not_intro hok)).trans (if_pos ?_)))
    rcases hx with hx | ⟨x, hx, hstcl⟩
    · exact congrArg (Option.all _) hx
    · exact (congrArg (Option.all _) hx).trans (Option.isSome_iff_ne_none.mpr hstcl)
  · refine stcl_answers h (hread.trans ((if_neg (not_not_intro hok)).trans (if_neg ?_)))
    have hopen : (stepOf s0 n).all (fun x => x.stcl.isSome) = false := by rw [hx, Option.all_some, hstcl]; rfl
    exact ne_true_of_eq_false hopen

/-! ### FENC (R177) -/

section

variable {s : State} {t : SlotId} {o : Op}

/-- A FENC that has been accepted ends when the earlier operations of its stream have completed. -/
theorem exec_fenc_accepted (ho : s.op t.toNat = some o) (hopc : o.opc = 0x03) (hl : s.live = true) (hp : o.phase = .waiting ∨ o.phase = .running) :
    exec (.fenc t) s = commit s (if streamClear s o then endOp s t.toNat 0 0 else s) := by
  have hnew : isIssued s t.toNat 0x03 = false := by
    rcases hp with hp | hp <;> simp only [isIssued, ho, hp, reduceCtorEq, decide_false, Bool.false_and]
  refine congrArg (commit s) ?_
  rw [if_neg (ne_true_of_eq_false hnew), ho]
  simp only [hopc, hp, hl, true_and]

/-- No operation waits behind a FENC of its stream without being held by it (R177). -/
theorem streamBehind_of_waiting {u : Nat} {f : Op} (hf : (u, f) ∈ busySlots s) (hp : f.phase = .waiting)
    (hsrc : (∃ c pc, f.src = .core c pc) ∨ (∃ r, f.src = .host r)) (hstream : f.stream = o.stream) (hseq : f.seq < o.seq) :
    streamBehind s o = true := by
  refine List.any_eq_true.mpr ⟨_, hf, ?_⟩
  rcases hsrc with ⟨c, pc, hsrc⟩ | ⟨r, hsrc⟩ <;> simp [hstream, hseq, hp, hsrc]

theorem dispatchable_of_streamBehind {u : Nat} (h : streamBehind s o = true) : dispatchable s u o = false := by
  simp only [dispatchable, h, Bool.not_true, Bool.false_and, Bool.and_false]

theorem dispatchable_of_fenceBit {u : Nat} (hfb : o.fb = true) (h : streamClear s o = false) : dispatchable s u o = false := by
  simp only [dispatchable, hfb, h, Bool.not_true, Bool.or_self, Bool.and_false, Bool.false_and]

/-- A FENC ends in the scheduler. -/
theorem dispatchable_fenc {u : Nat} (h : o.opc = 0x03) : dispatchable s u o = false := by
  simp only [dispatchable, h, ne_eq, not_true_eq_false, decide_false, Bool.and_false, Bool.false_and]

end

/-- Settles O24: FENC is its own condition, and the others wait for theirs in `dispatchable`. -/
theorem fencWaitsForItsStream : Obligations.FencWaitsForItsStream := by
  refine ⟨fun t o s ho hopc hl hp hclean => ⟨fun hclear => ?_, fun hclear => ?_⟩, fun t o s hfb h => dispatchable_of_fenceBit hfb h,
    fun t u f o s hf _ hp hsrc hstream hseq => dispatchable_of_streamBehind (streamBehind_of_waiting hf hp hsrc hstream hseq),
    fun t f s h => dispatchable_fenc h⟩
  · have hx := exec_fenc_accepted ho hopc hl hp
    rw [if_pos hclear, endOp_of_unvoided ho hclean.2, Op.ended_ok hclean] at hx
    exact (OpOnly.of_setOp s t.toNat _).setsOp hx
  · have hx := exec_fenc_accepted ho hopc hl hp
    rw [if_neg (ne_true_of_eq_false hclear)] at hx
    exact hx

/-! ### The rounds of the barrier (R180) -/

/-- The oldest step joins round A where it may. -/
def tryRoundA (s : State) (x : StepSt) (t : Nat) : State :=
  if s.live ∧ x.opened ∧ x.round = .none ∧ stepIdle s x.num t then
    joinRound (s.onStep x.num (fun y => { y with round := .aSent })) x.num 0 (wishByte false false false x.mfirst) 0 []
  else s

section

variable {s r : State} {x : StepSt}

theorem roundA_answers {rest : List StepSt} {t : Nat} {n : W32} (hs : s.steps = x :: rest) (ht : x.stcl = some t) (hn : x.num = n.toNat)
    (hr : tryRoundA s x t = r) : Answers (.roundA n) s r := by
  refine congrArg (commit s) ?_
  rw [← hr, tryRoundA]
  simp only [hs, ht, hn, true_and]

variable {n : W32}

/-- Round A of step x has merged the contributions cs (R180, R351). -/
def mergedA (s : State) (x : StepSt) (cs : List Contrib) : State :=
  let m := cs.any (fun c => bitAt c.wish 3)
  clearBitmap (releaseUpds (noteMeasure (s.onStep x.num (fun y => { y with round := .aDone, mAny := m })) m) x.num (x.guarded || m)) x.num cs.length

theorem roundADone_answers (hx : stepOf s n.toNat = some x) (hl : s.live = true) (hround : x.round = .aSent)
    (hr : (roundContribs s x.num 0).elim s (mergedA s x) = r) : Answers (.roundADone n) s r := by
  refine congrArg (commit s) ?_
  simp only [hx, hl, hround, and_self, if_true, ← hr]
  cases roundContribs s x.num 0 <;> rfl

/-- Step x joins round B with the wishes as they are now (R116, R180). -/
def joinedB (s : State) (x : StepSt) : State :=
  let gl := fld s.sched.scalepol 31 16
  let trial := x.guarded || x.mAny
  joinRound (s.onStep x.num (fun y => { y with round := .bSent })) x.num 1
    (wishByte (flag s.sched.scalepol 32 || decide (1 < gl) || (decide (gl = 1) && !trial)) (measureWish s x) (decide (gl = 1) && trial) false)
    (keyFold x.key.toNat) x.ovf

theorem roundB_answers (hx : stepOf s n.toNat = some x) (hl : s.live = true) (hround : x.round = .aDone)
    (hr : (if x.again then runAgain s x else if updsSettled s x.num then (if passRepeats s x then nextPass s x else joinedB s x) else s) = r) :
    Answers (.roundB n) s r := by
  refine congrArg (commit s) ?_
  simp only [hx, hl, hround, true_and, ← hr]
  rfl

theorem roundBDone_answers (hx : stepOf s n.toNat = some x) (hl : s.live = true) (hround : x.round = .bSent)
    (hr : (roundContribs s x.num 1).elim s (fun cs => tryClose (mergeB s x cs) x.num) = r) : Answers (.roundBDone n) s r := by
  refine congrArg (commit s) ?_
  simp only [hx, hl, hround, not_true_eq_false, if_true, if_false, ← hr]
  cases roundContribs s x.num 1 <;> rfl

/-- Once round B is complete, its command closes the step as soon as its UPDs have completed. -/
theorem roundBDone_closes (hx : stepOf s n.toNat = some x) (hl : s.live = true) (hround : x.round = .bDone) :
    Answers (.roundBDone n) s (tryClose s x.num) := by
  refine congrArg (commit s) ?_
  simp only [hx, hl, hround, not_true_eq_false, if_false, reduceCtorEq]

end

/-- Settles O23: each round's command is its condition on the step, the contributions and the UPDs. -/
theorem barrierRoundsRunInOrder : Obligations.BarrierRoundsRunInOrder := by
  refine ⟨fun n x rest t s hs ht hn => ⟨fun hl hopened hround hidle => ?_, fun hno => ?_⟩, fun n x s hx hl => ?_⟩
  · exact roundA_answers hs ht hn (if_pos ⟨hl, hopened, hround, hidle⟩)
  · refine roundA_answers hs ht hn (if_neg fun ⟨_, hopened, hround, hidle⟩ => ?_)
    rcases hno with hno | hno | hno
    · exact ne_true_of_eq_false hno hidle
    · exact ne_true_of_eq_false hno hopened
    · exact hno hround
  · refine ⟨fun cs hround hcs => ?_, fun hround hcs => ?_, fun hround hagain => ?_, fun hround hagain hset hrep => ?_,
      fun hround hagain hset hrep => ?_, fun hround hagain hset => ?_, fun cs hround hcs => ?_, fun hround hcs => ?_,
      fun hround => roundBDone_closes hx hl hround⟩
    · exact roundADone_answers hx hl hround (by rw [hcs]; rfl)
    · exact roundADone_answers hx hl hround (by rw [hcs]; rfl)
    · exact roundB_answers hx hl hround (by rw [hagain]; rfl)
    · exact roundB_answers hx hl hround (by rw [hagain, hset, hrep]; rfl)
    · exact roundB_answers hx hl hround (by rw [hagain, hset, hrep]; rfl)
    · exact roundB_answers hx hl hround (by rw [hagain, hset]; rfl)
    · exact roundBDone_answers hx hl hround (by rw [hcs]; rfl)
    · exact roundBDone_answers hx hl hround (by rw [hcs]; rfl)

/-! ### The opening (R178) -/

section

/-- The latch of the seed and the regime leave the descriptors and the Velvet entries, which stand in the store. -/
theorem classesNow_sched (s : State) (r : Sched) : classesNow { s with sched := r } = classesNow s := by
  have hraw : ∀ i, ({ s with sched := r } : State).rawRegion i = s.rawRegion i := fun _ => rfl
  simp only [classesNow, hraw]

theorem captureVel_sched (s : State) (r : Sched) (regs : List (Nat × Region)) : captureVel { s with sched := r } regs = captureVel s regs := by
  have hvel : ∀ j, ({ s with sched := r } : State).velvet j = s.velvet j := fun _ => rfl
  simp only [captureVel, hvel]

/-- Step y as it opens: seed, regime, classes, Velvet state, and what came early for it (R37, R116, R120, R130, R200). -/
def openedStep (s : State) (regs : List (Nat × Region)) (n : Nat) (mf g : Bool) (y : StepSt) : StepSt :=
  { y with opened := true, guarded := g, mfirst := mf, key := s.sched.drxseed, classes := classesNow s, vel := captureVel s regs,
           ovf := ((s.car.early.filter (fun e => e.1 = n)).map Prod.snd).foldl addNew y.ovf,
           wrote := (s.car.earlyW.filter (fun e => e.1 = n)).map Prod.snd }

theorem openedStep_sched (s : State) {r : Sched} (h : r.drxseed = s.sched.drxseed) (regs : List (Nat × Region)) (n : Nat) (mf g : Bool) :
    openedStep { s with sched := r } regs n mf g = openedStep s regs n mf g := by
  funext y
  simp only [openedStep, classesNow_sched, captureVel_sched, h]

/-- The state in which step n is open, before what waited for it goes on: f is what the opening makes of the step. -/
def openedState (s : State) (n : Nat) (f : StepSt → StepSt) : State :=
  let s3 := s.onStep n f
  let late := fun (e : Nat × Nat) => decide (e.1 ≠ n)
  { s3 with car := { s3.car with lastOpened := n, anyOpened := true, skipMap := [],
                                 early := s3.car.early.filter late, earlyW := s3.car.earlyW.filter late } }

theorem openedState_steps (s : State) (n : Nat) (f : StepSt → StepSt) :
    (openedState s n f).steps = s.steps.map (fun y => if y.num = n then f y else y) := rfl

/-- What waited for the opening of step n goes on: an enabled plan is armed, ring packets are taken, held accumulates are checked (R37, R39). -/
def afterOpening (s4 : State) (n : Nat) : State := checkHeld (retryRings (if planWanted s4 then armPlan s4 n else s4))

/-- The block with the seed latched and SCALEPOL as the regime leaves it (R116, R120, R130). -/
def latched (s1 : State) (pol : W64) : State := { s1 with sched := { s1.sched with drxkey := s1.sched.drxseed, scalepol := pol } }

theorem openedStep_latched (s1 : State) (pol : W64) (regs : List (Nat × Region)) (n : Nat) (mf g : Bool) :
    openedStep (latched s1 pol) regs n mf g = openedStep s1 regs n mf g := openedStep_sched s1 rfl regs n mf g

/-- Step n opens over the state s1 that Velvet has left, measure-first or not, guarded or not. -/
def openOver (s1 : State) (regs : List (Nat × Region)) (n : Nat) (mf g : Bool) (pol : W64) : State :=
  afterOpening (openedState (latched s1 pol) n (openedStep (latched s1 pol) regs n mf g)) n

/-- What the opening leaves, for any SCALEPOL: the seed is latched, the step is open with its captures, and memory and cores stand. -/
theorem openOver_leaves (s1 : State) (regs : List (Nat × Region)) (n : Nat) (mf g : Bool) (pol : W64) :
    ∃ s4 : State, s4.sched = { s1.sched with drxkey := s1.sched.drxseed, scalepol := pol }
      ∧ s4.steps = s1.steps.map (fun y => if y.num = n then openedStep s1 regs n mf g y else y)
      ∧ s4.car.lastOpened = n ∧ s4.store = s1.store ∧ s4.dram = s1.dram ∧ s4.cores = s1.cores
      ∧ openOver s1 regs n mf g pol = afterOpening s4 n := by
  refine ⟨openedState (latched s1 pol) n (openedStep (latched s1 pol) regs n mf g), rfl, ?_, rfl, rfl, rfl, rfl, rfl⟩
  rw [openedState_steps, openedStep_latched]
  rfl

/-- The opening over the state that Velvet has left, with the regime that the wishes and the Velvet entries ask for (R116, R120). -/
def openRegime (s1 : State) (regs : List (Nat × Region)) (n : Nat) : State :=
  let mf := (openWishes s1).2 || (velEntries regs).any (fun j => decide ((s1.velvet j).hcount = 0))
  let g := (openWishes s1).1 || mf
  openOver s1 regs n mf g (setFlag (setFlag s1.sched.scalepol 33 mf) 34 g)

theorem openRegime_eq {s1 : State} {regs : List (Nat × Region)} {mf g : Bool} (n : Nat)
    (hmf : mf = ((openWishes s1).2 || (velEntries regs).any (fun j => decide ((s1.velvet j).hcount = 0)))) (hg : g = ((openWishes s1).1 || mf)) :
    openRegime s1 regs n = openOver s1 regs n mf g (setFlag (setFlag s1.sched.scalepol 33 mf) 34 g) := by
  subst hg hmf
  rfl

variable {s : State} {x : StepSt} {rest : List StepSt}

theorem stepOpening_opens (hs : s.steps = x :: rest) (hopened : x.opened = false) (hl : s.live = true) (hsweep : sweepWaits s x = false) :
    stepOpening s = openRegime ((velEntries (velRegions s)).foldl (fun s' j => openEntry s' x.num (velRegions s) s'.car.skipMap j) s)
      (velRegions s) x.num := by
  have hgo : ¬ (x.opened = true ∨ ¬ s.live = true ∨ sweepWaits s x = true) := by simp [hopened, hl, hsweep]
  unfold stepOpening
  rw [hs]
  exact if_neg hgo

theorem stepOpening_waits (hs : s.steps = x :: rest) (h : x.opened = true ∨ sweepWaits s x = true) : stepOpening s = s := by
  unfold stepOpening
  rw [hs]
  exact if_pos (h.imp_right .inr)

theorem stepOpening_none (hs : s.steps = []) : stepOpening s = s := by
  unfold stepOpening
  rw [hs]

end

/-- Settles O21: the opening is `openOver` of what Velvet has left, and `openOver_leaves` says what that holds. The two new values and the
state stay opaque, or comparing SCALEPOL with itself would compute with its bits. -/
theorem openingLatchesSeedAndRegime : Obligations.OpeningLatchesSeedAndRegime := by
  refine ⟨fun x rest s hs hopened hl hsweep => ?_,
    fun x rest s hs hsweep => congrArg (commit s) (stepOpening_waits hs (.inr hsweep)), fun s h => congrArg (commit s) ?_⟩
  · intro regs s1 mf g
    have hopen : stepOpening s = openRegime s1 regs x.num := stepOpening_opens hs hopened hl hsweep
    have hregime := hopen.trans (openRegime_eq (mf := mf) (g := g) x.num rfl rfl)
    clear_value g mf s1 regs
    obtain ⟨s4, hsched, hsteps, hlast, hstore, hdram, hcores, h4⟩ := openOver_leaves s1 regs x.num mf g (setFlag (setFlag s1.sched.scalepol 33 mf) 34 g)
    exact ⟨s4, hsched, hsteps, hlast, hstore, hdram, hcores, congrArg (commit s) (hregime.trans h4)⟩
  · rcases h with hs | ⟨x, rest, hs, hopened⟩
    · exact stepOpening_none hs
    · exact stepOpening_waits hs (.inl hopened)

end Sys2Proof.Machine

/-!
Completion (R160, R164-R166, R319): what a complete operation leaves of the slots, of memory and of the cores that wait on it.
-/

namespace Sys2Proof.Machine

/-! ### The cores that wait on an operation learn its result -/

section

variable (s : State) (t : Nat) (o : Op)

/-- Only cores change: a stalled core has its result ready. -/
theorem wakeWaiters_cores : ∃ cs, wakeWaiters s t o = { s with cores := cs } := by
  unfold wakeWaiters
  refine List.foldlRecOn (motive := fun r : State => ∃ cs, r = { s with cores := cs }) _ _ ⟨s.cores, rfl⟩ ?_
  rintro _ ⟨cs, rfl⟩ c -
  dsimp only
  split
  case h_4 => exact ⟨cs, rfl⟩
  all_goals
    split_ifs
    · exact ⟨_, rfl⟩
    · exact ⟨cs, rfl⟩

theorem slot_wakeWaiters (x : Nat) : (wakeWaiters s t o).slot x = s.slot x := by
  obtain ⟨cs, h⟩ := wakeWaiters_cores s t o
  rw [h]
  rfl

theorem now_wakeWaiters : (wakeWaiters s t o).now = s.now := by
  obtain ⟨cs, h⟩ := wakeWaiters_cores s t o
  rw [h]
  rfl

end

/-! ### The slot of a complete operation -/

/-- Slot t takes state k, keeping its generation; no other slot, no memory and no stream changes. -/
structure SlotLeft (s r : State) (t : Nat) (k : SlotState) : Prop where
  slot : r.slot t = { s.slot t with st := k }
  others : ∀ x, x ≠ t → r.slot x = s.slot x
  store : r.store = s.store
  dram : r.dram = s.dram
  strms : r.strms = s.strms

section

variable (s : State) (t : Nat) {o : Op}

theorem slotLeft_setSlot (k : SlotState) : SlotLeft s (s.setSlot t { s.slot t with st := k }) t k :=
  ⟨State.slot_setSlot_same s t _, fun _ hx => State.slot_setSlot_ne s _ hx, rfl, rfl, rfl⟩

theorem slotLeft_leaveSlot (o : Op) : SlotLeft s (leaveSlot s t o) t (if o.retried then .quarantine o.doneAt else .free) := by
  cases h : o.retried with
  | true => exact leaveSlot_quarantine s t h ▸ slotLeft_setSlot s t _
  | false =>
    obtain ⟨hslot, hothers, -⟩ := slotLeft_setSlot s t .free
    rw [leaveSlot_free s t h]
    exact ⟨hslot, hothers, rfl, rfl, rfl⟩

/-- Waking the cores first changes nothing of it. -/
theorem SlotLeft.of_wakeWaiters {s r : State} {t : Nat} {o : Op} {k : SlotState} (h : SlotLeft (wakeWaiters s t o) r t k) : SlotLeft s r t k := by
  obtain ⟨hslot, hothers, hstore, hdram, hstrms⟩ := h
  simp only [slot_wakeWaiters] at hslot hothers
  obtain ⟨cs, hcs⟩ := wakeWaiters_cores s t o
  rw [hcs] at hstore hdram hstrms
  exact ⟨hslot, hothers, hstore, hdram, hstrms⟩

theorem releaseSlot_unheld (h : o.hold = false) : releaseSlot s t o = leaveSlot (wakeWaiters s t o) t o := by
  simp only [releaseSlot, h, Bool.false_eq_true, false_and, if_false]

theorem slotLeft_releaseSlot (h : o.hold = false) :
    SlotLeft s (releaseSlot s t o) t (if o.retried then .quarantine o.doneAt else .free) := by
  rw [releaseSlot_unheld s t h]
  exact (slotLeft_leaveSlot _ t o).of_wakeWaiters

/-- With HOLD, and no core waiting already, the slot is kept for WAIT. -/
theorem slotLeft_releaseSlot_held (h : o.hold = true) (hw : waitedFor s t o = false) :
    SlotLeft s (releaseSlot s t o) t (.busy { o with phase := .held }) := by
  have hr : releaseSlot s t o = (wakeWaiters s t o).setOp t { o with phase := .held } := if_pos ⟨h, by simp [hw]⟩
  rw [hr]
  exact SlotLeft.of_wakeWaiters (o := o) (slotLeft_setSlot (wakeWaiters s t o) t _)

/-- Whatever becomes of its own slot, releasing it changes no other, no memory and no stream. -/
theorem slotLeft_releaseSlot_any (o : Op) : ∃ k, SlotLeft s (releaseSlot s t o) t k := by
  by_cases h : o.hold = true ∧ ¬ waitedFor s t o = true
  · exact ⟨_, slotLeft_releaseSlot_held s t h.1 (Bool.eq_false_iff.mpr h.2)⟩
  · have hr : releaseSlot s t o = leaveSlot (wakeWaiters s t o) t o := if_neg h
    exact ⟨_, hr ▸ (slotLeft_leaveSlot _ t o).of_wakeWaiters⟩

end

/-! ### What completion notes beside the slot -/

/-- The slots, the cores, memory and local time stand. -/
structure Stands (s r : State) : Prop where
  slots : r.slots = s.slots
  cores : r.cores = s.cores
  store : r.store = s.store
  dram : r.dram = s.dram
  now : r.now = s.now

section

variable {s r w : State}

theorem Stands.refl (s : State) : Stands s s := ⟨rfl, rfl, rfl, rfl, rfl⟩

theorem Stands.trans (h : Stands s r) (h' : Stands r w) : Stands s w :=
  ⟨h'.slots.trans h.slots, h'.cores.trans h.cores, h'.store.trans h.store, h'.dram.trans h.dram, h'.now.trans h.now⟩

theorem Stands.slot (h : Stands s r) (t : Nat) : r.slot t = s.slot t := by rw [State.slot, h.slots]; rfl

theorem stands_endStep (s : State) (t : Nat) (o : Op) : Stands s (endStep s t o) := by
  unfold endStep
  split_ifs
  · exact Stands.refl s
  · split
    · exact ⟨rfl, rfl, rfl, rfl, rfl⟩
    · exact Stands.refl s

theorem stands_keepPass (s : State) (o : Op) : Stands s (keepPass s o) := by
  unfold keepPass
  split
  · split_ifs
    · exact ⟨rfl, rfl, rfl, rfl, rfl⟩
    · exact Stands.refl s
  · exact Stands.refl s

theorem stands_strmDone (s : State) (n : Nat) : Stands s (strmDone s n) := by
  unfold strmDone
  split
  · exact ⟨rfl, rfl, rfl, rfl, rfl⟩
  · exact Stands.refl s

theorem stands_logFailure (s : State) (t : Nat) (o : Op) : Stands s (logFailure s t o) := by
  unfold logFailure
  dsimp only
  split_ifs
  · exact ⟨rfl, rfl, rfl, rfl, rfl⟩
  · exact Stands.refl s

end

/-! ### COMPLETION -/

/-- The operation as its completion settles it (R165, R408). -/
def Op.settled (o : Op) (s : State) : Op := { o with degraded := o.degraded || touchesPatched s o || onMasking s o, doneAt := s.now }

/-- The block with operation o settled in slot t, before it reports. -/
def settledIn (s : State) (t : Nat) (o : Op) : State :=
  endStep { noteUse (s.setOp t o) (opDomains s o) with quiesce := if s.quiesce = some t then none else s.quiesce } t o

/-- The settled operation reports to whoever issued it (R164, R166). -/
def reported (s : State) (t : Nat) (o : Op) : State :=
  match o.src with
  | .sub p => freeSlot (strmDone (subReport (wakeWaiters s t o) p o) o.stream) t o.retried
  | .remote _ _ _ => completeRemote (wakeWaiters s t o) t o
  | .plan => freeSlot (wakeWaiters s t o) t o.retried
  | .again => freeSlot (strmDone (keepPass (wakeWaiters s t o) o) o.stream) t o.retried
  | _ => completeHere (keepPass s o) t o

section

variable {s : State} {t : SlotId} {o : Op}

theorem stands_settledIn (s : State) (t : Nat) (o : Op) : Stands (s.setOp t o) (settledIn s t o) :=
  have hnote : ∀ q, Stands (s.setOp t o) { noteUse (s.setOp t o) (opDomains s o) with quiesce := q } := fun _ => ⟨rfl, rfl, rfl, rfl, rfl⟩
  (hnote _).trans (stands_endStep _ t o)

/-- The operation in slot t has ended, and nothing keeps its completion back (R321, R401, R423). -/
structure MayComplete (s : State) (t : SlotId) (o : Op) : Prop where
  op : s.op t.toNat = some o
  ended : o.phase = .ended
  works : s.failstop = false
  parity : parityHeld s t.toNat = false
  delivery : deliveryHeld s t.toNat o = false

theorem completion_answers (h : MayComplete s t o) {r : State} (hr : reported (settledIn s t.toNat (o.settled s)) t.toNat (o.settled s) = r) :
    Answers (.completion t) s r := by
  obtain ⟨hop, hended, hworks, hparity, hdelivery⟩ := h
  refine congrArg (commit s) (Eq.trans ?_ hr)
  unfold completeOp
  rw [hop]
  exact if_neg (by simp [hended, hworks, hparity, hdelivery])

theorem completion_waits (ho : s.op t.toNat = some o)
    (h : o.phase ≠ .ended ∨ s.failstop = true ∨ parityHeld s t.toNat = true ∨ deliveryHeld s t.toNat o = true) : Answers (.completion t) s s := by
  refine congrArg (commit s) ?_
  unfold completeOp
  rw [ho]
  exact if_pos h

end

/-- Settles O27: `leaveSlot` and `freeSlot` decide between the free list and quarantine; QUARANTINE_END is a case split on the slot. -/
theorem retriedSlotsAreQuarantined : Obligations.RetriedSlotsAreQuarantined := by
  refine ⟨fun t o s hhold hret => ⟨?_, ?_⟩, fun t o s hop hended hworks hparity hdelivery hsrc hret => ?_, fun t o s hheld hret => ?_,
    fun t n s hst hworks => ?_, fun t s hst => ?_⟩
  · have hslot := (slotLeft_releaseSlot s t.toNat hhold).slot
    rwa [hret, if_pos rfl] at hslot
  · rw [releaseSlot_unheld s _ hhold, leaveSlot_quarantine _ _ hret]
    obtain ⟨cs, hcs⟩ := wakeWaiters_cores s t.toNat o
    rw [hcs]
    rfl
  · have hstands := stands_settledIn s t.toNat (o.settled s)
    have hr : reported (settledIn s t.toNat (o.settled s)) t.toNat (o.settled s)
        = freeSlot (wakeWaiters (settledIn s t.toNat (o.settled s)) t.toNat (o.settled s)) t.toNat true := by
      simp only [reported, Op.settled, hsrc, hret]
    refine ⟨_, completion_answers ⟨hop, hended, hworks, hparity, hdelivery⟩ hr, ?_⟩
    have hnow : (settledIn s t.toNat (o.settled s)).now = s.now := hstands.now
    rw [State.settle_slot, freeSlot, if_pos rfl, State.slot_setSlot_same, slot_wakeWaiters, now_wakeWaiters, hstands.slot, hnow,
      State.setOp, State.slot_setSlot_same]
  · rw [waitFrees_held _ _ hheld, leaveSlot_quarantine _ _ hret, State.slot_setSlot_same]
  · have hr : exec (.quarantineEnd t) s = commit s
        { (s.atLeast (n + 102400)).setSlot t.toNat { s.slot t.toNat with st := .free } with freeq := s.freeq ++ [t.toNat] } := by
      refine congrArg (commit s) ?_
      simp only [hst, hworks, Bool.false_eq_true, if_false]
      rfl
    exact ⟨_, hr, State.slot_setSlot_same (s.atLeast _) t.toNat _, rfl, rfl, fun x hx => State.slot_setSlot_ne (s.atLeast _) _ hx, rfl, rfl, rfl⟩
  · refine congrArg (commit s) ?_
    split
    next n heq => exact absurd heq (hst n)
    next => rfl

/-! ### Who learns of a completion -/

section

variable {s : State} {t : Nat} {o : Op}

theorem Op.settled_keeps (o : Op) (s : State) : (o.settled s).src = o.src ∧ (o.settled s).crec = o.crec ∧ (o.settled s).hold = o.hold
    ∧ (o.settled s).retried = o.retried ∧ (o.settled s).doneAt = s.now := ⟨rfl, rfl, rfl, rfl, rfl⟩

theorem reported_sub {p : Nat} (h : o.src = .sub p) :
    reported s t o = freeSlot (strmDone (subReport (wakeWaiters s t o) p o) o.stream) t o.retried := by
  unfold reported
  rw [h]

theorem reported_remote {d k n : Nat} (h : o.src = .remote d k n) : reported s t o = completeRemote (wakeWaiters s t o) t o := by
  unfold reported
  rw [h]

theorem reported_plan (h : o.src = .plan) : reported s t o = freeSlot (wakeWaiters s t o) t o.retried := by
  unfold reported
  rw [h]

theorem reported_again (h : o.src = .again) :
    reported s t o = freeSlot (strmDone (keepPass (wakeWaiters s t o) o) o.stream) t o.retried := by
  unfold reported
  rw [h]

theorem reported_here (h : (∃ c pc, o.src = .core c pc) ∨ ∃ r, o.src = .host r) : reported s t o = completeHere (keepPass s o) t o := by
  unfold reported
  rcases h with ⟨c, pc, h⟩ | ⟨r, h⟩ <;> rw [h]

end

/-! ### Completion without a record -/

section

variable {s b : State} {t : Nat} {o p : Op}

/-- An operation without a record leaves its slot as its HOLD says, after what its stream and the log note. -/
theorem completeHere_unrecorded (s : State) (t : Nat) (h : o.crec = false) : ∃ b, Stands s b ∧ completeHere s t o = releaseSlot b t o := by
  have hdone := stands_strmDone s o.stream
  have hlog := hdone.trans (stands_logFailure _ t o)
  unfold completeHere
  cases hhold : o.hold <;> simp only [h, Bool.false_eq_true, not_false_eq_true, not_true_eq_false, false_and, false_or, if_true, if_false] <;> split
  · exact ⟨_, hlog, rfl⟩
  · exact ⟨_, hlog, rfl⟩
  · exact ⟨_, hdone, rfl⟩
  · exact ⟨_, hdone, rfl⟩

/-- Whether a core waits already depends on the cores, the issuer and the ticket. -/
theorem waitedFor_congr (h : Stands (s.setOp t p) b) (hsrc : p.src = o.src) : waitedFor b t p = waitedFor s t o := by
  have hcore : ∀ c, b.core c = s.core c := fun c => by rw [State.core, h.cores]; rfl
  have hticket : ticketOf b t = ticketOf s t := by rw [ticketOf, h.slot, State.setOp, State.slot_setSlot_same]; rfl
  simp only [waitedFor, hcore, hticket, hsrc]

/-- What is said of the slot after the settling holds of the slot before it. -/
theorem SlotLeft.of_settled {r : State} {k : SlotState} (h : Stands (s.setOp t p) b) (hr : SlotLeft b r t k) :
    r.store = s.store ∧ r.dram = s.dram ∧ r.slot t = { s.slot t with st := k } ∧ ∀ x, x ≠ t → r.slot x = s.slot x := by
  obtain ⟨hslot, hothers, hstore, hdram, -⟩ := hr
  refine ⟨hstore.trans h.store, hdram.trans h.dram, ?_, fun x hx => ?_⟩
  · rw [hslot, h.slot, State.setOp, State.slot_setSlot_same]
  · rw [hothers x hx, h.slot, State.setOp, State.slot_setSlot_ne _ _ hx]

end

/-! ### The oldest held record (R319) -/

section

variable {s : State} {n t : Nat} {q : Strm}

theorem times_of_fixed {α : Type} {f : α → α} {x : α} (h : f x = x) (n : Nat) : times f n x = x := by
  induction n with
  | zero => rfl
  | succ n ih => exact (congrArg (times f n) h).trans ih

theorem releaseRecord_waits (hq : s.strm n = some q) (h : cqFull s q = true ∨ q.resident = false ∨ pushHeld s n = true) : releaseRecord s n = s := by
  unfold releaseRecord
  rw [hq]
  dsimp only
  split
  · rfl
  · exact if_pos (by rcases h with h | h | h <;> simp [h])

theorem releaseRecord_writes {o : Op} (hq : s.strm n = some q) (hheld : q.heldRecs = [t]) (hroom : cqFull s q = false) (hworks : s.failstop = false)
    (hres : q.resident = true) (hpush : pushHeld s n = false) (ho : s.op t = some o) :
    let s1 := s.setStrm n { q with heldRecs := [] }
    releaseRecord s n = releaseSlot (writeRecord s1 n { q with heldRecs := [] } (recordBytes s1 t o)) t o := by
  unfold releaseRecord
  simp only [hq, hheld, hroom, hworks, hres, hpush, ho, Bool.not_true, Bool.false_eq_true, or_self, if_false]

/-- A record changes the store and, with a copy, what goes to the host. -/
theorem writeRecord_leaves (s : State) (n : Nat) (q : Strm) (rec : List Byte) :
    (writeRecord s n q rec).slots = s.slots ∧ (writeRecord s n q rec).strms = s.strms ∧ (writeRecord s n q rec).dram = s.dram := by
  have hsend : ∀ (r : State) (m : HostMsg), (sendCredited r m).slots = r.slots ∧ (sendCredited r m).strms = r.strms ∧ (sendCredited r m).dram = r.dram := by
    intro r m
    unfold sendCredited
    dsimp only
    split_ifs <;> exact ⟨rfl, rfl, rfl⟩
  unfold writeRecord
  dsimp only
  split_ifs
  · obtain ⟨hslots, hstrms, hdram⟩ := hsend ((s.stWrite _ rec).stWrite _ _) _
    rw [hslots, hstrms, hdram, State.stWrite_eq, State.stWrite_eq s]
    exact ⟨rfl, rfl, rfl⟩
  · rw [State.stWrite_eq, State.stWrite_eq s]
    exact ⟨rfl, rfl, rfl⟩

end

/-- Settles O26: `reported` gives each kind of issuer its case, and what a release leaves is a lemma about the slot. -/
theorem completionSettlesAnOperation : Obligations.CompletionSettlesAnOperation := by
  refine ⟨fun t o s hop => ⟨completion_waits hop, fun hended hworks hparity hdelivery => ?_⟩,
    fun st q s hq => ⟨fun hnone => ?_, fun hwait => ?_, fun t o hheld hroom hworks hres hpush ho => ?_⟩⟩
  · intro o1 s1 s2
    have ho1 : o1 = o.settled s := rfl
    have hs1 : s1 = settledIn s t.toNat o1 := rfl
    have hs2 : s2 = wakeWaiters s1 t.toNat o1 := rfl
    clear_value s2 s1 o1
    obtain ⟨hsrc, hcrec, hhold1, hret, hdone⟩ : o1.src = o.src ∧ o1.crec = o.crec ∧ o1.hold = o.hold ∧ o1.retried = o.retried ∧ o1.doneAt = s.now :=
      ho1 ▸ o.settled_keeps s
    have hmay : MayComplete s t o := ⟨hop, hended, hworks, hparity, hdelivery⟩
    have hanswers : Answers (.completion t) s (reported s1 t.toNat o1) := completion_answers hmay (by rw [hs1, ho1])
    rw [hs2]
    refine ⟨fun p hp => ?_, fun d k n hp => ?_, fun hp => ?_, fun hp => ?_, fun hp => ?_⟩
    · rwa [reported_sub (hsrc.trans hp)] at hanswers
    · rwa [reported_remote (hsrc.trans hp)] at hanswers
    · rwa [reported_plan (hsrc.trans hp)] at hanswers
    · rwa [reported_again (hsrc.trans hp)] at hanswers
    · rw [reported_here (by rwa [hsrc])] at hanswers
      have hstands : Stands (s.setOp t.toNat o1) (keepPass s1 o1) := hs1 ▸ (stands_settledIn s t.toNat o1).trans (stands_keepPass _ o1)
      refine ⟨hanswers, fun hrec hhold => ?_, fun hrec hhold hwaited => ?_⟩
      all_goals
        obtain ⟨b, hb, heq⟩ := completeHere_unrecorded (keepPass s1 o1) t.toNat (hcrec.trans hrec)
        rw [heq] at hanswers
      · have hleft := (slotLeft_releaseSlot b t.toNat (hhold1.trans hhold)).of_settled (hstands.trans hb)
        rw [hret, hdone] at hleft
        exact ⟨_, hanswers, hleft⟩
      · have hleft := slotLeft_releaseSlot_held b t.toNat (hhold1.trans hhold) ((waitedFor_congr (hstands.trans hb) hsrc).trans hwaited)
        obtain ⟨hstore, hdram, hslot, hothers⟩ := hleft.of_settled (hstands.trans hb)
        exact ⟨_, hanswers, hstore, hdram, op_of_slot (congrArg Slot.st hslot), hothers⟩
  · refine congrArg (commit s) ?_
    rw [hq]
    simp only [hnone, List.length_nil, times]
  · exact congrArg (commit s) (times_of_fixed (releaseRecord_waits hq hwait) _)
  · intro s1
    have hanswers : Answers (.cqHeadRecheck st) s
        (releaseSlot (writeRecord s1 st.toNat { q with heldRecs := [] } (recordBytes s1 t o)) t o) := by
      refine congrArg (commit s) (Eq.trans ?_ (releaseRecord_writes hq hheld hroom hworks hres hpush ho))
      rw [hq]
      simp only [hheld, List.length_singleton, times]
    have hwrite := writeRecord_leaves s1 st.toNat { q with heldRecs := [] } (recordBytes s1 t o)
    generalize writeRecord s1 st.toNat { q with heldRecs := [] } (recordBytes s1 t o) = b at hanswers hwrite ⊢
    obtain ⟨hslots, hstrms, hdram⟩ := hwrite
    have hslot : ∀ x, b.slot x = s.slot x := fun x => by rw [State.slot, hslots]; rfl
    obtain ⟨k, hleft⟩ := slotLeft_releaseSlot_any b t o
    refine ⟨hanswers, _, hanswers, ?_, hleft.dram.trans hdram, fun hhold hret => ?_, fun x hx => (hleft.others x hx).trans (hslot x)⟩
    · rw [State.settle_strm, State.strm, hleft.strms, hstrms]
      exact congrArg (Option.map _) (State.strm_setStrm_same s st.toNat _)
    · have hfree := (slotLeft_releaseSlot b t hhold).slot
      rw [State.settle_slot, hfree, hret]
      rfl

end Sys2Proof.Machine

/-!
Acceptance of an update (R184, R180, R116, R120), and what an operation's trap leaves of its slot.
-/

namespace Sys2Proof.Machine

/-! ### An operation's trap reaches a core, not a slot -/

section

variable {s : State} {t : Nat} {o : Op}

theorem slots_pushTrap (s : State) (c : Nat) (w : TrapRec) : (pushTrap s c w).slots = s.slots := by
  rw [pushTrap, State.setCore_slots, State.stWrite_eq]

theorem slots_queueAsync (s : State) (c : Nat) (w : TrapRec) : (queueAsync s c w).slots = s.slots := by
  unfold queueAsync
  dsimp only
  split_ifs
  · rw [State.setCore_slots]
  · rw [State.setCore_slots, slots_pushTrap]

theorem slots_raiseAsync (s : State) (c : Nat) (w : TrapRec) : (raiseAsync s c w).slots = s.slots := by
  unfold raiseAsync
  dsimp only
  split_ifs
  · exact slots_queueAsync s c w
  · rw [State.setCore_slots]

theorem op_raiseAsync (s : State) (c : Nat) (w : TrapRec) (t : Nat) : (raiseAsync s c w).op t = s.op t := by
  rw [State.op, State.slot, slots_raiseAsync]
  rfl

/-- Whoever takes the trap, the operation is marked TRAPPED (R174). -/
theorem op_opTrap (ho : s.op t = some o) (cause : Nat) (desc : Bool) (region index : Nat) :
    (opTrap s t cause desc region index).op t = some { o with trapped := true } := by
  simp only [opTrap, ho]
  split <;> simp only [op_raiseAsync, State.op_setOp_same]

theorem op_endOp_of_unvoided (ho : s.op t = some o) (hv : o.voids = none) (st d : Nat) : (endOp s t st d).op t = some (o.ended st d) := by
  rw [endOp_of_unvoided ho hv, State.op_setOp_same]

/-- An operation that has met nothing ends ILLEGAL with its trap (R15, R174). -/
theorem op_endIllegal (ho : s.op t = some o) (h : Clean o) :
    (endIllegal s t).op t = some { o with trapped := true, phase := .ended, status := 0x18, detail := 0 } := by
  obtain ⟨hstatus, hvoids⟩ := h
  simp only [endIllegal, ho]
  rw [op_endOp_of_unvoided (op_opTrap ho _ _ _ _) hvoids]
  simp [Op.ended, hstatus, statusMin, statusRank]

end

/-! ### UPD -/

section

variable {s : State} {t : Nat} {o : Op}

theorem markTrial_waiting (ho : s.op t = some o) (h : o.phase = .waiting) :
    markTrial s t = s.setOp t { o with trial := stepGuarded s o.step } := by
  simp only [markTrial, ho, h, if_true]

theorem markTrial_not_waiting (ho : s.op t = some o) (h : o.phase ≠ .waiting) : markTrial s t = s := by
  simp only [markTrial, ho, h, if_false]

/-- The regime of a step does not look at the slots. -/
theorem stepGuarded_setOp (s : State) (t : Nat) (p : Op) (n : Option Nat) : stepGuarded (s.setOp t p) n = stepGuarded s n := rfl

/-- A UPD belongs to the update function alone (Table 16-5), and needs a step. -/
theorem acceptFinds_upd (ho : o.opc = 0x20) (hfn : fnRefuses s [0] = false) (hstep : stepFor s ≠ none) (proj : Bool) :
    acceptFinds s o proj true = 0 := by
  have hfns : functionsOf o.opc proj = [0] := if_pos ho
  simp only [acceptFinds, hfns, hfn, hstep, Bool.false_eq_true, and_false, if_false]

end

section

variable {s : State} {t : SlotId} {o : Op}

theorem exec_upd (h : Accepts s t 0x20 o) :
    exec (.upd t) s = commit s (markTrial (acceptOp s t.toNat (fun _ _ => true) updCheck) t.toNat) := by
  refine congrArg (commit s) ((if_pos h.issued).trans ?_)
  rw [opRow_accepts h]

end

/-- Settles O31: UPD is accepted as every operation is, and `markTrial` then looks at the regime of its step. -/
theorem updatesAreAcceptedAsTrials : Obligations.UpdatesAreAcceptedAsTrials := by
  intro t o s h s1
  have hx := exec_upd h
  obtain ⟨-, hopc, -⟩ := id h
  refine ⟨fun rs imgs desc prog hc hfn hstep => ?_, fun hc hclean => ?_⟩
  · have hf := acceptFinds_upd (s := s1) (o := tagged s o) hopc hfn hstep (decide (o.opc = 0x23) && gthProj desc)
    rw [acceptOp_ok h hc] at hx
    dsimp only at hx
    rw [if_neg (not_not_intro hf), markTrial_waiting (State.op_setOp_same _ _ _) rfl, stepGuarded_setOp, stepGuarded_setOp] at hx
    exact (((OpOnly.of_setOp s _ (tagged s o)).setOp _).setOp _).setsOp hx
  · have hop := op_endIllegal (State.op_setOp_same s t.toNat (tagged s o)) hclean
    rw [acceptOp_illegal h hc, markTrial_not_waiting hop nofun] at hx
    exact ⟨_, hx, hop⟩

end Sys2Proof.Machine

/-!
Micro-ops (Table 7-3, R191 to R197, R214): what the next micro-op of a program makes of a unit.
-/

namespace Sys2Proof.Machine

/-! ### One micro-op of a unit -/

section

variable (s : State) (o : Op) (c : UpdCtx) (x : Machine.Unit) (w : MOp) (b : TBlock)

/-- A block as the micro-op before place n of the program leaves it: with a pass of eight ends what RSUM and RMAX held back (R197). -/
def TBlock.passed (n : Nat) (b : TBlock) : TBlock :=
  if n % 8 = 0 then { b with regs := b.next.foldl (fun m q => aput m q.1 q.2) b.regs, next := [] } else b

/-- The row-scope result of w over a unit (R197). -/
def unitRow : MRes := rowRes w.op (x.blocks.map (fun b => b.reg c.p.B w.a))

/-- The result of w for one block of its unit. -/
def blockRes : MRes := microRes (microEnv s o c x.gap b.idx w) w (b.reg c.p.B w.a) (b.reg c.p.B w.b)

/-- What w makes of one block of its unit (Table 7-3). -/
def microBlock : TBlock :=
  if w.op = 0x00 then b
  else if w.op = 0x14 ∨ w.op = 0x15 then
    { b with next := aput b.next w.d { x := (unitRow c x w).r.x, m := List.replicate c.p.B ((unitRow c x w).r.m.headD (some 0)) },
             sat := b.sat || (unitRow c x w).sat, clamp := b.clamp || (unitRow c x w).clamp }
  else if w.op = 0x16 then
    { b with norm := b.norm ++ [(w.imm % 2, (redSum c.d.ngrid (b.reg c.p.B w.a)).1, (redSum c.d.ngrid (b.reg c.p.B w.a)).2)] }
  else { b with regs := aput b.regs w.d (blockRes s o c x w b).r, sat := b.sat || (blockRes s o c x w b).sat,
                clamp := b.clamp || (blockRes s o c x w b).clamp }

variable {s o c x w b}

theorem microBlock_nop (h : w.op = 0x00) : microBlock s o c x w b = b := if_pos h

theorem microBlock_row (h : w.op = 0x14 ∨ w.op = 0x15) : microBlock s o c x w b =
    { b with next := aput b.next w.d { x := (unitRow c x w).r.x, m := List.replicate c.p.B ((unitRow c x w).r.m.headD (some 0)) },
             sat := b.sat || (unitRow c x w).sat, clamp := b.clamp || (unitRow c x w).clamp } :=
  (if_neg (by omega)).trans (if_pos h)

theorem microBlock_red (h : w.op = 0x16) : microBlock s o c x w b =
    { b with norm := b.norm ++ [(w.imm % 2, (redSum c.d.ngrid (b.reg c.p.B w.a)).1, (redSum c.d.ngrid (b.reg c.p.B w.a)).2)] } :=
  (if_neg (by omega)).trans ((if_neg (by omega)).trans (if_pos h))

theorem microBlock_reg (h : w.op ∉ [0x00, 0x14, 0x15, 0x16]) : microBlock s o c x w b =
    { b with regs := aput b.regs w.d (blockRes s o c x w b).r, sat := b.sat || (blockRes s o c x w b).sat,
             clamp := b.clamp || (blockRes s o c x w b).clamp } := by
  simp only [List.mem_cons, List.not_mem_nil, or_false, not_or] at h
  obtain ⟨hnop, hsum, hmax, hred⟩ := h
  exact (if_neg hnop).trans ((if_neg (not_or_intro hsum hmax)).trans (if_neg hred))

/-- The unit moves on by one, each of its blocks as the micro-op leaves it. -/
theorem unitStep_unit (h : (o.prog[x.upc]?).map parseMOp = some w) :
    (unitStep s o c x).1 = { x with upc := x.upc + 1, blocks := x.blocks.map (fun b => (microBlock s o c x w b).passed (x.upc + 1)) } := by
  obtain ⟨word, hword, rfl⟩ := Option.map_eq_some_iff.mp h
  simp only [unitStep, hword, List.map_map]
  congr 2
  funext b
  refine congrArg (TBlock.passed (x.upc + 1)) ?_
  simp only [apply_ite Prod.fst]
  rfl

end

/-! ### The rows of Table 7-3 -/

section

variable {s : State} {t : SlotId} {u op : Nat} {f : MicroF} {o : Op} {c : UpdCtx} {x : Machine.Unit}

/-- Each micro-op is `microRow` of its code. -/
theorem exec_microRow {i : Instr} (h : microRowOf i = some (t, u, op, f)) (s : State) : exec i s = commit s (microRow s t.toNat u op f) := by
  unfold microRowOf at h
  split at h
  case h_26 => exact nomatch h
  all_goals
    cases h
    rfl

theorem microRow_at (h : AtMicro s t u op f o c x) :
    microRow s t.toNat u op f = noteMade (putUnit s (unitStep s o c x).1) t.toNat o c (unitStep s o c x).2 := by
  obtain ⟨hunit, hword⟩ := h
  obtain ⟨word, hget, hparse⟩ := Option.map_eq_some_iff.mp hword
  simp only [microRow, hunit, hget]
  exact if_pos hparse

end

/-- Settles O32: the unit moves on by `unitStep_unit`, whose blocks are one of the four forms of `microBlock`, and each exact value is a row of
`microRes`. -/
theorem microOpsWriteTheirRegister : Obligations.MicroOpsWriteTheirRegister := by
  refine ⟨fun i t u op f o c x s hi h => ?_, fun env a b d ra rb k imm => ?_⟩
  · intro w B pass row
    obtain ⟨-, hword⟩ := id h
    have hblocks : ∀ {g : TBlock → TBlock}, (∀ b, microBlock s o c x w b = g b) →
        x.blocks.map (fun b => (microBlock s o c x w b).passed (x.upc + 1)) = x.blocks.map (fun b => pass (g b)) :=
      fun hg => List.map_congr_left fun b _ => congrArg (TBlock.passed (x.upc + 1)) (hg b)
    refine ⟨_, unitStep_unit hword, (exec_microRow hi s).trans (congrArg (commit s) (microRow_at h)), fun hop => ?_, fun hop => ?_, fun hop => ?_,
      fun hop => ?_⟩
    · exact hblocks fun b => microBlock_nop hop
    · exact hblocks fun b => microBlock_row hop
    · exact hblocks fun b => microBlock_red hop
    · exact hblocks fun b => microBlock_reg hop
  · exact ⟨rfl, rfl, rfl, rfl, rfl, rfl, rfl, rfl, rfl, rfl, rfl, rfl, rfl, rfl, rfl, rfl⟩

end Sys2Proof.Machine

/-!
Release of a unit, reports of the Antlers, and verdicts of the shadow check on an update's blocks (R189, R201, R202, R206, R260 to R265, R410).
-/

namespace Sys2Proof.Machine

/-! ### The operation at work in a slot -/

section

variable {s : State} {t opc : Nat} {o : Op}

theorem running_eq_some_iff : running s t opc = some o ↔ s.op t = some o ∧ o.phase = .running ∧ o.opc = opc ∧ s.live = true := by
  unfold running
  cases s.op t with
  | none => simp
  | some p =>
    simp only [Option.ite_none_right_eq_some, Option.some.injEq]
    exact ⟨fun ⟨h, hp⟩ => ⟨hp, hp ▸ h⟩, fun ⟨hp, h⟩ => ⟨hp.symm ▸ h, hp⟩⟩

theorem running_of_op_none (h : s.op t = none) : running s t opc = none := by
  simp only [running, h]

theorem Works.running {t : SlotId} (h : Works s t opc o) : running s t.toNat opc = some o := by
  obtain ⟨ho, hopc, hphase, hlive⟩ := h
  exact running_eq_some_iff.mpr ⟨ho, hphase, hopc, hlive⟩

theorem onOp_of_op (h : s.op t = some o) (f : Op → Op) : s.onOp t f = s.setOp t (f o) := by
  simp only [State.onOp, h]

/-- A unit that may advance belongs to the operation in the slot. -/
theorem op_of_updUnit {u : Nat} {c : UpdCtx} {x : Machine.Unit} (h : updUnit s t u = some (o, c, x)) : s.op t = some o := by
  unfold updUnit at h
  split at h
  · exact nomatch h
  · rename_i p hp
    obtain ⟨hop, -⟩ := running_eq_some_iff.mp hp
    split at h
    · exact nomatch h
    · split at h
      all_goals
        obtain ⟨-, heq⟩ := Option.ite_none_right_eq_some.mp h
        cases heq
        exact hop

end

/-! ### BLOCK_RELEASE (R201, R260, R265, R410) -/

section

variable {s : State} {t : Nat} (o : Op) (c : UpdCtx)

theorem op_noteMade_isSome (h : (s.op t).isSome = true) (m : Option Nat) : ((noteMade s t o c m).op t).isSome = true := by
  obtain ⟨p, hp⟩ := Option.isSome_iff_exists.mp h
  cases m with
  | none => exact h
  | some i => rw [noteMade, onOp_of_op hp, State.op_setOp_same]; rfl

theorem op_finishProgram_isSome (h : (s.op t).isSome = true) (n : Nat) (x : Machine.Unit) :
    ((finishProgram s t o c n x).1.op t).isSome = true := by
  induction n generalizing s x with
  | zero => exact h
  | succ n ih => exact ih (op_noteMade_isSome o c h _) _

end

/-- What the release leaves of a unit x whose program has run, with the blocks `want` to be checked: s as the command found it, s0 after the
program and the sampling, o1 the operation there. -/
def releaseChecked (s s0 : State) (t : Nat) (o1 : Op) (c : UpdCtx) (x : Machine.Unit) (want : List Nat) (sib : Bool) : State :=
  let room := 64 - heldTiles s
  if sib ∧ room < want.length then s
  else
    let s1 := times bumpSkipped (want.length - room) s0
    if want.take room = [] then finishUnit s1 t o1 c x else putUnit s1 { x with held := want.take room }

section

variable {s s0 : State} {t : Nat} {o1 : Op} {c : UpdCtx} {x : Machine.Unit} {want : List Nat} {sib : Bool}

theorem releaseUnit_at {u : Nat} {o : Op} (h : updUnit s t u = some (o, c, x)) :
    let r := finishProgram s t o c (c.d.nops - x.upc) x
    let pl := unitPlace s c u
    let sm := sampleUpd r.1 pl.1 pl.2.1 x.blocks.length
    releaseUnit s t u = releaseChecked s sm.1 t ((r.1.op t).getD o) c r.2
      (if siblingUnit s c u then List.range x.blocks.length else sm.2) (siblingUnit s c u) := by
  intro r pl sm
  have hsome : (s.op t).isSome = true := by rw [op_of_updUnit h]; rfl
  obtain ⟨p, hp⟩ := Option.isSome_iff_exists.mp (op_finishProgram_isSome o c hsome (c.d.nops - x.upc) x)
  have hsampled : sm.1.op t = some p := hp
  simp only [releaseUnit, h, r, pl, sm, hp, Option.getD_some] at hsampled ⊢
  rw [hsampled]
  rfl

theorem releaseChecked_none (h : want = []) : releaseChecked s s0 t o1 c x want sib = finishUnit s0 t o1 c x := by
  subst h
  simp [releaseChecked, times]

theorem releaseChecked_held (hw : want ≠ []) (hroom : want.length ≤ 64 - heldTiles s) :
    releaseChecked s s0 t o1 c x want sib = putUnit s0 { x with held := want } := by
  have hwaits : ¬ (sib = true ∧ 64 - heldTiles s < want.length) := fun ⟨_, hlt⟩ => Nat.not_lt.mpr hroom hlt
  simp only [releaseChecked, hwaits, if_false, Nat.sub_eq_zero_of_le hroom, times, List.take_of_length_le hroom, hw]

/-- Sibling service waits for room in the queue (R265, R410). -/
theorem releaseChecked_waits (hsib : sib = true) (hroom : 64 - heldTiles s < want.length) : releaseChecked s s0 t o1 c x want sib = s :=
  if_pos ⟨hsib, hroom⟩

theorem releaseChecked_skipped (hsib : sib = false) (hroom : 64 - heldTiles s = 0) :
    releaseChecked s s0 t o1 c x want sib = finishUnit (times bumpSkipped want.length s0) t o1 c x := by
  simp only [releaseChecked, hsib, hroom, Bool.false_eq_true, false_and, if_false, Nat.sub_zero, List.take_zero, if_true]

end

/-! ### ANTLER_REPORT (R189, R202) -/

/-- What follows the report that has made the operation o1: the last of a commit ends it, and the last of any run ends it where ABORT reached it. -/
def afterReport (s1 : State) (t : Nat) (o1 : Op) (c : UpdCtx) : State :=
  if allReported s1 o1 c ∧ ¬ o1.trial then
    if o1.aborted then endAborted (s1.onOp t (fun p => { p with count := normCount o1 c })) t (o1.count / c.p.B)
    else endWork (s1.onOp t (fun p => { p with count := normCount o1 c })) t 0 0
  else if allReported s1 o1 c ∧ o1.aborted then endAborted s1 t 0
  else s1

section

variable {s s1 : State} {t h a : Nat} {o o1 : Op} {c : UpdCtx}

theorem antlerReport_due (hrun : running s t 0x20 = some o) (hc : updCtx o = some c) (hin : h * 8 + a ∈ updAntlers s c)
    (hnew : h * 8 + a ∉ o.reports) (hdone : antlerDone s t o c (h * 8 + a) = true) :
    let o1 : Op := { o with reports := o.reports ++ [h * 8 + a] }
    antlerReport s t h a = afterReport (s.setOp t o1) t o1 c := by
  simp only [antlerReport, hrun, hc]
  exact if_pos ⟨hin, hnew, hdone⟩

theorem antlerReport_undue (hrun : running s t 0x20 = some o) (hc : updCtx o = some c)
    (hno : h * 8 + a ∉ updAntlers s c ∨ h * 8 + a ∈ o.reports ∨ antlerDone s t o c (h * 8 + a) = false) : antlerReport s t h a = s := by
  simp only [antlerReport, hrun, hc]
  refine if_neg fun ⟨hin, hnew, hdone⟩ => ?_
  rcases hno with hno | hno | hno
  · exact hno hin
  · exact hnew hno
  · exact ne_true_of_eq_false hno hdone

theorem afterReport_more (hall : allReported s1 o1 c = false) : afterReport s1 t o1 c = s1 := by
  simp only [afterReport, hall, Bool.false_eq_true, false_and, if_false]

/-- A trial waits for its commit run (R202). -/
theorem afterReport_trial (htrial : o1.trial = true) (hab : o1.aborted = false) : afterReport s1 t o1 c = s1 := by
  simp only [afterReport, htrial, hab, not_true_eq_false, Bool.false_eq_true, and_false, if_false]

theorem afterReport_trial_aborted (hall : allReported s1 o1 c = true) (htrial : o1.trial = true) (hab : o1.aborted = true) :
    afterReport s1 t o1 c = endAborted s1 t 0 := by
  simp only [afterReport, hall, htrial, hab, not_true_eq_false, and_false, if_false, and_self, if_true]

theorem afterReport_commit_aborted (hall : allReported s1 o1 c = true) (htrial : o1.trial = false) (hab : o1.aborted = true) :
    afterReport s1 t o1 c = endAborted (s1.onOp t (fun p => { p with count := normCount o1 c })) t (o1.count / c.p.B) := by
  simp only [afterReport, hall, htrial, hab, Bool.false_eq_true, not_false_eq_true, and_self, if_true]

theorem afterReport_commit (hall : allReported s1 o1 c = true) (htrial : o1.trial = false) (hab : o1.aborted = false) :
    afterReport s1 t o1 c = endWork (s1.onOp t (fun p => { p with count := normCount o1 c })) t 0 0 := by
  simp only [afterReport, hall, htrial, hab, Bool.false_eq_true, not_false_eq_true, and_self, if_true, if_false]

/-- The work of an operation that has met nothing ends OK: its slot and its context alone change. -/
theorem endWork_ok (ho : s.op t = some o) (hclean : Clean o) : endWork s t 0 0 = (freeCtx s t).setOp t { o with phase := .ended } := by
  have hfreed : (freeCtx s t).op t = some o := ho
  obtain ⟨-, hvoids⟩ := id hclean
  rw [endWork, endOp_of_unvoided hfreed hvoids, Op.ended_ok hclean]

/-- A commit run ends OK with its COUNT; cores, memory and the other slots stand. -/
theorem endWork_counted (ho : s1.op t = some o) (hclean : Clean o) (n : Nat) :
    let r := endWork (s1.onOp t (fun p => { p with count := n })) t 0 0
    r.op t = some { o with count := n, phase := .ended } ∧ r.cores = s1.cores ∧ r.store = s1.store ∧ r.dram = s1.dram
      ∧ ∀ y, y ≠ t → r.slot y = s1.slot y := by
  intro r
  have hr : r = (freeCtx (s1.setOp t { o with count := n }) t).setOp t { o with count := n, phase := .ended } :=
    (congrArg (fun z => endWork z t 0 0) (onOp_of_op ho _)).trans (endWork_ok (o := { o with count := n }) (State.op_setOp_same s1 t _) hclean)
  rw [hr]
  refine ⟨State.op_setOp_same _ t _, rfl, rfl, rfl, fun y hy => ?_⟩
  exact (State.slot_setSlot_ne _ _ hy).trans (State.slot_setSlot_ne s1 _ hy)

end

/-! ### SHADOW_VERDICT on an update's block (R261, R263) -/

section

variable {s : State} {t u k : Nat} {rest : List Nat} {v : Verdict} {o : Op} {c : UpdCtx} {x : Machine.Unit} {b : TBlock}

theorem shadowVerdict_update (hrun : running s t 0x20 = some o) (hc : updCtx o = some c) (hx : tineUnit s t u = some x) :
    shadowVerdict s t u v = updVerdict s t o c x v := by
  simp only [shadowVerdict, hrun, hc, hx]

/-- A tile that agrees with its reference commits as it is, and the check is counted. -/
theorem tileVerdict_agrees {q : TileChk} (h : q.agrees v.tile v.ref1 = true) : tileVerdict s t q v = (bumpChecked s, some v.tile) :=
  if_pos h

theorem updVerdict_agrees (ho : s.op t = some o) (hheld : x.held = k :: rest) (hb : x.blocks[k]? = some b)
    (hagrees : (updChk s t o c x k b).agrees v.tile v.ref1 = true) :
    let x' := { x with held := rest, blocks := x.blocks.set k (b.off (wmapRegs c (decide (k = 0))) v.tile) }
    updVerdict s t o c x v = if rest = [] then finishUnit (bumpChecked s) t o c x' else putUnit (bumpChecked s) x' := by
  have hop : (bumpChecked s).op t = some o := ho
  simp only [updVerdict, hheld, hb, tileVerdict_agrees hagrees, hop]

end

/-! ### A slot without an operation -/

section

variable {s : State} {t : Nat}

theorem releaseUnit_idle (h : s.op t = none) (u : Nat) : releaseUnit s t u = s := by
  simp only [releaseUnit, updUnit, running_of_op_none h]

theorem antlerReport_idle (hn : s.op t = none) (h a : Nat) : antlerReport s t h a = s := by
  simp only [antlerReport, running_of_op_none hn]

theorem shadowVerdict_idle (h : s.op t = none) (u : Nat) (v : Verdict) : shadowVerdict s t u v = s := by
  simp only [shadowVerdict, running_of_op_none h]

end

/-- Settles O33: a release is `releaseChecked`, a report is `afterReport`, and a verdict that agrees is `updVerdict_agrees`. -/
theorem unitsAreReleasedAndReported : Obligations.UnitsAreReleasedAndReported := by
  refine ⟨fun t u o c x s hunit => ?_, fun t h a o c s hw hc => ?_, fun t u k rest v o c x b s hw hc hx hheld hb _ hagrees => ?_,
    fun t u h a v s hnone => ⟨congrArg (commit s) (releaseUnit_idle hnone u), congrArg (commit s) (antlerReport_idle hnone _ _),
      congrArg (commit s) (shadowVerdict_idle hnone u v)⟩⟩
  · intro r pl sm o1 want room
    have hanswers : ∀ {y}, releaseChecked s sm.1 t.toNat o1 c r.2 want (siblingUnit s c u) = y → Answers (.blockRelease t u) s y :=
      fun hy => congrArg (commit s) ((releaseUnit_at hunit).trans hy)
    exact ⟨fun hwant => hanswers (releaseChecked_none hwant), fun hwant hroom => hanswers (releaseChecked_held hwant hroom),
      fun _ hroom hsib => hanswers (releaseChecked_waits hsib hroom), fun _ hroom hsib => hanswers (releaseChecked_skipped hsib hroom)⟩
  · intro n o1 s1
    refine ⟨fun hin hnew hdone => ?_, fun hno => congrArg (commit s) (antlerReport_undue hw.running hc hno)⟩
    have hanswers : ∀ {y}, afterReport s1 t.toNat o1 c = y → Answers (.antlerReport t h a) s y :=
      fun hy => congrArg (commit s) ((antlerReport_due hw.running hc hin hnew hdone).trans hy)
    refine ⟨fun hall => ?_, fun _ htrial hab => ?_, fun hall htrial hab hclean => ?_,
      fun hall htrial hab => hanswers (afterReport_commit_aborted hall htrial hab),
      fun hall htrial hab => hanswers (afterReport_trial_aborted hall htrial hab)⟩
    · exact (OpOnly.of_setOp s t.toNat o1).setsOp (hanswers (afterReport_more hall))
    · exact (OpOnly.of_setOp s t.toNat o1).setsOp (hanswers (afterReport_trial htrial hab))
    · obtain ⟨hop, hcores, hstore, hdram, hothers⟩ := endWork_counted (State.op_setOp_same s t.toNat o1) hclean (normCount o1 c)
      exact ⟨_, _, hanswers (afterReport_commit hall htrial hab), hop, rfl, hcores, hstore, hdram,
        fun y hy => (hothers y hy).trans (State.slot_setSlot_ne s _ hy)⟩
  · intro x'
    obtain ⟨ho, -⟩ := id hw
    have hverdict := (shadowVerdict_update hw.running hc hx).trans (updVerdict_agrees ho hheld hb hagrees)
    exact ⟨fun hlast => congrArg (commit s) (hverdict.trans (if_pos hlast)), fun hmore => congrArg (commit s) (hverdict.trans (if_neg hmore))⟩

end Sys2Proof.Machine

/-!
Rows of the vector engine (Table 9-6, R242 to R251): what the instruction that a VOP's program names next leaves, and when it changes nothing.
-/

namespace Sys2Proof.Machine

/-! ### The rows -/

/-- The rows of Table 9-6: the context, the code and the fields of the instruction. -/
def vecRowOf : Instr → Option (Fin 8 × Nat × VecF)
  | .vld x f => some (x, 0x01, f) | .vst x f => some (x, 0x02, f) | .vadd x f => some (x, 0x03, f) | .vsub x f => some (x, 0x04, f)
  | .vmul x f => some (x, 0x05, f) | .vmax x f => some (x, 0x06, f) | .vmin x f => some (x, 0x07, f) | .vabs x f => some (x, 0x08, f)
  | .vneg x f => some (x, 0x09, f) | .vscl x f => some (x, 0x0A, f) | .vclp x f => some (x, 0x0B, f) | .vcon x f => some (x, 0x0C, f)
  | .vcmp x f => some (x, 0x0D, f) | .vsel x f => some (x, 0x0E, f) | .vdrp x f => some (x, 0x0F, f) | .vred x f => some (x, 0x10, f)
  | .tred x f => some (x, 0x11, f) | .vprm x f => some (x, 0x12, f) | .viota x f => some (x, 0x13, f) | .tld x f => some (x, 0x18, f)
  | .tst x f => some (x, 0x19, f) | .ttr x f => some (x, 0x1A, f) | .top x f => some (x, 0x1B, f) | .tgv x f => some (x, 0x1C, f)
  | .tpv x f => some (x, 0x1D, f) | .wcv x f => some (x, 0x20, f) | .wop x f => some (x, 0x21, f) | .wfn x f => some (x, 0x22, f)
  | .pcv x f => some (x, 0x23, f) | .padd x f => some (x, 0x24, f) | .pmul x f => some (x, 0x25, f) | .wsum x f => some (x, 0x26, f)
  | .wnr x f => some (x, 0x27, f) | .setvl x f => some (x, 0x30, f) | .sumc x f => some (x, 0x31, f) | _ => none

section

variable {i : Instr} {x : Fin 8} {op : Nat} {f : VecF} {e : VEnv} {s r : State}

/-- Each row of Table 9-6 is `vecRow` of the work that its code names. -/
theorem exec_vecRow (hi : vecRowOf i = some (x, op, f)) (s : State) : exec i s = commit s (vecRow s x.val op f (vecWork op)) := by
  unfold vecRowOf at hi
  split at hi
  case h_36 => exact nomatch hi
  all_goals
    cases hi
    rfl

/-- A row that the program does not name next changes nothing (R242). -/
theorem vecRow_unnamed (hi : vecRowOf i = some (x, op, f)) (h : vecNext s x.val op f = none) : Answers i s s := by
  have hrow : vecRow s x.val op f (vecWork op) = s := by simp only [vecRow, h]
  exact (exec_vecRow hi s).trans (congrArg (commit s) hrow)

/-- Where ABORT has come, the VOP ends as an iteration would begin (R250). -/
theorem vecRow_stopped (hi : vecRowOf i = some (x, op, f)) (h : vecNext s x.val op f = some e) (hs : e.stopped = true) :
    Answers i s (endAborted s e.t e.x.iter) := by
  have hrow : vecRow s x.val op f (vecWork op) = endAborted s e.t e.x.iter := by simp only [vecRow, h, hs, if_true]
  exact (exec_vecRow hi s).trans (congrArg (commit s) hrow)

/-- The row that the program names next does its work, and the program moves on. -/
theorem vecLeaves_of_work (hi : vecRowOf i = some (x, op, f)) (h : AtVec s x op f e) (hw : wideUse (vecWork op s e f) e.t op = r) :
    VecLeaves i s e r := by
  obtain ⟨hnext, hgoes⟩ := h
  have hrow : vecRow s x.val op f (vecWork op) = vopAdvance r e.t := by
    simp only [vecRow, hnext, hgoes, hw, Bool.false_eq_true, if_false]
  exact (exec_vecRow hi s).trans (congrArg (commit s) hrow)

/-! ### Lanes and the wide path -/

/-- Instructions other than those of the wide path do not use its lanes (R412). -/
theorem wideUse_lane (t : Nat) (hop : op < 0x20 ∨ 0x27 < op) : wideUse s t op = s :=
  if_neg fun ⟨hlo, hhi, _⟩ => by omega

theorem wideUse_wide (t : Nat) (hop : 0x20 ≤ op ∧ op ≤ 0x27) :
    wideUse s t op = if fld s.mgmt.fltstat 19 16 ≠ 0 then markDegraded s t else s := by
  obtain ⟨hlo, hhi⟩ := hop
  simp only [wideUse, hlo, hhi, true_and]

/-- A row outside the wide path leaves what its work leaves. -/
theorem vecLeaves_lane (hi : vecRowOf i = some (x, op, f)) (h : AtVec s x op f e) (hw : vecWork op s e f = r)
    (hop : op < 0x20 ∨ 0x27 < op := by decide) : VecLeaves i s e r :=
  vecLeaves_of_work hi h (by rw [wideUse_lane _ hop, hw])

/-- A row of the wide path leaves what its work leaves, degraded where a group of lanes is masked: no work of it changes FLTSTAT (R412). -/
theorem vecLeaves_wide (hi : vecRowOf i = some (x, op, f)) (h : AtVec s x op f e) (hw : vecWork op s e f = r) (hm : r.mgmt = s.mgmt)
    (hop : 0x20 ≤ op ∧ op ≤ 0x27 := by decide) :
    VecLeaves i s e (if fld s.mgmt.fltstat 19 16 ≠ 0 then markDegraded r e.t else r) :=
  vecLeaves_of_work hi h (by rw [wideUse_wide _ hop, hw, hm])

end

/-! ### The VOP in its context -/

section

variable {s : State} {t : Nat} {e : VEnv}

theorem running_of_vopAt {n : Nat} (h : vopAt s n = some e) : running s e.t 0x40 = some e.o := by
  unfold vopAt at h
  split at h
  · obtain ⟨o, hrun, rfl⟩ := Option.map_eq_some_iff.mp h
    exact hrun
  · exact nomatch h

theorem vopAt_of_vecNext {n op : Nat} {f : VecF} (h : vecNext s n op f = some e) : vopAt s n = some e := by
  unfold vecNext at h
  split at h
  · exact nomatch h
  · rename_i e' hat
    split at h
    · obtain ⟨-, heq⟩ := Option.ite_none_right_eq_some.mp h
      exact hat.trans heq
    · exact nomatch h

/-- The slot of a VOP that an instruction reaches holds its operation. -/
theorem AtVec.op_slot {x : Fin 8} {op : Nat} {f : VecF} (h : AtVec s x op f e) : s.op e.t = some e.o := by
  obtain ⟨hnext, -⟩ := h
  obtain ⟨hop, -⟩ := running_eq_some_iff.mp (running_of_vopAt (vopAt_of_vecNext hnext))
  exact hop

/-! ### The end of an operation (R166, R174) -/

/-- An operation whose work has ended is not running, whatever void it raises a trap for. -/
theorem running_endOp (opc : Nat) {o : Op} (ho : s.op t = some o) (st d : Nat) : running (endOp s t st d) t opc = none := by
  have hended : ∃ p, (endOp s t st d).op t = some p ∧ p.phase = .ended := by
    simp only [endOp, ho]
    split
    · exact ⟨_, op_opTrap (State.op_setOp_same _ _ _) _ _ _ _, rfl⟩
    · exact ⟨_, State.op_setOp_same _ _ _, rfl⟩
  obtain ⟨p, hp, hphase⟩ := hended
  simp only [running, hp, hphase, reduceCtorEq, false_and, if_false]

theorem vopAdvance_idle (h : running s t 0x40 = none) : vopAdvance s t = s := by
  simp only [vopAdvance, h]

/-- A VOP that an instruction has ended moves on no further. -/
theorem vopAdvance_endWork {o : Op} (ho : s.op t = some o) (st d : Nat) : vopAdvance (endWork s t st d) t = endWork s t st d :=
  vopAdvance_idle (running_endOp (s := freeCtx s t) 0x40 ho st d)

end

/-- Settles O35: each row is `vecLeaves_lane` of its work; a VDRP without a step ends the VOP, whose program then stands. -/
theorem vectorLaneArithmetic : Obligations.VectorLaneArithmetic := by
  intro x f e s b a lo W
  refine ⟨(vecLeaves_lane rfl · rfl), (vecLeaves_lane rfl · rfl), (vecLeaves_lane rfl · rfl), (vecLeaves_lane rfl · rfl),
    (vecLeaves_lane rfl · rfl), (vecLeaves_lane rfl · rfl), (vecLeaves_lane rfl · rfl), (vecLeaves_lane rfl · rfl),
    (vecLeaves_lane rfl · rfl), (vecLeaves_lane rfl · rfl), (vecLeaves_lane rfl · rfl), (vecLeaves_lane rfl · rfl),
    fun h hstep => vecLeaves_lane rfl h (if_neg hstep), fun h hstep => ?_, (vecLeaves_lane rfl · rfl)⟩
  have hleaves : VecLeaves (.vdrp x f) s e (endWork s e.t 0x14 0) := vecLeaves_lane rfl h (if_pos hstep)
  rwa [VecLeaves, vopAdvance_endWork h.op_slot] at hleaves

/-! ### NLD and the contexts that a trap leaves (R241, R247) -/

section

variable {s : State} {t : Nat} {o : Op}

theorem ctxs_pushTrap (s : State) (c : Nat) (w : TrapRec) : (pushTrap s c w).ctxs = s.ctxs := by
  rw [pushTrap, State.setCore_ctxs, State.stWrite_eq]

theorem ctxs_raiseAsync (s : State) (c : Nat) (w : TrapRec) : (raiseAsync s c w).ctxs = s.ctxs := by
  unfold raiseAsync queueAsync
  dsimp only
  split_ifs
  · rw [State.setCore_ctxs]
  · rw [State.setCore_ctxs, ctxs_pushTrap]
  · rw [State.setCore_ctxs]

theorem ctxs_opTrap (cause : Nat) (desc : Bool) (region index : Nat) : (opTrap s t cause desc region index).ctxs = s.ctxs := by
  unfold opTrap
  split
  · rfl
  · dsimp only
    split <;> simp only [ctxs_raiseAsync, State.setOp_ctxs]

theorem ctxs_endOp (st d : Nat) : (endOp s t st d).ctxs = s.ctxs := by
  unfold endOp
  split
  · rfl
  · dsimp only
    split <;> simp only [ctxs_opTrap, State.setOp_ctxs]

theorem ctxs_endIllegal : (endIllegal s t).ctxs = s.ctxs := by
  unfold endIllegal
  split
  · rfl
  · rw [ctxs_endOp, ctxs_opTrap]

variable {x : Fin 8} {f : VecF} {e : VEnv}

theorem nld_answers (h : vopAt s x.val = some e) : Answers (.nld x f) s (endIllegal (freeCtx s e.t) e.t) := by
  show execNld x f s = _
  simp only [execNld, h]
  rfl

theorem nld_idle (h : vopAt s x.val = none) : Answers (.nld x f) s s := by
  show execNld x f s = _
  simp only [execNld, h]
  rfl

/-! ### The place in the program (R247, R250) -/

variable {c : VCtx} {n : Nat}

theorem vopAdvance_within (hrun : running s t 0x40 = some o) (hctx : ctxOf s t = some (n, c)) (h : c.at_ + 1 < o.prog.length) :
    vopAdvance s t = setCtx s n { c with at_ := c.at_ + 1 } := by
  simp only [vopAdvance, hrun, hctx, h, if_true]

/-- After its last instruction an iteration ends; the last one ends the VOP. -/
theorem vopAdvance_past (hrun : running s t 0x40 = some o) (hctx : ctxOf s t = some (n, c)) (h : o.prog.length ≤ c.at_ + 1) :
    let s1 := (setCtx s n { c with at_ := 0, iter := c.iter + 1 }).onOp t (fun o => { o with progress := c.iter + 1 })
    vopAdvance s t = if vopIter o.desc ≤ c.iter + 1 then (if o.aborted then endAborted s1 t (c.iter + 1) else endWork s1 t 0 0) else s1 := by
  simp only [vopAdvance, hrun, hctx, Nat.not_lt.mpr h, if_false]

end

/-- Settles O38: SETVL and SUMC are `vecLeaves_lane` of their work, NLD ends the operation in its slot, every row answers as the program and ABORT
have it, and the place moves by the two forms of `vopAdvance`. -/
theorem vectorControl : Obligations.VectorControl := by
  intro x f e s
  refine ⟨(vecLeaves_lane rfl · rfl), (vecLeaves_lane rfl · rfl), fun h => ⟨nld_answers h, fun hclean => ?_⟩, nld_idle,
    fun i op hi => ?_, fun c o n hrun hctx => ⟨vopAdvance_within hrun hctx, fun hlast => ?_⟩⟩
  · obtain ⟨hop, -⟩ := running_eq_some_iff.mp (running_of_vopAt h)
    exact ⟨_, nld_answers h, op_endIllegal (s := freeCtx s e.t) hop hclean, ctxs_endIllegal⟩
  · have hrow : vecRowOf i = some (x, op, f) := by
      simp only [List.mem_cons, Prod.mk.injEq, List.not_mem_nil, or_false] at hi
      rcases hi with ⟨rfl, rfl⟩ | ⟨rfl, rfl⟩ | ⟨rfl, rfl⟩ | ⟨rfl, rfl⟩ | ⟨rfl, rfl⟩ | ⟨rfl, rfl⟩ |
        ⟨rfl, rfl⟩ | ⟨rfl, rfl⟩ <;> rfl
    exact ⟨vecRow_unnamed hrow, vecRow_stopped hrow⟩
  · intro s1
    have hpast := vopAdvance_past hrun hctx hlast
    refine ⟨fun hmore => hpast.trans (if_neg (Nat.not_le.mpr hmore)), fun hdone hgoes => ?_, fun hdone hab => ?_⟩
    · exact hpast.trans ((if_pos hdone).trans (if_neg (ne_true_of_eq_false hgoes)))
    · exact hpast.trans ((if_pos hdone).trans (if_pos hab))

end Sys2Proof.Machine

/-!
Reductions and the wide path of the vector engine (Table 9-7, Table 9-8, R242, R252 to R258, R412): what their work leaves, and what it notes.
-/

namespace Sys2Proof.Machine

/-! ### Reductions (Table 9-7, R253) -/

/-- A reduction is empty where nothing takes part, void or not. -/
theorem reduceEls_isEmpty (k : Nat) (C : Int) (l : List RedEl) : (reduceEls k C l).2.2 = l.isEmpty := by
  cases l with
  | nil => rfl
  | cons y l =>
    simp only [reduceEls, List.isEmpty_cons, Bool.false_eq_true, if_false]
    repeat' split
    all_goals rfl

/-- COUNT is the number of non-void elements. -/
theorem reduceEls_count (C : Int) {l : List RedEl} (h : l ≠ []) :
    reduceEls 1 C l = (.fin (l.countP (fun y => !y.v.isVoid)) 0, 0, false) := by
  simp only [reduceEls, List.isEmpty_eq_false_iff.mpr h, List.countP_eq_length_filter]
  rfl

theorem reduceEls_nil (C : Int) : reduceEls 0 C [] = (.fin 0 C, C, true) ∧ reduceEls 1 C [] = (Num.zero, 0, true)
    ∧ (∀ k ∈ [2, 3, 4, 5], reduceEls k C [] = (.void, 0, true)) ∧ (∀ k ∈ [6, 7], reduceEls k C [] = (.fin (-1) 0, 0, true)) := by
  simp [reduceEls]

section

variable {s : State} {e : VEnv} {f : VecF}

/-- VRED notes EMPTY where no element is active. -/
theorem doVred_eq : doVred s e f =
    let z := setCtx s e.n (vecReduce s e f).1
    if e.actives f = [] then noteEmpty z e.t else z := by
  have hempty : (vecReduce s e f).2 = true ↔ e.actives f = [] := by
    simp only [vecReduce, reduceEls_isEmpty, List.isEmpty_iff, List.map_eq_nil_iff, VEnv.actives]
  exact if_congr hempty rfl rfl

/-- The rows or columns that take part in a TRED (R244, R254). -/
def VEnv.taking (e : VEnv) (f : VecF) : List Nat :=
  (List.range 64).filter (fun k => decide (e.x.vl ≠ 0) && (!f.men || ((e.x.reg f.msk.toNat).lane k).active))

/-- The elements of row or column j of a tile that a TRED reduces along its axis. -/
def VEnv.tileEls (e : VEnv) (f : VecF) (j : Nat) : List RedEl :=
  let q := e.x.tile f.va.toNat
  (e.taking f).map (fun k =>
    if bitAt f.fn.toNat 3 then { i := k, x := q.exp k, v := q.lane (64 * k + j) } else { i := k, x := q.exp j, v := q.lane (64 * j + k) })

/-- The 64 reductions of a TRED. -/
def tileReds (s : State) (e : VEnv) (f : VecF) : List (Num × Int × Bool) :=
  (List.range 64).map (fun j => reduceEls (f.fn.toNat % 8) (e.emptyC s f) (e.tileEls f j))

/-- The register of results: group 0 at the least of their exponents. -/
def redReg (rs : List (Num × Int × Bool)) : VReg :=
  VReg.ofGroup0 (rs.foldl (fun a r => min a r.2.1) (match rs with | r :: _ => r.2.1 | [] => 0)) (rs.map (fun r => r.1))

theorem tileReduce_eq :
    tileReduce s e f = (e.x.setReg f.vd.toNat (redReg (tileReds s e f)), (tileReds s e f).any (fun r => r.2.2)) := by
  by_cases haxis : bitAt f.fn.toNat 3 = true
  · simp only [tileReduce, tileReds, VEnv.tileEls, haxis, if_true]
    rfl
  · simp only [tileReduce, tileReds, VEnv.tileEls, haxis]
    rfl

/-- Each of the 64 reductions is empty where no row or column takes part. -/
theorem tileReds_empty : (tileReds s e f).any (fun r => r.2.2) = true ↔ e.taking f = [] := by
  simp only [tileReds, VEnv.tileEls, List.any_map, Function.comp_def, reduceEls_isEmpty, List.isEmpty_map, List.any_eq_true, List.isEmpty_iff]
  exact ⟨fun ⟨_, _, hnone⟩ => hnone, fun hnone => ⟨0, by decide, hnone⟩⟩

/-- TRED notes EMPTY where no row or column takes part. -/
theorem doTred_eq : doTred s e f =
    let z := setCtx s e.n (e.x.setReg f.vd.toNat (redReg (tileReds s e f)))
    if e.taking f = [] then noteEmpty z e.t else z := by
  simp only [doTred, tileReduce_eq]
  exact if_congr tileReds_empty rfl rfl

end

/-! ### What a wide instruction leaves (R84, R256) -/

section

variable {s : State} {e : VEnv} {f : VecF}

theorem wideMap_eq (val : Nat → WideRes) : wideMap e f val =
    (e.x.putWide f.vd.toNat ((e.actives f).map (fun i => (i, (val i).w))),
     { sat := (e.actives f).any (fun i => (val i).sat), unf := (e.actives f).countP (fun i => (val i).unf) }) := by
  simp only [wideMap, List.map_map, List.any_map, List.countP_map, Function.comp_def]

theorem pairMap_eq (val : Nat → Num) : pairMap e f val =
    ((e.x.putWide f.vd.toNat ((e.actives f).map (fun i => (i, (toPair (val i)).1)))).putWide (f.vd.toNat + 2)
       ((e.actives f).map (fun i => (i, (toPair (val i)).2.1))),
     { sat := (e.actives f).any (fun i => (toPair (val i)).2.2.1), unf := (e.actives f).countP (fun i => (toPair (val i)).2.2.2) }) := by
  simp only [pairMap, pairNote, VCtx.putPair, List.map_map, List.any_map, List.countP_map, Function.comp_def]

theorem onOp_mgmt (s : State) (t : Nat) (g : Op → Op) : (s.onOp t g).mgmt = s.mgmt := by
  unfold State.onOp
  split <;> rfl

theorem noteVoid_mgmt (s : State) (t : Nat) : (noteVoid s t).mgmt = s.mgmt := onOp_mgmt s t _

theorem noteEmpty_mgmt (s : State) (t : Nat) : (noteEmpty s t).mgmt = s.mgmt := by
  simp only [noteEmpty, onOp_mgmt]

/-- The operations of WOP, of which FN 5 and 6 take one operand. -/
theorem wideOp_eq {k : Nat} {g : Num → Num → Num}
    (h : (k, g) ∈ [(0, Num.add), (1, Num.sub), (2, Num.mul), (3, Num.max), (4, Num.min), (5, fun a _ => Num.abs a), (6, fun a _ => Num.neg a)]) :
    wideOp k = g := by
  simp only [List.mem_cons, Prod.mk.injEq, List.not_mem_nil, or_false] at h
  rcases h with ⟨rfl, rfl⟩ | ⟨rfl, rfl⟩ | ⟨rfl, rfl⟩ | ⟨rfl, rfl⟩ | ⟨rfl, rfl⟩ | ⟨rfl, rfl⟩ | ⟨rfl, rfl⟩ <;> rfl

/-- WFN counts a void where an active element had a domain error (R258). -/
theorem doWfn_eq : doWfn s e f =
    let res := fun i => wideFn f.fn.toNat (e.x.wide f.va.toNat i) (e.x.wide f.vb.toNat i)
    let z := noteWide (putCtx s e (wideMap e f (fun i => (res i).1)).1) (wideMap e f (fun i => (res i).1)).2
    if ∃ i ∈ e.actives f, (res i).2 = true then noteVoid z e.t else z :=
  if_congr List.any_eq_true rfl rfl

/-- FN 0 of an instruction, as its field and as the number that it reads as. -/
theorem fn_eq_zero_iff : f.fn = 0 ↔ f.fn.toNat = 0 := BitVec.toNat_inj.symm

theorem ite_fn_zero {α : Type} (a b : α) : (if f.fn = 0 then a else b) = if f.fn.toNat = 0 then a else b :=
  if_congr fn_eq_zero_iff rfl rfl

/-- WSUM notes EMPTY where no element is active. -/
theorem doWsum_eq : doWsum s e f =
    let z := noteWide (setCtx s e.n (wideSum e f).1) (wideSum e f).2.1
    if e.actives f = [] then noteEmpty z e.t else z := by
  have hempty : (wideSum e f).2.2 = true ↔ e.actives f = [] := by
    simp only [wideSum, List.isEmpty_map, List.isEmpty_iff]
  exact if_congr hempty rfl rfl

/-- A void operand is no domain error (R258). -/
theorem wideFn_void (y : Num) (k : Nat) : wideFn k .void y = (WideRes.void, false) := rfl

/-- The operands for which a wide function has no value: a domain error, and the result is void (Table 9-8, R258). -/
theorem wideFn_domain (y : Num) (m ex : Int) : wideFn 0 (.fin 0 ex) y = (WideRes.void, true)
    ∧ (m < 0 → wideFn 1 (.fin m ex) y = (WideRes.void, true)) ∧ (m ≤ 0 → wideFn 2 (.fin m ex) y = (WideRes.void, true))
    ∧ (m < 0 → wideFn 4 (.fin m ex) y = (WideRes.void, true) ∧ wideFn 6 (.fin m ex) y = (WideRes.void, true)) :=
  ⟨rfl, fun h => if_pos h, fun h => if_pos h, fun h => ⟨if_pos h, if_pos h⟩⟩

end

/-- Settles O37: a reduction notes EMPTY by `doVred_eq` and `doTred_eq`, and a row of the wide path leaves its context and its note by
`vecLeaves_wide`. -/
theorem vectorReductionsAndWidePath : Obligations.VectorReductionsAndWidePath := by
  intro x f e s va ta vd is C fn empty W note wide pair wb
  have hempty : ∀ z, empty z = noteEmpty z e.t := fun _ => rfl
  have hwide : ∀ val, noteWide (putCtx s e (wideMap e f val).1) (wideMap e f val).2 = wide val := fun val => by
    rw [wideMap_eq]
    rfl
  have hpair : ∀ val, noteWide (putCtx s e (pairMap e f val).1) (pairMap e f val).2 = pair val := fun val => by
    rw [pairMap_eq]
    rfl
  refine ⟨fun h => ?_, fun h => ?_, reduceEls_nil, fun C l hl => reduceEls_count C hl, fun h => ?_, fun h g hg => ?_, fun h => ?_, fun y m ex => ?_,
    fun h => ?_, fun h => ⟨fun hfn => ?_, fun hfn => ?_⟩, fun h => ?_, fun h => ?_, fun h => ?_⟩
  · intro r z
    have hz : z = setCtx s e.n (vecReduce s e f).1 := rfl
    rw [hz]
    exact ⟨fun hl => vecLeaves_lane rfl h (doVred_eq.trans (if_neg hl)), fun hl => vecLeaves_lane rfl h (doVred_eq.trans (if_pos hl))⟩
  · intro part rs z
    have hrs : rs = tileReds s e f := rfl
    have hz : z = setCtx s e.n (e.x.setReg vd (redReg (tileReds s e f))) := hrs ▸ rfl
    rw [hz]
    exact ⟨fun hl => vecLeaves_lane rfl h (doTred_eq.trans (if_neg hl)), fun hl => vecLeaves_lane rfl h (doTred_eq.trans (if_pos hl))⟩
  · exact vecLeaves_wide rfl h (hwide _) rfl
  · refine vecLeaves_wide rfl h ?_ rfl
    rw [← wideOp_eq hg]
    exact hwide _
  · intro res z
    have hz : z = noteWide (putCtx s e (wideMap e f (fun i => (res i).1)).1) (wideMap e f (fun i => (res i).1)).2 := (hwide _).symm
    rw [hz]
    refine ⟨fun hnone => vecLeaves_wide rfl h (doWfn_eq.trans (if_neg fun ⟨i, hi, hvoid⟩ => ?_)) rfl,
      fun hsome => vecLeaves_wide rfl h (doWfn_eq.trans (if_pos hsome)) (noteVoid_mgmt _ _)⟩
    exact ne_true_of_eq_false (hnone i hi) hvoid
  · exact ⟨fun k => wideFn_void y k, wideFn_domain y m ex⟩
  · refine vecLeaves_wide rfl h ?_ rfl
    show noteWide (putCtx s e (pairFrom e f).1) (pairFrom e f).2 = _
    rw [pairFrom, wideMap_eq]
    rfl
  · refine vecLeaves_wide rfl h ?_ rfl
    show doPadd s e f = _
    simp only [doPadd, ite_fn_zero, show f.fn.toNat = 0 from hfn, if_true]
    exact hpair _
  · refine vecLeaves_wide rfl h ?_ rfl
    show doPadd s e f = _
    simp only [doPadd, ite_fn_zero, show f.fn.toNat = 1 from hfn, one_ne_zero, if_false]
    exact hpair _
  · exact vecLeaves_wide rfl h (hpair _) rfl
  · intro p c z
    have hz : z = noteWide (setCtx s e.n (wideSum e f).1) (wideSum e f).2.1 := by
      simp only [wideSum, ite_fn_zero]
      rfl
    rw [hz, hempty]
    exact ⟨fun hl => vecLeaves_wide rfl h (doWsum_eq.trans (if_neg hl)) rfl,
      fun hl => vecLeaves_wide rfl h (doWsum_eq.trans (if_pos hl)) (noteEmpty_mgmt _ _)⟩
  · refine vecLeaves_wide rfl h ?_ rfl
    show putCtx s e (wideNarrow e f) = _
    simp only [wideNarrow, ite_fn_zero]
    rfl

end Sys2Proof.Machine

/-!
Loads, stores and tiles of the vector engine (Table 9-6, R242, R249, R255): what a store leaves of the contexts and the cores, and the elements that
each row moves.
-/

namespace Sys2Proof.Machine

/-! ### Stores leave every context and core (R242, R249) -/

/-- The vector contexts and the control cores stand. -/
structure KeepsContexts (s r : State) : Prop where
  ctxs : r.ctxs = s.ctxs
  cores : r.cores = s.cores

namespace KeepsContexts

variable {s r w : State} {t : Nat}

theorem refl (s : State) : KeepsContexts s s := ⟨rfl, rfl⟩

theorem trans (h : KeepsContexts s r) (h' : KeepsContexts r w) : KeepsContexts s w := ⟨h'.ctxs.trans h.ctxs, h'.cores.trans h.cores⟩

theorem ite {c : Prop} [Decidable c] (h : KeepsContexts s r) (h' : KeepsContexts s w) : KeepsContexts s (if c then r else w) := by
  split_ifs
  · exact h
  · exact h'

theorem foldl {α : Type} {g : State → α → State} (hg : ∀ s a, KeepsContexts s (g s a)) (l : List α) (s : State) :
    KeepsContexts s (l.foldl g s) := by
  induction l generalizing s with
  | nil => exact refl s
  | cons a l ih => exact (hg s a).trans (ih _)

theorem putDram (s : State) (t a : Nat) (b : Byte) : KeepsContexts s (putDram s t a b) := by
  unfold Machine.putDram
  split
  · exact refl s
  · dsimp only
    split_ifs <;> exact ⟨rfl, rfl⟩

theorem wrBytes (s : State) (t a : Nat) (bs : List Byte) : KeepsContexts s (wrBytes s t a bs) := by
  induction bs generalizing s a with
  | nil => exact refl s
  | cons b bs ih =>
    refine trans ?_ (ih _ _)
    exact ite ⟨rfl, rfl⟩ (putDram s t a b)

theorem wrLocal (h : KeepsContexts s r) (t a : Nat) (bs : List Byte) : KeepsContexts s (wrLocal r t a bs) := by
  have hbytes := h.trans (wrBytes r t a bs)
  exact ite ⟨hbytes.ctxs, hbytes.cores⟩ hbytes

theorem countVelvet (h : KeepsContexts s r) (j : Nat) (mag : Int) (unf ovf edge : Nat) (pend : Bool) :
    KeepsContexts s (countVelvet r j mag unf ovf edge pend) :=
  h.trans ⟨State.setVelvet_ctxs _ _ _, State.setVelvet_cores _ _ _⟩

theorem markStep (h : KeepsContexts s r) (step : Option Nat) (j : Nat) (ovf : Bool) : KeepsContexts s (markStep r step j ovf) := by
  unfold Machine.markStep
  split
  · exact ite ⟨h.ctxs, h.cores⟩ ⟨h.ctxs, h.cores⟩
  · exact h

theorem onOp (h : KeepsContexts s r) (t : Nat) (g : Op → Op) : KeepsContexts s (r.onOp t g) := by
  unfold State.onOp
  split
  · exact ⟨h.ctxs, h.cores⟩
  · exact h

theorem noteOp (h : KeepsContexts s r) (t count : Nat) (mag : Int) (ovf vp ovfBlock : Bool) (v : Option (Nat × Nat × Nat)) :
    KeepsContexts s (noteOp r t count mag ovf vp ovfBlock v) := h.onOp t _

theorem noteWide (h : KeepsContexts s r) (w : WideNote) : KeepsContexts s (noteWide r w) := ⟨h.ctxs, h.cores⟩

theorem putBlockW (s : State) (t ri : Nat) (r : Region) (b : Nat) (w : BlockW) (trap : Bool) : KeepsContexts s (putBlockW s t ri r b w trap) :=
  ((((((refl s).wrLocal _ _ _).wrLocal _ _ _).countVelvet _ _ _ _ _ _).markStep _ _ _).noteOp _ _ _ _ _ _ _)

theorem putG32 (s : State) (t : Nat) (r : Region) (b : Nat) (vals : List Num) (force : Bool) : KeepsContexts s (putG32 s t r b vals force) :=
  ((((refl s).wrLocal _ _ _).countVelvet _ _ _ _ _ _).markStep _ _ _).noteOp _ _ _ _ _ _ _

theorem putA32 (s : State) (t : Nat) (r : Region) (b : Nat) (vals : List Num) (force : Bool) : KeepsContexts s (putA32 s t r b vals force) :=
  (((((refl s).wrLocal _ _ _).wrLocal _ _ _).countVelvet _ _ _ _ _ _).markStep _ _ _).noteOp _ _ _ _ _ _ _

theorem vecBlock (s : State) (t ri : Nat) (r : Region) (b : Nat) (vals : List Num) (force : Bool) :
    KeepsContexts s (vecBlock s t ri r b vals force) :=
  ite (putBlockW ..) (ite (putG32 ..) (putA32 ..))

theorem vecBlocks (s : State) (e : VEnv) (ri : Nat) (r : Region) (base : Nat) (q : VReg) (first vl n : Nat) :
    KeepsContexts s (vecBlocks s e ri r base q first vl n) := foldl (fun _ _ => vecBlock ..) _ s

theorem wideStore (s : State) (e : VEnv) (f : VecF) (r : Region) (base : Nat) : KeepsContexts s (wideStore s e f r base) :=
  (((refl s).wrLocal _ _ _).noteWide _).noteOp _ _ _ _ _ _ _

theorem keepCount (h : KeepsContexts s r) (e : VEnv) : KeepsContexts s (keepCount e r) := ite (h.onOp _ _) h

theorem vecStore (s : State) (e : VEnv) (f : VecF) : KeepsContexts s (vecStore s e f) := by
  unfold Machine.vecStore
  split
  · exact refl s
  · exact ite ((wideStore ..).keepCount e) ((vecBlocks ..).keepCount e)

theorem tileStore (s : State) (e : VEnv) (f : VecF) : KeepsContexts s (tileStore s e f) := by
  unfold Machine.tileStore
  split
  · exact refl s
  · exact (foldl (fun _ _ => vecBlocks ..) _ s).keepCount e

end KeepsContexts

/-! ### What is stored and loaded (R249) -/

section

variable {s : State} {e : VEnv} {f : VecF} {r : Region}

theorem wideFmt_iff : wideFmt r.fmt = true ↔ r.fmt = fWIDE ∨ r.fmt = fPAIR := by
  simp only [wideFmt, Bool.or_eq_true, decide_eq_true_eq]

/-- The blocks of a register from its element 0 on: those at or above vl are stored as zeros. -/
theorem vecBlocks_register (ri base : Nat) (q : VReg) (vl n : Nat) : vecBlocks s e ri r base q 0 vl n =
    (List.range n).foldl (fun s k =>
      let is := (List.range r.B).map (fun i => k * r.B + i)
      vecBlock s e.t ri r (base / r.B + k) (is.map (fun i => if i < vl then q.lane i else Num.zero))
        (is.any (fun i => decide (i < vl) && decide (i / 64 ∈ q.sat)))) s := by
  simp only [vecBlocks, Nat.zero_add, List.any_filter]

theorem vecStore_lanes (hr : e.reg f = some r) (hwide : r.fmt ≠ fWIDE) (hpair : r.fmt ≠ fPAIR) : vecStore s e f =
    keepCount e (vecBlocks s e (e.bind f).reg r (e.off f + 64 * vimm f).toNat (e.x.reg f.va.toNat) 0 e.x.vl (cdiv e.x.vl r.B)) := by
  have hlanes : ¬ wideFmt r.fmt = true := fun h => (wideFmt_iff.mp h).elim hwide hpair
  simp only [vecStore, hr, hlanes]
  rfl

theorem vecStore_wide (hr : e.reg f = some r) (hwide : r.fmt = fWIDE ∨ r.fmt = fPAIR) :
    vecStore s e f = keepCount e (wideStore s e f r (e.off f + 64 * vimm f).toNat) := by
  simp only [vecStore, hr, wideFmt_iff.mpr hwide, if_true]

theorem tileStore_eq (hr : e.reg f = some r) : tileStore s e f = keepCount e ((List.range 64).foldl (fun s (row : Nat) =>
    vecBlocks s e (e.bind f).reg r (e.off f + 64 * vimm f * (row : Int)).toNat (e.x.tile f.va.toNat) (64 * row) 64 (64 / r.B)) s) := by
  simp only [tileStore, hr]

theorem vecLoad_lanes (hr : e.reg f = some r) (hwide : r.fmt ≠ fWIDE) (hpair : r.fmt ≠ fPAIR) :
    let val := fun i => elemVal s r (coarseOf s e.o.step r) ((e.off f + 64 * vimm f).toNat + i)
    vecLoad s e f = e.lanes f val (fun g => readExp ((List.range (Nat.min 64 (e.x.vl - 64 * g))).map (fun k => val (64 * g + k)))) := by
  have hlanes : ¬ wideFmt r.fmt = true := fun h => (wideFmt_iff.mp h).elim hwide hpair
  simp only [vecLoad, hr, hlanes]
  rfl

theorem vecLoad_wide (hr : e.reg f = some r) (hwide : r.fmt = fWIDE ∨ r.fmt = fPAIR) :
    vecLoad s e f = wideLoad s e f r (e.off f + 64 * vimm f).toNat := by
  simp only [vecLoad, hr, wideFmt_iff.mpr hwide, if_true]

/-- A wide number is 8 bytes of the store (R83). -/
theorem wideLoad_number (h : r.fmt = fWIDE) (base : Nat) : wideLoad s e f r base =
    e.x.putWide f.vd.toNat ((e.actives f).map (fun i => (i, leNat (rdLocal s (r.base + 8 * (base + i)) 8)))) := by
  simp only [wideLoad, wideAt, h]
  rfl

/-- A pair is 16 bytes of the store, hi before lo (R85). -/
theorem wideLoad_pair (h : r.fmt = fPAIR) (base : Nat) : wideLoad s e f r base =
    (e.x.putWide f.vd.toNat ((e.actives f).map (fun i => (i, leNat (rdLocal s (r.base + 16 * (base + i)) 8))))).putWide (f.vd.toNat + 2)
      ((e.actives f).map (fun i => (i, leNat (rdLocal s (r.base + 16 * (base + i) + 8) 8)))) := by
  simp only [wideLoad, wideAt, h, if_true]
  rfl

theorem tileLoad_eq (hr : e.reg f = some r) : tileLoad s e f =
    e.x.setTile f.vd.toNat ((List.range 64).foldl (fun (q : VReg) (row : Nat) =>
      let vals := (List.range 64).map (fun c => elemVal s r (coarseOf s e.o.step r) ((e.off f + 64 * vimm f * (row : Int)).toNat + c))
      q.putGroup row (readExp vals) vals) VReg.zero) := by
  simp only [tileLoad, hr, elemVals]

end

/-! ### Moves within the registers and tiles (R255) -/

section

variable {e : VEnv} {f : VecF}

/-- The operation that FN of TOP names. -/
def tileOp (k : Nat) : Num → Num → Num := fun a b =>
  if k = 0 then Num.add a b else if k = 1 then Num.sub a b else if k = 2 then Num.mul a b else if k = 3 then Num.max a b else Num.min a b

theorem tileOp_eq {k : Nat} {g : Num → Num → Num} (h : (k, g) ∈ [(0, Num.add), (1, Num.sub), (2, Num.mul), (3, Num.max), (4, Num.min)]) :
    tileOp k = g := by
  simp only [List.mem_cons, Prod.mk.injEq, List.not_mem_nil, or_false] at h
  rcases h with ⟨rfl, rfl⟩ | ⟨rfl, rfl⟩ | ⟨rfl, rfl⟩ | ⟨rfl, rfl⟩ | ⟨rfl, rfl⟩ <;> rfl

/-- TOP combines a tile with the second operand that FN selects, b, whose rows have the exponents eb. -/
theorem tileBin_eq : tileBin e f =
    let ta := e.x.tile f.va.toNat
    let tb := e.x.tile f.vb.toNat
    let vb := e.x.reg f.vb.toNat
    let src := f.fn.toNat / 16
    let b := fun r c => if src = 0 then tb.lane (64 * r + c) else if src = 1 then vb.lane r else vb.lane c
    let eb := fun r => if src = 0 then tb.exp r else vb.exp 0
    e.x.setTile f.vd.toNat (tileOf (fun r c => tileOp (f.fn.toNat % 8) (ta.lane (64 * r + c)) (b r c))
      (fun r => if f.fn.toNat % 8 = 2 then ta.exp r + eb r else min (ta.exp r) (eb r))) := rfl

theorem tileGet_row (hfn : f.fn = 0) :
    let ta := e.x.tile f.va.toNat
    let k := (vimm f).toNat % 64
    tileGet e f = e.x.setReg f.vd.toNat ((e.x.reg f.vd.toNat).putGroup 0 (ta.exp k) ((List.range 64).map (fun i => ta.lane (64 * k + i)))) := by
  simp only [tileGet, hfn]
  rfl

theorem tileGet_column (hfn : f.fn = 1) :
    let ta := e.x.tile f.va.toNat
    let k := (vimm f).toNat % 64
    tileGet e f = e.x.setReg f.vd.toNat ((e.x.reg f.vd.toNat).putGroup 0 (minExp ta 4096) ((List.range 64).map (fun i => ta.lane (64 * i + k)))) := by
  simp only [tileGet, hfn]
  rfl

theorem tilePut_row (hfn : f.fn = 0) :
    let td := e.x.tile f.vd.toNat
    let va := e.x.reg f.va.toNat
    let k := (vimm f).toNat % 64
    tilePut e f = e.x.setTile f.vd.toNat (td.putGroup k (va.exp 0) ((List.range 64).map (fun i => va.lane i))) := by
  simp only [tilePut, hfn]
  rfl

theorem vecPermute_eq : (vecPermute e f).1 =
    e.lanes f (fun i => match Num.trunc ((e.x.reg f.vb.toNat).lane i) with
      | some j => if 0 ≤ j ∧ j < e.x.vl then (e.x.reg f.va.toNat).lane j.toNat else Num.zero
      | none => Num.zero) (fun _ => minExp (e.x.reg f.va.toNat) e.x.vl) := by
  refine congrArg (e.lanes f · _) (funext fun i => ?_)
  unfold permIdx
  cases Num.trunc ((e.x.reg f.vb.toNat).lane i) with
  | none => rfl
  | some j => by_cases hin : 0 ≤ j ∧ j < e.x.vl <;> simp only [hin] <;> rfl

/-- An index of VPRM that names an element below vl (R255). -/
theorem permIdx_isSome_iff (i : Nat) : (permIdx e f i).isSome = true ↔
    ∃ j : Int, Num.trunc ((e.x.reg f.vb.toNat).lane i) = some j ∧ 0 ≤ j ∧ j < e.x.vl := by
  unfold permIdx
  split
  · rename_i j hj
    by_cases hin : 0 ≤ j ∧ j < e.x.vl <;> simp [hj, hin]
  · rename_i hnone
    simp [hnone]

/-- An active element below vl of VPRM names an index out of range. -/
theorem vecPermute_outside_iff : (vecPermute e f).2 = true ↔ ∃ i, i < e.x.vl ∧ e.x.active f i = true ∧
    ¬ ∃ j : Int, Num.trunc ((e.x.reg f.vb.toNat).lane i) = some j ∧ 0 ≤ j ∧ j < e.x.vl := by
  simp only [vecPermute, List.any_eq_true, List.mem_range, Bool.and_eq_true, ← permIdx_isSome_iff, Option.isNone_iff_eq_none,
    Option.isSome_iff_ne_none, not_not]

end

/-- Settles O36: a load or a tile move is `vecLeaves_lane` of the context that its own lemma gives, and a store keeps the contexts and the cores by
`KeepsContexts`. -/
theorem vectorLoadsStoresAndTiles : Obligations.VectorLoadsStoresAndTiles := by
  intro x f e s L va ta td k
  refine ⟨fun r h hr => ?_, fun r h hr hwide hpair => ?_, fun r h hr hwide => ?_, fun r h hr => ?_, fun r h hr => ?_, fun h => ?_,
    fun h op hop => ?_, fun h => ⟨fun hfn => ?_, fun hfn => ?_⟩, fun h => ⟨fun hfn => ?_, fun hfn => ?_⟩, fun h => ?_⟩
  · intro base val is
    have hload : ∀ {c}, vecLoad s e f = c → L (.vld x f) c := fun hc => vecLeaves_lane rfl h (congrArg (setCtx s e.n) hc)
    exact ⟨fun hwide hpair => hload (vecLoad_lanes hr hwide hpair),
      fun hwide => hload ((vecLoad_wide hr (.inl hwide)).trans (wideLoad_number hwide _)),
      fun hpair => hload ((vecLoad_wide hr (.inr hpair)).trans (wideLoad_pair hpair _))⟩
  · intro base
    have hkeeps := KeepsContexts.vecStore s e f
    exact ⟨_, vecLeaves_lane rfl h rfl, hkeeps.ctxs, hkeeps.cores,
      (vecStore_lanes hr hwide hpair).trans (congrArg (keepCount e) (vecBlocks_register _ _ _ _ _))⟩
  · have hkeeps := KeepsContexts.vecStore s e f
    exact ⟨_, vecLeaves_lane rfl h rfl, vecStore_wide hr hwide, hkeeps.ctxs, hkeeps.cores⟩
  · exact vecLeaves_lane rfl h (congrArg (setCtx s e.n) (tileLoad_eq hr))
  · have hkeeps := KeepsContexts.tileStore s e f
    exact ⟨_, vecLeaves_lane rfl h rfl, hkeeps.ctxs, hkeeps.cores, tileStore_eq hr⟩
  · exact vecLeaves_lane rfl h rfl
  · intro tb vb ex
    have htop : ∀ {c}, tileBin e f = c → L (.top x f) c := fun hc => vecLeaves_lane rfl h (congrArg (setCtx s e.n) hc)
    rw [← tileOp_eq hop]
    refine ⟨fun hsrc => htop ?_, fun hsrc => htop ?_, fun hsrc => htop ?_⟩
    all_goals
      simp only [tileBin_eq, hsrc]
      rfl
  · exact vecLeaves_lane rfl h (congrArg (setCtx s e.n) (tileGet_row hfn))
  · exact vecLeaves_lane rfl h (congrArg (setCtx s e.n) (tileGet_column hfn))
  · exact vecLeaves_lane rfl h (congrArg (setCtx s e.n) (tilePut_row hfn))
  · exact vecLeaves_lane rfl h (congrArg (setCtx s e.n) (if_pos hfn))
  · intro inRange c
    have hc : (vecPermute e f).1 = c := vecPermute_eq
    rw [← hc]
    refine ⟨fun hin => vecLeaves_lane rfl h (if_neg ?_), fun hout => vecLeaves_lane rfl h (if_pos (vecPermute_outside_iff.mpr hout))⟩
    rw [vecPermute_outside_iff]
    rintro ⟨i, hlt, hactive, hout⟩
    exact hout (hin i hlt hactive)

end Sys2Proof.Machine

/-!
What every step keeps (log entries 6, 25 and 52): `settle` ends each command and each tick, so the queue loses its front command alone, and TPPEAK
covers TPUSE.
-/

namespace Sys2Proof.Machine

/-! ### The queue -/

/-- Settles O5: a step settles what it does over the queue without its front command. -/
theorem queueIsFirstInFirstOut : Obligations.QueueIsFirstInFirstOut := by
  intro s t h
  obtain ⟨s', r, rfl, hq⟩ := step_commit h
  rw [State.settle_pending, hq]

/-! ### The transit pool (R299, Table 11-11) -/

/-- TPUSE counts what waits in the pool, and neither the peak nor the queue of commands. -/
@[simp] theorem tpuse_settle (s r : State) : tpuse (settle s r) = tpuse r := rfl

theorem tppeak_settle (s r : State) : (settle s r).units.tppeak = Nat.max r.units.tppeak (tpuse r) := rfl

/-- The end of a command brings the peak up to the use, whatever the command did to either. -/
theorem peakInv_settle (s r : State) : PeakInv (settle s r) := by
  rw [PeakInv, tpuse_settle, tppeak_settle]
  exact Nat.le_max_right _ _

theorem step_peakInv {s t : State} (h : step s = .next t) : PeakInv t := by
  obtain ⟨s', r, rfl, -⟩ := step_commit h
  exact peakInv_settle s' r

/-- Settles O6: a step ends in `settle`, which sees to the peak. -/
theorem transitPeakCoversUse : Obligations.TransitPeakCoversUse :=
  fun _ _ _ h => step_peakInv h

/-- Nothing waits in the transit pool after reset. -/
theorem tpuse_reset : tpuse State.reset = 0 := by decide

/-- Settles O7: the use after reset is zero, which every peak covers. -/
theorem transitPeakAtReset : Obligations.TransitPeakAtReset := by
  refine ⟨?_, tpuse_reset⟩
  rw [PeakInv, tpuse_reset]
  exact Nat.zero_le _

end Sys2Proof.Machine

/-!
The stream commands as writes of STRMCMD (R310, R314, Table 11-15), and ENABLE, DRAIN and ABORT as writes of FNCTL (R445, Table 16-11).
-/

namespace Sys2Proof.Machine

/-! ### Words that a write gives field by field -/

theorem fld_ofNat {v : Nat} (hi lo : Nat) (h : v < 2 ^ 64) : fld (BitVec.ofNat 64 v) hi lo = bits v hi lo := by
  rw [fld, BitVec.toNat_ofNat, Nat.mod_eq_of_lt h]

/-- A field that is given the value it has leaves the word. -/
theorem setFld_fld (w : W64) (hi lo : Nat) : setFld w hi lo (fld w hi lo) = w := by
  have hle : bits w.toNat hi lo * 2 ^ lo ≤ w.toNat :=
    (Nat.mul_le_mul_right _ (Nat.mod_le _ _)).trans (Nat.div_mul_le_self _ _)
  have hmod : bits w.toNat hi lo % 2 ^ (hi + 1 - lo) = bits w.toNat hi lo := Nat.mod_mod _ _
  rw [setFld, setBits, fld, hmod, Nat.sub_add_cancel hle, BitVec.ofNat_toNat, BitVec.setWidth_eq]

/-- A field that admits the value written takes it (R16, R17). -/
theorem writeRW_cons_ok (old raw : W64) {r : RW} (fs : List RW) (h : r.ok (fld raw r.hi r.lo) = true) :
    writeRW old raw (r :: fs) = writeRW (setFld old r.hi r.lo (fld raw r.hi r.lo)) raw fs := by
  simp only [writeRW, List.foldl_cons, h, if_true]

/-- A write that gives no field a reserved encoding (R16, R17). -/
theorem writeRW_of_ok {old raw : W64} {fs : List RW} (h : ∀ r ∈ fs, r.ok (fld raw r.hi r.lo) = true) :
    writeRW old raw fs = (fs.foldl (fun w r => setFld w r.hi r.lo (fld raw r.hi r.lo)) old, false) := by
  induction fs generalizing old with
  | nil => rfl
  | cons r fs ih =>
    rw [writeRW_cons_ok old raw fs (h r List.mem_cons_self), ih fun q hq => h q (List.mem_cons_of_mem r hq), List.foldl_cons]

/-- A fold over numbers of which only `k` does anything, before its turn and after it. -/
theorem foldl_range_of_only {α : Type} {g : α → Nat → α} {a : α} {n k : Nat} (hk : k < n)
    (hbefore : ∀ i < n, i ≠ k → g a i = a) (hafter : ∀ i < n, i ≠ k → g (g a k) i = g a k) : (List.range n).foldl g a = g a k := by
  have hall : ∀ m ≤ n, (List.range m).foldl g a = if k < m then g a k else a := by
    intro m
    induction m with
    | zero => exact fun _ => rfl
    | succ m ih =>
      intro hm
      rw [List.range_succ, List.foldl_append, ih (by omega), List.foldl_cons, List.foldl_nil]
      rcases lt_trichotomy k m with hlt | rfl | hgt
      · rw [if_pos hlt, if_pos (by omega), hafter m hm (by omega)]
      · rw [if_neg (lt_irrefl k), if_pos (Nat.lt_succ_self k)]
      · rw [if_neg (by omega), if_neg (by omega), hbefore m hm (by omega)]
  rw [hall n le_rfl, if_pos hk]

/-! ### STRMCMD -/

section

variable (s : State)

theorem csrWrite_strmcmd (mask v : Nat) : csrWrite s (bSCHED + 0x510) mask v = writeStrmcmd s mask v :=
  csrWrite_sched s mask v (by decide)

/-- While a command runs, a write of STRMCMD is ignored and logged (Table 11-15). -/
theorem writeStrmcmd_running (mask v : Nat) (h : flag s.sched.strmcmd 63 = true) :
    writeStrmcmd s mask v = addLog s 4 6 0xFFFF (csrBase + (bSCHED + 0x510)) := if_pos h

/-- The fields of a number that the stream commands write to STRMCMD: stream, operation and image (Table 11-15). -/
theorem strmcmd_fields {st op im : Nat} (hst : st < 2 ^ 20) (hop : op ≤ 2) (him : im < 2 ^ 24) :
    let w := BitVec.ofNat 64 (st + op * 2 ^ 20 + im * 2 ^ 24)
    fld w 19 0 = st ∧ fld w 21 20 = op ∧ fld w 47 24 = im := by
  have hv : st + op * 2 ^ 20 + im * 2 ^ 24 < 2 ^ 64 := by omega
  refine ⟨?_, ?_, ?_⟩
  all_goals
    rw [fld_ofNat _ _ hv, bits]
    omega

/-- With no command running, a write with an operation of Table 11-15 puts its fields into STRMCMD and runs it. -/
theorem writeStrmcmd_idle {st op im : Nat} (hidle : flag s.sched.strmcmd 63 = false) (hst : st < 2 ^ 20) (hop : op ≤ 2) (him : im < 2 ^ 24) :
    writeStrmcmd s (2 ^ 64 - 1) (BitVec.ofNat 64 (st + op * 2 ^ 20 + im * 2 ^ 24)).toNat
      = runStrmcmd { s with sched := { s.sched with strmcmd := setFld (setFld (setFld s.sched.strmcmd 19 0 st) 21 20 op) 47 24 im } } := by
  obtain ⟨hfst, hfop, hfim⟩ := strmcmd_fields hst hop him
  have hok : (⟨21, 20, 0, 2⟩ : RW).ok (fld (BitVec.ofNat 64 (st + op * 2 ^ 20 + im * 2 ^ 24)) 21 20) = true := by
    rw [hfop, RW.ok, decide_eq_true (Nat.zero_le op), decide_eq_true hop, Bool.and_self]
  rw [writeStrmcmd, if_neg (ne_true_of_eq_false hidle), mergeHalf_full, writeRW_anyRW_cons, writeRW_cons_ok _ _ _ hok, writeRW_anyRW_cons,
    writeRW_nil, hfst, hfop, hfim]
  rfl

/-- The commands that write STRMCMD for a stream, each with its operation and its image (R310, R314). -/
def streamCommands (st : StreamId) (img : BitVec 24) : List (Instr × Nat × Nat) :=
  [(.streamOpen st img, 0, img.toNat), (.streamClose st, 1, 0), (.streamReconfigure st img, 2, img.toNat)]

/-- A stream command is the 8-byte write of STRMCMD with its number, operation and image. -/
theorem exec_streamCommand {st : StreamId} {img : BitVec 24} {i : Instr} {op im : Nat}
    (hi : (i, op, im) ∈ streamCommands st img) :
    exec i s = commit s (csrWrite8 s (bSCHED + 0x510) (BitVec.ofNat 64 (st.toNat + op * 2 ^ 20 + im * 2 ^ 24)).toNat) ∧ op ≤ 2 ∧ im < 2 ^ 24 := by
  have hst := st.isLt
  have him := img.isLt
  simp only [streamCommands, List.mem_cons, List.not_mem_nil, or_false, Prod.mk.injEq] at hi
  obtain ⟨rfl, rfl, rfl⟩ | ⟨rfl, rfl, rfl⟩ | ⟨rfl, rfl, rfl⟩ := hi
  all_goals
    refine ⟨?_, by decide, by omega⟩
    rw [BitVec.toNat_ofNat, Nat.mod_eq_of_lt (by omega)]
  · rw [Nat.zero_mul, Nat.add_zero]
    rfl
  · rw [Nat.zero_mul, Nat.add_zero, Nat.one_mul]
    rfl
  · rfl

/-! ### FNCTL -/

theorem csrWrite_fnctl (mask v : Nat) : csrWrite s (bSCHED + 0xC00) mask v = writeFnctl s mask v :=
  csrWrite_sched s mask v (by decide)

/-- The fields of the eight functions in FNCTL (Table 16-11). -/
def fnctlFields : List RW := (List.range 8).map (fun f => { hi := 2 * f + 1, lo := 2 * f, lowest := 0, highest := 2 })

variable {s} {f c : Nat}

theorem fld_fnctl_same (w : W64) (hf : f < 8) (hc : c ≤ 2) : fld (setFld w (2 * f + 1) (2 * f) c) (2 * f + 1) (2 * f) = c := by
  rw [fld_setFld_same c (by omega) (by omega), show 2 * f + 1 + 1 - 2 * f = 2 by omega]
  exact Nat.mod_eq_of_lt (by omega)

theorem fld_fnctl_ne (w : W64) {g : Nat} (hg : g < 8) (h : g ≠ f) :
    fld (setFld w (2 * f + 1) (2 * f) c) (2 * g + 1) (2 * g) = fld w (2 * g + 1) (2 * g) :=
  fld_setFld_disjoint c (by omega) (by omega) (by omega)

/-- Every field of FNCTL holds a command of Table 16-11 after a write of one that it names. -/
theorem fld_fnctl_le {w : W64} (hw : ∀ g < 8, fld w (2 * g + 1) (2 * g) ≤ 2) (hf : f < 8) (hc : c ≤ 2) {g : Nat} (hg : g < 8) :
    fld (setFld w (2 * f + 1) (2 * f) c) (2 * g + 1) (2 * g) ≤ 2 := by
  by_cases h : g = f
  · rw [h, fld_fnctl_same w hf hc]
    exact hc
  · rw [fld_fnctl_ne w hg h]
    exact hw g hg

/-- A write that changes one function's field, to a command that Table 16-11 names, leaves FNCTL as written. -/
theorem writeRW_fnctl {w : W64} (hw : ∀ g < 8, fld w (2 * g + 1) (2 * g) ≤ 2) (hf : f < 8) (hc : c ≤ 2) :
    writeRW w (setFld w (2 * f + 1) (2 * f) c) fnctlFields = (setFld w (2 * f + 1) (2 * f) c, false) := by
  have hok : ∀ r ∈ fnctlFields, r.ok (fld (setFld w (2 * f + 1) (2 * f) c) r.hi r.lo) = true := by
    intro r hr
    obtain ⟨g, hg, rfl⟩ := List.mem_map.mp hr
    rw [RW.ok, decide_eq_true (Nat.zero_le _), decide_eq_true (fld_fnctl_le hw hf hc (List.mem_range.mp hg)), Bool.and_self]
  rw [writeRW_of_ok hok, fnctlFields, List.foldl_map, foldl_range_of_only hf]
  · rw [fld_fnctl_same w hf hc]
  · intro g hg h
    rw [fld_fnctl_ne w hg h, setFld_fld]
  · intro g hg h
    rw [fld_fnctl_same w hf hc, setFld_fld]

/-- The function whose field changes gets its command, and no other gets one (Table 16-11). -/
theorem writeFnctl_field (hw : ∀ g < 8, fld s.sched.fnctl (2 * g + 1) (2 * g) ≤ 2) (hf : f < 8) (hc : c ≤ 2) :
    let w := setFld s.sched.fnctl (2 * f + 1) (2 * f) c
    let s1 := { s with sched := { s.sched with fnctl := w } }
    writeFnctl s (2 ^ 64 - 1) w.toNat = applyPolicies (if fld s.sched.fnctl (2 * f + 1) (2 * f) ≠ c then fnCommand s1 f c else s1) := by
  intro w s1
  have hwrite : writeRW s.sched.fnctl (mergeHalf s.sched.fnctl (2 ^ 64 - 1) w.toNat) fnctlFields = (w, false) := by
    rw [mergeHalf_full, writeRW_fnctl hw hf hc]
  have hother : ∀ (t : State) (g : Nat), g < 8 → g ≠ f →
      (if fld w (2 * g + 1) (2 * g) ≠ fld s.sched.fnctl (2 * g + 1) (2 * g) then fnCommand t g (fld w (2 * g + 1) (2 * g)) else t) = t :=
    fun t g hg h => if_neg (not_not_intro (fld_fnctl_ne _ hg h))
  unfold fnctlFields at hwrite
  simp only [writeFnctl, hwrite]
  rw [foldl_range_of_only hf (fun g hg h => hother _ g hg h) (fun g hg h => hother _ g hg h), fld_fnctl_same _ hf hc]
  simp only [ne_comm (a := c)]
  rfl

end

/-! ### The obligation -/

theorem streamCommand_running {st : StreamId} {img : BitVec 24} {s : State} {i : Instr} {op im : Nat} (hl : s.live = true)
    (hrun : flag s.sched.strmcmd 63 = true)
    (hi : (i, op, im) ∈ streamCommands st img) :
    Answers i s (addLog s 4 6 0xFFFF (csrBase + (bSCHED + 0x510))) :=
  answers_csrWrite8 (exec_streamCommand s hi).1 (csrReach_of_live hl _) ((csrWrite_strmcmd s _ _).trans (writeStrmcmd_running s _ _ hrun))

theorem streamCommand_idle {st : StreamId} {img : BitVec 24} {s : State} {i : Instr} {op im : Nat} (hl : s.live = true)
    (hidle : flag s.sched.strmcmd 63 = false)
    (hi : (i, op, im) ∈ streamCommands st img) :
    Answers i s (runStrmcmd { s with sched := { s.sched with
      strmcmd := setFld (setFld (setFld s.sched.strmcmd 19 0 st.toNat) 21 20 op) 47 24 im } }) := by
  obtain ⟨hx, hop, him⟩ := exec_streamCommand s hi
  exact answers_csrWrite8 hx (csrReach_of_live hl _) ((csrWrite_strmcmd s _ _).trans (writeStrmcmd_idle s hidle st.isLt hop him))

/-- ENABLE, DRAIN and ABORT write the field of their function in FNCTL. -/
theorem exec_functionCommand {f : Fin 8} {i : Instr} {c : Nat} (s : State)
    (hi : (i, c) ∈ [(Instr.enable f, 0), (Instr.drain f, 1), (Instr.abort f, 2)]) :
    exec i s = commit s (csrWrite8 s (bSCHED + 0xC00) (setFld s.sched.fnctl (2 * f.val + 1) (2 * f.val) c).toNat) ∧ c ≤ 2 := by
  simp only [List.mem_cons, List.not_mem_nil, or_false, Prod.mk.injEq] at hi
  obtain ⟨rfl, rfl⟩ | ⟨rfl, rfl⟩ | ⟨rfl, rfl⟩ := hi
  · exact ⟨rfl, by decide⟩
  · exact ⟨rfl, by decide⟩
  · exact ⟨rfl, by decide⟩

/-- Settles O56: the stream commands are writes of STRMCMD, ignored while one runs, and the function commands writes of one field of FNCTL. -/
theorem streamAndFunctionCommands : Obligations.StreamAndFunctionCommands := by
  refine ⟨fun st img s hl => ⟨fun hrun => ?_, fun hidle i op im hi => streamCommand_idle hl hidle hi⟩, fun f s hl hw _ _ i c hi => ?_⟩
  · exact ⟨streamCommand_running hl hrun List.mem_cons_self,
      streamCommand_running (img := 0) hl hrun (List.mem_cons_of_mem _ List.mem_cons_self),
      streamCommand_running hl hrun (List.mem_cons_of_mem _ (List.mem_cons_of_mem _ List.mem_cons_self))⟩
  · obtain ⟨hx, hc⟩ := exec_functionCommand s hi
    have hle : ∀ g < 8, fld s.sched.fnctl (2 * g + 1) (2 * g) ≤ 2 := fun g hg => Nat.le_of_lt_succ (hw ⟨g, hg⟩)
    exact answers_csrWrite8 hx (csrReach_of_live hl _) ((csrWrite_fnctl s _ _).trans (writeFnctl_field hle f.isLt hc))

end Sys2Proof.Machine

/-!
The rows of the host ports (R315, R458, R460) and the ends of a stream's close and reconfigure (R313, R314).
-/

namespace Sys2Proof.Machine

/-! ### Messages of requesters -/

section

variable {s : State} {p : HostPort} {m : HostMsg}

/-- A message that arrives has the effect of its kind. -/
theorem hostArrive_of_arrives (h : Arrives s p m) (f : State → State) : hostArrive s p m f = f s := by
  obtain ⟨hup, hlen, hport⟩ := h
  rw [hostArrive, if_neg (not_not_intro hup), if_neg (not_or_intro (ne_true_of_eq_false hlen) (not_not_intro hport))]

/-- What a message's command answers when the message arrives. -/
theorem answers_of_arrives {i : Instr} {f : State → State} {r : State} (h : Arrives s p m) (hx : exec i s = commit s (hostArrive s p m f))
    (hr : f s = r) : Answers i s r := by
  rw [Answers, hx, hostArrive_of_arrives h, hr]
  rfl

/-- SOPEN as one function of the state: what opening from the image gives, and the SACK with its grant (R310, R460). -/
def sopenWork (n req tag : Nat) (img : List Byte) (s : State) : State :=
  let r := openStrm s n img 1 (some req)
  let win := if r.2 = 0 then (parseStrm img).win else 0
  let s1 := if r.2 = 0 then { r.1 with host := { r.1.host with icred := mput (fun _ => 0) r.1.host.icred n win } } else r.1
  sendHost s1 (hostMsg 0x84 req n 0 r.2 tag 0 win true [])

/-- An SOPEN with an image of 64 bytes opens from its payload. -/
theorem exec_sopen (hlen : m.payload.length = 64) : exec (.sopen p m) s
    = commit s (hostArrive s p m (sopenWork m.stream.toNat m.req.toNat m.tag.toNat m.payload)) := by
  have himg : (m.payload ++ List.replicate 64 0).take 64 = m.payload := List.take_left' hlen
  have hx : exec (.sopen p m) s = execSopen p m s := rfl
  rw [hx]
  simp only [execSopen, himg]
  rfl

theorem sopenWork_refused {n req tag : Nat} {img : List Byte} (h : (openStrm s n img 1 (some req)).2 ≠ 0) :
    sopenWork n req tag img s = sendHost (openStrm s n img 1 (some req)).1
      (hostMsg 0x84 req n 0 (openStrm s n img 1 (some req)).2 tag 0 0 true []) := by
  simp only [sopenWork, if_neg h]

theorem sopenWork_opened {n req tag : Nat} {img : List Byte} (h : (openStrm s n img 1 (some req)).2 = 0) :
    let o := (openStrm s n img 1 (some req)).1
    sopenWork n req tag img s = sendHost { o with host := { o.host with icred := mput (fun _ => 0) o.host.icred n (parseStrm img).win } }
      (hostMsg 0x84 req n 0 0 tag 0 (parseStrm img).win true []) := by
  simp only [sopenWork, h, if_true]

/-! ### Ports -/

theorem discardedHostMessage_logged (h : hostUp s p.toNat = true) : Answers (.discardedHostMessage p) s (hostRefuse s p.toNat 0 0) :=
  congrArg (commit s) (if_pos h)

/-- Credits given to each of `n` requesters from `b` on (R460). -/
theorem mget_grants (w : List (Nat × Nat)) (b n q : Nat) :
    mget (fun _ => 0) ((List.range n).foldl (fun m i => mput (fun _ => 0) m (b + i) 4) w) q
      = if b ≤ q ∧ q < b + n then 4 else mget (fun _ => 0) w q := by
  induction n with
  | zero =>
    rw [if_neg (by omega)]
    rfl
  | succ n ih =>
    rw [List.range_succ, List.foldl_append, List.foldl_cons, List.foldl_nil, mget_mput, ih]
    by_cases hq : q = b + n
    · rw [if_pos hq, if_pos (by omega)]
    · rw [if_neg hq]
      exact if_congr (by omega) rfl rfl

/-- A port's link state as it comes up (R440). -/
def HPort.cameUp (k : HPort) : HPort :=
  { k with up := true, training := false, resent := false, mods := if k.mods = 0 then 8 else k.mods }

/-- A port that comes up at bring-up, its 512 requesters with four write credits each (R440, R460). -/
def portCameUp (s : State) (p : Nat) : State :=
  let s1 := s.setHport p (s.hport p).cameUp
  { s1 with host := { s1.host with
    wextra := s1.host.wextra.filter (fun e => reqPort e.1 ≠ p)
    wcred := (List.range 512).foldl (fun m i => mput (fun _ => 0) m (512 * p + i) 4) s1.host.wcred } }

theorem hostLinkUp_bringUp (hl : s.live = true) (hph : s.phase = .up) (hpow : powered s .hostp = true) (hup : (s.hport p.toNat).up = false)
    (htr : (s.hport p.toNat).training = false) : Answers (.hostLinkUp p) s (portCameUp s p.toNat) := by
  have hgo : ¬ (¬ s.live ∨ ¬ powered s .hostp ∨ (s.hport p.toNat).up ∨ s.phase ≠ .up) := by
    simp [hl, hph, hpow, hup]
  exact congrArg (commit s) ((if_neg hgo).trans (if_neg (ne_true_of_eq_false htr)))

theorem ports_portCameUp (s : State) (p : Nat) : (portCameUp s p).host.ports = (s.setHport p (s.hport p).cameUp).host.ports := by
  simp only [portCameUp]

theorem hport_portCameUp (s : State) (p : Nat) : (portCameUp s p).hport p = (s.hport p).cameUp := by
  rw [State.hport, ports_portCameUp]
  exact State.hport_setHport_same s p _

theorem wcred_setHport (s : State) (p : Nat) (k : HPort) : (s.setHport p k).host.wcred = s.host.wcred := rfl

theorem wcred_portCameUp (s : State) (p q : Nat) : mget (fun _ => 0) (portCameUp s p).host.wcred q
    = if q / 512 = p then 4 else mget (fun _ => 0) s.host.wcred q := by
  have hport : 512 * p ≤ q ∧ q < 512 * p + 512 ↔ q / 512 = p := by omega
  rw [portCameUp, mget_grants, wcred_setHport]
  exact if_congr hport rfl rfl

end

/-! ### The end of a close or of a reconfigure (R314) -/

section

variable {s : State} {n : Nat} {k : Strm}

theorem aget_adel_same {κ α : Type} [DecidableEq κ] (m : List (κ × α)) (x : κ) : aget (adel m x) x = none := by
  induction m with
  | nil => rfl
  | cons e m ih =>
    obtain ⟨j, w⟩ := e
    by_cases h : j = x
    · simpa [adel, List.filter_cons, h] using ih
    · simpa [adel, List.filter_cons, h, aget] using ih

theorem closing_iff : k.closing = true ↔ k.cmd = 1 ∨ k.closers ≠ [] := by
  simp [Strm.closing]

/-- A stream with something in flight waits. -/
theorem strmFinish_busy (hk : s.strm n = some k) (h : k.infl ≠ 0 ∨ k.heldRecs ≠ []) : strmFinish s n = s := by
  rw [strmFinish, hk]
  exact if_pos h

/-- A close deletes the stream, ends the STRMCMD that waited for it, and answers the requesters that closed it. -/
theorem strmFinish_close (hk : s.strm n = some k) (hinfl : k.infl = 0) (hheld : k.heldRecs = []) (hc : k.closing = true) :
    strmFinish s n = k.closers.foldl (fun s e => sackClose s n e.2 e.1 0)
      (if k.cmd ≠ 0 then strmcmdDone { s with strms := adel s.strms n } 0 else { s with strms := adel s.strms n }) := by
  rw [strmFinish, hk]
  exact (if_neg (by simp [hinfl, hheld])).trans (if_pos hc)

/-- A reconfigure puts its image into the refilled descriptor and ends its STRMCMD. -/
theorem strmFinish_reconfigure {q : Strm} (hk : s.strm n = some k) (hinfl : k.infl = 0) (hheld : k.heldRecs = []) (hcmd : k.cmd = 2)
    (hclosers : k.closers = []) (hq : (refillStrm s n).strm n = some q) :
    strmFinish s n = strmcmdDone ((refillStrm s n).setStrm n (q.reconf k.img)) 0 := by
  have hopen : ¬ k.closing = true := by simp [Strm.closing, hcmd, hclosers]
  rw [strmFinish, hk]
  refine (if_neg (by simp [hinfl, hheld])).trans ((if_neg hopen).trans ((if_pos hcmd).trans ?_))
  simp only [hq]

/-- The SACKs of a close leave streams, registers, cores and memory. -/
theorem foldl_sackClose_leaves (l : List (Nat × Nat)) (s : State) (n : Nat) :
    let t := l.foldl (fun s e => sackClose s n e.2 e.1 0) s
    t.strms = s.strms ∧ t.sched = s.sched ∧ t.cores = s.cores ∧ t.store = s.store ∧ t.dram = s.dram := by
  induction l generalizing s with
  | nil => exact ⟨rfl, rfl, rfl, rfl, rfl⟩
  | cons e l ih => exact ih (sackClose s n e.2 e.1 0)

/-- The state with another word in STRMCMD: while the word is a variable, what else the state holds is read without a look at the word's bits. -/
def withStrmcmd (s : State) (w : W64) : State := { s with sched := { s.sched with strmcmd := w } }

theorem strmcmdDone_eq (s : State) (st : Nat) :
    strmcmdDone s st = withStrmcmd s (setFld (setFlag s.sched.strmcmd 63 false) 55 48 st) := rfl

theorem withStrmcmd_leaves (s : State) (w : W64) : (withStrmcmd s w).strms = s.strms ∧ (withStrmcmd s w).cores = s.cores
    ∧ (withStrmcmd s w).store = s.store ∧ (withStrmcmd s w).dram = s.dram := ⟨rfl, rfl, rfl, rfl⟩

theorem strmcmd_withStrmcmd (s : State) (w : W64) : (withStrmcmd s w).sched.strmcmd = w := rfl

/-- The end of STRMCMD leaves streams, cores and memory. -/
theorem strmcmdDone_leaves (s : State) (st : Nat) : (strmcmdDone s st).strms = s.strms ∧ (strmcmdDone s st).cores = s.cores
    ∧ (strmcmdDone s st).store = s.store ∧ (strmcmdDone s st).dram = s.dram := withStrmcmd_leaves s _

theorem strm_strmcmdDone (s : State) (st i : Nat) : (strmcmdDone s st).strm i = s.strm i := by
  rw [State.strm, (strmcmdDone_leaves s st).1, State.strm]

/-- STRMCMD that is done no longer runs. -/
theorem flag_strmcmdDone (s : State) (st : Nat) : flag (strmcmdDone s st).sched.strmcmd 63 = false := by
  rw [strmcmdDone_eq, strmcmd_withStrmcmd, flag_setFld_disjoint _ (by decide) (by decide) (by decide), flag_setFlag_same _ (by decide)]

/-- What a close that ends leaves: the stream is gone, a waiting STRMCMD is done, and cores and memory are as they were. -/
theorem strmFinish_close_leaves (hk : s.strm n = some k) (hinfl : k.infl = 0) (hheld : k.heldRecs = []) (hc : k.closing = true) :
    (strmFinish s n).strms = adel s.strms n ∧ (k.cmd ≠ 0 → flag (strmFinish s n).sched.strmcmd 63 = false)
      ∧ (strmFinish s n).cores = s.cores ∧ (strmFinish s n).store = s.store ∧ (strmFinish s n).dram = s.dram := by
  rw [strmFinish_close hk hinfl hheld hc]
  obtain ⟨hstrms, hsched, hcores, hstore, hdram⟩ := foldl_sackClose_leaves k.closers
    (if k.cmd ≠ 0 then strmcmdDone { s with strms := adel s.strms n } 0 else { s with strms := adel s.strms n }) n
  rw [hstrms, hsched, hcores, hstore, hdram]
  by_cases hcmd : k.cmd = 0
  · rw [if_neg (not_not_intro hcmd)]
    exact ⟨rfl, fun h => absurd hcmd h, rfl, rfl, rfl⟩
  · obtain ⟨hdstrms, hdcores, hdstore, hddram⟩ := strmcmdDone_leaves { s with strms := adel s.strms n } 0
    rw [if_pos hcmd]
    exact ⟨hdstrms, fun _ => flag_strmcmdDone _ 0, hdcores, hdstore, hddram⟩

/-! ### STREAM_CLOSE_COMPLETE -/

variable {st : StreamId}

/-- A stream that is still there after its finish keeps its credits. -/
theorem streamCloseComplete_open (hl : s.live = true) {r : State} (hr : strmFinish s st.toNat = r) (h : (r.strm st.toNat).isSome = true) :
    Answers (.streamCloseComplete st) s r := by
  subst hr
  refine congrArg (commit s) ((if_pos hl).trans (if_neg ?_))
  rintro ⟨-, hnone⟩
  rw [Option.isNone_iff_eq_none] at hnone
  simp [hnone] at h

/-- The state with no issue credits for stream n. -/
def withoutIcred (s : State) (n : Nat) : State :=
  { s with host := { s.host with icred := mput (fun _ => 0) s.host.icred n 0 } }

theorem icred_withoutIcred (s : State) (n : Nat) : mget (fun _ => 0) (withoutIcred s n).host.icred n = 0 :=
  mget_mput_same (fun _ => 0) s.host.icred n 0

/-- A stream that its finish deletes loses its issue credits. -/
theorem streamCloseComplete_closed (hl : s.live = true) (hk : s.strm st.toNat = some k) (h : (strmFinish s st.toNat).strm st.toNat = none) :
    Answers (.streamCloseComplete st) s (withoutIcred (strmFinish s st.toNat) st.toNat) :=
  congrArg (commit s) ((if_pos hl).trans (if_pos ⟨by rw [hk]; rfl, by rw [h]; rfl⟩))

theorem streamCloseComplete_busy (hl : s.live = true) (hk : s.strm st.toNat = some k) (h : k.infl ≠ 0 ∨ k.heldRecs ≠ []) :
    Answers (.streamCloseComplete st) s s :=
  streamCloseComplete_open hl (strmFinish_busy hk h) (by rw [hk]; rfl)

theorem streamCloseComplete_reconfigure {q : Strm} (hl : s.live = true) (hk : s.strm st.toNat = some k) (hinfl : k.infl = 0)
    (hheld : k.heldRecs = []) (hcmd : k.cmd = 2) (hclosers : k.closers = []) (hq : (refillStrm s st.toNat).strm st.toNat = some q) :
    Answers (.streamCloseComplete st) s (strmcmdDone ((refillStrm s st.toNat).setStrm st.toNat (q.reconf k.img)) 0) := by
  refine streamCloseComplete_open hl (strmFinish_reconfigure hk hinfl hheld hcmd hclosers hq) ?_
  rw [strm_strmcmdDone, State.strm_setStrm_same]
  rfl

theorem streamCloseComplete_close (hl : s.live = true) (hk : s.strm st.toNat = some k) (hinfl : k.infl = 0) (hheld : k.heldRecs = [])
    (hc : k.cmd = 1 ∨ k.closers ≠ []) : ∃ t, exec (.streamCloseComplete st) s = .next t
      ∧ t.strms = adel s.strms st.toNat ∧ mget (fun _ => 0) t.host.icred st.toNat = 0 ∧ (k.cmd ≠ 0 → flag t.sched.strmcmd 63 = false)
      ∧ t.cores = s.cores ∧ t.store = s.store ∧ t.dram = s.dram := by
  obtain ⟨hstrms, hcmd, hcores, hstore, hdram⟩ := strmFinish_close_leaves hk hinfl hheld (closing_iff.mpr hc)
  have hgone : (strmFinish s st.toNat).strm st.toNat = none := by
    rw [State.strm, hstrms, aget_adel_same]
  exact ⟨_, streamCloseComplete_closed hl hk hgone, hstrms, icred_withoutIcred _ _, hcmd, hcores, hstore, hdram⟩

end

/-- Settles O40: each message that arrives has the effect of its row, a port that comes up grants its credits, and a finished stream is one of the
three cases of `strmFinish`. -/
theorem hostWordsAndStreams : Obligations.HostWordsAndStreams := by
  refine ⟨fun p m s h => ?_, fun p s => ⟨discardedHostMessage_logged, fun hl hph hpow hup htr => ?_⟩, fun st k s hl hk => ?_⟩
  · refine ⟨answers_of_arrives h rfl rfl, answers_of_arrives h rfl rfl, answers_of_arrives h rfl rfl, fun hlen => ⟨fun ho => ?_, fun ho => ?_⟩⟩
    · exact answers_of_arrives h (exec_sopen hlen) (sopenWork_refused ho)
    · exact answers_of_arrives h (exec_sopen hlen) (sopenWork_opened ho)
  · refine ⟨_, hostLinkUp_bringUp hl hph hpow hup htr, congrArg HPort.up (hport_portCameUp s p.toNat), fun i hi => ?_, fun q hq => ?_⟩
    · exact (wcred_portCameUp s p.toNat _).trans (if_pos (by omega))
    · exact (wcred_portCameUp s p.toNat q).trans (if_neg hq)
  · exact ⟨congrArg (commit s) (if_pos hl), streamCloseComplete_busy hl hk,
      fun q hinfl hheld hcmd hclosers hq => streamCloseComplete_reconfigure hl hk hinfl hheld hcmd hclosers hq,
      streamCloseComplete_close hl hk⟩

end Sys2Proof.Machine

/-!
BUCKET_TRIGGER (R332, R333, R335): when a bucket starts to reduce, what its agree lap begins with, and what sending on the ring leaves.
-/

namespace Sys2Proof.Machine

/-! ### Armed steps and their buckets -/

section

variable {s : State} {n bi : Nat} {a : Armed} {b : Bucket}

theorem bucketOf_eq_some : bucketOf s n bi = some (a, b) ↔ armedOf s n = some a ∧ a.buckets.find? (fun k => k.idx = bi) = some b := by
  simp only [bucketOf, Option.bind_eq_some_iff, Option.map_eq_some_iff, Prod.mk.injEq]
  constructor
  · rintro ⟨_, ha, _, hb, rfl, rfl⟩
    exact ⟨ha, hb⟩
  · rintro ⟨ha, hb⟩
    exact ⟨a, ha, b, hb, rfl, rfl⟩

theorem step_of_bucketOf (h : bucketOf s n bi = some (a, b)) : a.step = n := by
  simpa using List.find?_some (bucketOf_eq_some.mp h).1

theorem bucketOf_congr {r : State} (h : r.armed = s.armed) (n bi : Nat) : bucketOf r n bi = bucketOf s n bi := by
  rw [bucketOf, bucketOf, armedOf, armedOf, h]

/-- A change where the test holds that leaves the test alone changes what a search finds. -/
theorem find?_map_ite {α : Type} (p : α → Bool) (f : α → α) (hf : ∀ x, p (f x) = p x) (l : List α) :
    (l.map (fun x => if p x then f x else x)).find? p = (l.find? p).map f := by
  induction l with
  | nil => rfl
  | cons x l ih => cases hx : p x <;> simp [hx, hf, ih]

theorem armedOf_onArmed (f : Armed → Armed) (hf : ∀ x, (f x).step = x.step) (s : State) (n : Nat) :
    armedOf (s.onArmed n f) n = (armedOf s n).map f := by
  have hfind := find?_map_ite (fun x : Armed => decide (x.step = n)) f (fun x => by rw [hf]) s.armed
  simp only [decide_eq_true_eq] at hfind
  exact hfind

theorem bucketOf_onArmed (h : bucketOf s n bi = some (a, b)) (f : Armed → Armed) (hstep : ∀ x, (f x).step = x.step)
    (hbuckets : (f a).buckets = a.buckets) : bucketOf (s.onArmed n f) n bi = some (f a, b) := by
  obtain ⟨ha, hb⟩ := bucketOf_eq_some.mp h
  refine bucketOf_eq_some.mpr ⟨?_, hbuckets ▸ hb⟩
  rw [armedOf_onArmed f hstep, ha]
  rfl

theorem bucketOf_onBucket (h : bucketOf s n bi = some (a, b)) (f : Bucket → Bucket) (hidx : ∀ k, (f k).idx = k.idx) :
    bucketOf (s.onBucket n bi f) n bi = some ({ a with buckets := a.buckets.map (fun k => if k.idx = bi then f k else k) }, f b) := by
  obtain ⟨ha, hb⟩ := bucketOf_eq_some.mp h
  refine bucketOf_eq_some.mpr ⟨?_, ?_⟩
  · exact (armedOf_onArmed (fun a => { a with buckets := a.buckets.map (fun k => if k.idx = bi then f k else k) }) (fun _ => rfl) s n).trans
      (congrArg (Option.map _) ha)
  · have hfind := find?_map_ite (fun k : Bucket => decide (k.idx = bi)) f (fun k => by rw [hidx]) a.buckets
    simp only [decide_eq_true_eq, hb] at hfind
    exact hfind

theorem onOp_armed (s : State) (t : Nat) (g : Op → Op) : (s.onOp t g).armed = s.armed := by
  unfold State.onOp
  split <;> rfl

theorem markStep_armed (s : State) (step : Option Nat) (j : Nat) (ovf : Bool) : (markStep s step j ovf).armed = s.armed := by
  unfold markStep
  split
  · split_ifs <;> rfl
  · rfl

/-- Which count the counter reaches matters to nothing here. -/
theorem bumpFab0_eq (s : State) (hi lo : Nat) : ∃ w, bumpFab0 s hi lo = { s with sched := { s.sched with fabcnt0 := w } } := ⟨_, rfl⟩

theorem depart_armed (s : State) (k : Packet) (from_ : Option Nat) (at_ : Nat) : (depart s k from_ at_).armed = s.armed := by
  unfold depart
  split_ifs
  · rfl
  · split
    · rfl
    · obtain ⟨w, hw⟩ := bumpFab0_eq s 47 32
      rw [hw]

theorem sendPacket_armed (s : State) (k : Packet) : (sendPacket s k).armed = s.armed := depart_armed s (finish k) none s.now

end

/-! ### Armings without a slot (R330) -/

/-- With no arming that waits, none takes a slot. -/
theorem seatPlans_of_seated {s : State} (h : ∀ x ∈ s.armed, x.wait = none) : seatPlans s = s := by
  refine List.foldl_fixed' (fun n => ?_) _
  have hwait : (armedOf s n).bind (fun a => a.wait) = none :=
    Option.bind_eq_none_iff.mpr fun a ha => h a (List.mem_of_find?_eq_some ha)
  rw [seatPlan, hwait]

/-! ### What the reduction leaves as it is -/

/-- The control cores, memory, the registers of the units and the ring packets held stand. -/
structure RingStands (s r : State) : Prop where
  cores : r.cores = s.cores
  store : r.store = s.store
  dram : r.dram = s.dram
  units : r.units = s.units
  rings : r.fab.rings = s.fab.rings

namespace RingStands

variable {s r w : State}

theorem refl (s : State) : RingStands s s := ⟨rfl, rfl, rfl, rfl, rfl⟩

theorem trans (h : RingStands s r) (h' : RingStands r w) : RingStands s w :=
  ⟨h'.cores.trans h.cores, h'.store.trans h.store, h'.dram.trans h.dram, h'.units.trans h.units, h'.rings.trans h.rings⟩

theorem onArmed (h : RingStands s r) (n : Nat) (f : Armed → Armed) : RingStands s (r.onArmed n f) := h.trans ⟨rfl, rfl, rfl, rfl, rfl⟩

theorem onBucket (h : RingStands s r) (n bi : Nat) (f : Bucket → Bucket) : RingStands s (r.onBucket n bi f) := h.onArmed n _

theorem onOp (h : RingStands s r) (t : Nat) (g : Op → Op) : RingStands s (r.onOp t g) := by
  unfold State.onOp
  split
  · exact h.trans ⟨rfl, rfl, rfl, rfl, rfl⟩
  · exact h

theorem markStep (h : RingStands s r) (step : Option Nat) (j : Nat) (ovf : Bool) : RingStands s (markStep r step j ovf) := by
  unfold Machine.markStep
  split
  · split_ifs <;> exact h.trans ⟨rfl, rfl, rfl, rfl, rfl⟩
  · exact h

theorem oregOverflow (h : RingStands s r) (a : Armed) (count : Nat) : RingStands s (oregOverflow r a count) := by
  unfold Machine.oregOverflow
  split_ifs
  · exact h
  · exact (h.markStep _ _ _).onArmed _ _

theorem depart (h : RingStands s r) (k : Packet) (from_ : Option Nat) (at_ : Nat) : RingStands s (depart r k from_ at_) := by
  unfold Machine.depart
  split_ifs
  · exact h
  · split
    · exact h.trans ⟨rfl, rfl, rfl, rfl, rfl⟩
    · obtain ⟨w, hw⟩ := bumpFab0_eq r 47 32
      rw [hw]
      exact h.trans ⟨rfl, rfl, rfl, rfl, rfl⟩

theorem sendPacket (h : RingStands s r) (k : Packet) : RingStands s (sendPacket r k) := h.depart (finish k) none r.now

theorem sendRing (h : RingStands s r) (a : Armed) (bi phase lap seg hop firsti : Nat) (es : Entries) :
    RingStands s (sendRing r a bi phase lap seg hop firsti es) :=
  List.foldlRecOn _ _ h fun _ hx _ _ => (hx.sendPacket _).onBucket _ _ _

theorem startLap (h : RingStands s r) (n bi : Nat) : RingStands s (startLap r n bi) := by
  unfold Machine.startLap
  split
  · exact h
  · dsimp only
    split_ifs
    · exact h.onBucket _ _ _
    · exact h
    · exact h.sendRing _ _ _ _ _ _ _ _

end RingStands

/-! ### The bucket while its packets are sent (R337, R349) -/

/-- Bucket bi of step n is b, but for the packets kept for a Bleat, and its armed step has READY and the Herd of a. -/
def LapStands (r : State) (n bi : Nat) (a : Armed) (b : Bucket) : Prop :=
  ∃ a' pk, bucketOf r n bi = some (a', { b with sentPk := pk }) ∧ a'.ready = a.ready ∧ a'.herd = a.herd

section

variable {s : State} {n bi : Nat} {a : Armed} {b : Bucket}

theorem lapStands_sendRing (h : LapStands s n bi a b) {q : Armed} (hq : q.step = n) (phase lap seg hop firsti : Nat) (es : Entries) :
    LapStands (sendRing s q bi phase lap seg hop firsti es) n bi a b := by
  unfold sendRing
  refine List.foldlRecOn (motive := fun r => LapStands r n bi a b) _ _ h fun x hx i _ => ?_
  obtain ⟨a', pk, hbucket, hready, hherd⟩ := hx
  subst hq
  exact ⟨_, _, bucketOf_onBucket ((bucketOf_congr (sendPacket_armed x _) _ _).trans hbucket) _ (fun _ => rfl), hready, hherd⟩

/-- In a Herd of several the start of a lap only sends. -/
theorem lapStands_startLap (h : bucketOf s n bi = some (a, b)) (hn : 1 < a.n) : LapStands (startLap s n bi) n bi a b := by
  have hstands : LapStands s n bi a b := ⟨a, b.sentPk, h, rfl, rfl⟩
  unfold startLap
  simp only [h, if_neg (Nat.not_le.mpr hn)]
  split_ifs
  · exact hstands
  · exact lapStands_sendRing hstands (step_of_bucketOf h) _ _ _ _ _ _

theorem advanceLaps_of_unfinished (h : bucketOf s n bi = some (a, b)) (hlap : lapDone b = false) (fuel : Nat) :
    advanceLaps s n bi fuel = s := by
  cases fuel with
  | zero => rfl
  | succ fuel => simp [advanceLaps, h, hlap]

theorem retryRings_of_nil (h : s.fab.rings = []) : retryRings s = s := by
  rw [retryRings, h]
  rfl

end

/-! ### The bucket as its agree lap finds it (R335, R337) -/

/-- The bucket in its agree lap, which holds the codes of its blocks and every block in its list. -/
def Bucket.begun (codes : List Int) (len : Nat) (b : Bucket) : Bucket :=
  { b with st := .reducing, codes := codes, lap := 0, items := (List.range len).map (fun t => (t, 0)), global := [] }

/-- The state with DRCNT at w. -/
def withDrcnt (z : State) (w : W64) : State := { z with units := { z.units with drcnt := w } }

theorem RingStands.of_withDrcnt {z r : State} {w : W64} (h : RingStands (withDrcnt z w) r) :
    r.units.drcnt = w ∧ r.cores = z.cores ∧ r.store = z.store ∧ r.dram = z.dram ∧ r.fab.rings = z.fab.rings :=
  ⟨congrArg Units.drcnt h.units, h.cores, h.store, h.dram, h.rings⟩

/-- DRCNT is w, the arming is running, and the bucket begins its agree lap; the counts and codes are left open, as nothing below looks into them. -/
def lapBegun (z : State) (a : Armed) (n bi : Nat) (w : W64) (inovf len : Nat) (codes : List Int) : State :=
  (((oregOverflow (withDrcnt z w) a inovf).onOp a.slot (fun p => { p with phase := .running })).onArmed n
    (fun x => { x with ready := true })).onBucket n bi (Bucket.begun codes len)

section

variable {z : State} {n bi : Nat} {a : Armed} {b : Bucket} (w : W64) (inovf len : Nat) (codes : List Int)

theorem ringStands_lapBegun : RingStands (withDrcnt z w) (lapBegun z a n bi w inovf len codes) :=
  ((((RingStands.refl _).oregOverflow _ _).onOp _ _).onArmed _ _).onBucket _ _ _

theorem bucketOf_oregOverflow (h : bucketOf z n bi = some (a, b)) (count : Nat) :
    ∃ a', bucketOf (oregOverflow z a count) n bi = some (a', b) ∧ a'.herd = a.herd := by
  unfold oregOverflow
  split_ifs
  · exact ⟨a, h, rfl⟩
  · have hstep := step_of_bucketOf h
    subst hstep
    exact ⟨_, bucketOf_onArmed ((bucketOf_congr (markStep_armed ..) _ _).trans h) _ (fun _ => rfl) rfl, rfl⟩

theorem bucketOf_lapBegun (h : bucketOf z n bi = some (a, b)) :
    ∃ a', bucketOf (lapBegun z a n bi w inovf len codes) n bi = some (a', b.begun codes len) ∧ a'.ready = true ∧ a'.herd = a.herd := by
  have hcounted : bucketOf (withDrcnt z w) n bi = some (a, b) := (bucketOf_congr rfl n bi).trans h
  obtain ⟨a1, h1, hherd⟩ := bucketOf_oregOverflow hcounted inovf
  have hrunning := (bucketOf_congr (onOp_armed _ a.slot (fun p => { p with phase := .running })) n bi).trans h1
  have hready := bucketOf_onArmed hrunning (fun x => { x with ready := true }) (fun _ => rfl) rfl
  exact ⟨_, bucketOf_onBucket hready (Bucket.begun codes len) (fun _ => rfl), rfl, hherd⟩

/-- No block has agreed when the lap begins: a bucket with a block in it has not done its lap. -/
theorem lapDone_begun {len : Nat} (hlen : 0 < len) (pk : List Packet) : lapDone { b.begun codes len with sentPk := pk } = false := by
  simp [lapDone, Bucket.begun, hlen.ne]

/-- In a Herd of several the agree lap only sends before another member's packets arrive. -/
theorem startLap_lapBegun_leaves (h : bucketOf z n bi = some (a, b)) (hn : 1 < a.n) :
    RingStands (withDrcnt z w) (startLap (lapBegun z a n bi w inovf len codes) n bi)
      ∧ ∃ a' pk, bucketOf (startLap (lapBegun z a n bi w inovf len codes) n bi) n bi = some (a', { b.begun codes len with sentPk := pk })
        ∧ a'.ready = true := by
  obtain ⟨a1, h1, hready1, hherd1⟩ := bucketOf_lapBegun w inovf len codes h
  have hn1 : 1 < a1.n := by rwa [Armed.n, hherd1]
  obtain ⟨a2, pk, h2, hready2, -⟩ := lapStands_startLap h1 hn1
  exact ⟨(ringStands_lapBegun w inovf len codes).startLap n bi, a2, pk, h2, hready2.trans hready1⟩

/-- With no ring packet held, the laps stop at the agree lap's start. -/
theorem laps_lapBegun {len : Nat} (h : bucketOf z n bi = some (a, b)) (hn : 1 < a.n) (hlen : 0 < len) (hrings : z.fab.rings = []) (fuel : Nat) :
    retryRings (advanceLaps (startLap (lapBegun z a n bi w inovf len codes) n bi) n bi fuel)
      = startLap (lapBegun z a n bi w inovf len codes) n bi := by
  obtain ⟨hstands, a', pk, hbucket, -⟩ := startLap_lapBegun_leaves w inovf len codes h hn
  obtain ⟨-, -, -, -, hheld⟩ := hstands.of_withDrcnt
  rw [advanceLaps_of_unfinished hbucket (lapDone_begun codes hlen pk), retryRings_of_nil (hheld.trans hrings)]

end

/-! ### The trigger (R332, R333) -/

/-- Block bytes of the bucket with OVF (R335). -/
def inputOverflows (z : State) (a : Armed) (b : Bucket) (bi : Nat) : Nat :=
  sumNat ((List.range (a.d.bucketLen (capOf z) bi)).map (fun t => (List.range 2).countP (fun h => bbOvf (bktByte z (capOf z) b t h))))

/-- The agree codes of the bucket's blocks (R335). -/
def ownCodes (z : State) (a : Armed) (b : Bucket) (bi : Nat) : List Int :=
  (List.range (a.d.bucketLen (capOf z) bi)).map (fun t => agreeCode (contribVals z (capOf z) a b t))

/-- The bucket's agree lap begins. -/
def triggered (z : State) (a : Armed) (b : Bucket) (n bi : Nat) : State :=
  lapBegun z a n bi (bump z.units.drcnt 63 48 (inputOverflows z a b bi)) (inputOverflows z a b bi) (a.d.bucketLen (capOf z) bi) (ownCodes z a b bi)

/-- A filling bucket of a working device starts to reduce: its armed step has no absent member and has passed the scoreboard, and the bucket is
flushed, or full under AUTO (R332, R333). -/
def Triggers (z : State) (a : Armed) (b : Bucket) (bi : Nat) : Prop :=
  z.live = true ∧ b.st = .filling ∧ a.absent = none ∧ armedReady z a = true
    ∧ (a.flushed = true ∨ autoOf (a.btab.getD bi 0) = true ∧ bucketFull (capOf z) (a.d.bucketLen (capOf z) bi) b = true)

theorem bucketFull_iff {cap n : Nat} {b : Bucket} : bucketFull cap n b = true ↔ ∀ u ∈ extentUnits cap n, u ∈ b.units := by
  simp only [bucketFull, List.all_eq_true, decide_eq_true_eq]

section

variable {s z : State} {n bi : Nat} {a : Armed} {b : Bucket}

theorem bucketTrigger_of_triggers (hz : z = seatPlans s) (h : bucketOf z n bi = some (a, b)) (ht : Triggers z a b bi) :
    bucketTrigger s n bi = retryRings (advanceLaps (startLap (triggered z a b n bi) n bi) n bi lapFuel) := by
  subst hz
  simp only [bucketTrigger, h]
  exact if_pos ht

theorem bucketTrigger_of_not_triggers (hz : z = seatPlans s) (h : bucketOf z n bi = some (a, b)) (ht : ¬ Triggers z a b bi) :
    bucketTrigger s n bi = z := by
  subst hz
  simp only [bucketTrigger, h]
  exact if_neg ht

/-- In a Herd of several, with no ring packet held, the bucket is in its agree lap when the command ends, and nothing else has run. -/
theorem bucketTrigger_leaves (hz : z = seatPlans s) (h : bucketOf z n bi = some (a, b)) (ht : Triggers z a b bi) (hn : 1 < a.n)
    (hlen : 0 < a.d.bucketLen (capOf z) bi) (hrings : z.fab.rings = []) :
    RingStands (withDrcnt z (bump z.units.drcnt 63 48 (inputOverflows z a b bi))) (bucketTrigger s n bi)
      ∧ ∃ a' pk, bucketOf (bucketTrigger s n bi) n bi
          = some (a', { b.begun (ownCodes z a b bi) (a.d.bucketLen (capOf z) bi) with sentPk := pk }) ∧ a'.ready = true := by
  rw [bucketTrigger_of_triggers hz h ht, triggered, laps_lapBegun _ _ _ h hn hlen hrings]
  exact startLap_lapBegun_leaves _ _ _ _ h hn

end

theorem settle_drcnt (s r : State) : (settle s r).units.drcnt = r.units.drcnt := rfl

/-- Settles O34: BUCKET_TRIGGER seats what waits for a slot (log entry 38) and starts a lap exactly when `Triggers` holds; in a Herd of several that
lap only sends. -/
theorem bucketsTriggerWhenFull : Obligations.BucketsTriggerWhenFull := by
  intro n bi a b z s hz hbucket
  dsimp only
  simp only [← bucketFull_iff]
  refine ⟨fun hlive hfilling habsent hready hdue => ?_, fun hnot => ?_⟩
  · have ht : Triggers z a b bi.toNat := ⟨hlive, hfilling, habsent, hready, hdue⟩
    refine ⟨congrArg (commit s) (bucketTrigger_of_triggers hz hbucket ht), fun hseated hn hlen hrings => ?_⟩
    have hzs : z = s := hz.trans (seatPlans_of_seated hseated)
    obtain ⟨hstands, a', pk, hreducing, hready'⟩ := bucketTrigger_leaves hz hbucket ht hn hlen (hzs ▸ hrings)
    obtain ⟨hdrcnt, hcores, hstore, hdram, -⟩ := hstands.of_withDrcnt
    subst hzs
    exact ⟨_, a', _, rfl, (bucketOf_congr (State.settle_armed _ _) _ _).trans hreducing, hready', rfl, rfl, rfl, (settle_drcnt _ _).trans hdrcnt,
      (State.settle_cores _ _).trans hcores, (State.settle_store _ _).trans hstore, (State.settle_dram _ _).trans hdram⟩
  · refine congrArg (commit s) (bucketTrigger_of_not_triggers hz hbucket ?_)
    rintro ⟨hlive, hfilling, habsent, hready, hdue⟩
    rcases hnot with h | h | h | h | h
    · exact ne_true_of_eq_false h hlive
    · exact h hfilling
    · exact h habsent
    · exact ne_true_of_eq_false h hready
    · exact h hdue

end Sys2Proof.Machine

/-!
The arrival of a packet on a fabric port (R361, R363, R370, R377): what a port's note of an earlier mismatch changes, and the cases of `arrive`.
-/

namespace Sys2Proof.Machine

/-! ### A good copy after a mismatch (R370, R407) -/

section

variable (s : State) (p : Nat) (k : Packet)

/-- At most the log, the count of transients and the port's note change. -/
theorem ecrcGood_eq : ∃ ptr log cnt ports, ecrcGood s p k
    = { s with mgmt := { s.mgmt with mlogptr := ptr, log := log, fltcnt := cnt }, fab := { s.fab with ports := ports } } := by
  unfold ecrcGood
  dsimp only
  split_ifs
  · exact ⟨_, _, _, _, rfl⟩
  · exact ⟨_, _, _, _, rfl⟩

@[simp] theorem sched_ecrcGood : (ecrcGood s p k).sched = s.sched := by
  obtain ⟨ptr, log, cnt, ports, h⟩ := ecrcGood_eq s p k
  rw [h]

@[simp] theorem store_ecrcGood : (ecrcGood s p k).store = s.store := by
  obtain ⟨ptr, log, cnt, ports, h⟩ := ecrcGood_eq s p k
  rw [h]

@[simp] theorem failstop_ecrcGood : (ecrcGood s p k).failstop = s.failstop := by
  obtain ⟨ptr, log, cnt, ports, h⟩ := ecrcGood_eq s p k
  rw [h]
  rfl

@[simp] theorem dev_ecrcGood : (ecrcGood s p k).dev = s.dev := by rw [State.dev, sched_ecrcGood, State.dev]

@[simp] theorem isPartner_ecrcGood (d : Nat) : isPartner (ecrcGood s p k) d = isPartner s d := by
  simp only [isPartner, State.stBytes, dev_ecrcGood, sched_ecrcGood, store_ecrcGood]

end

theorem failstop_of_live {s : State} (h : s.live = true) : s.failstop = false := by
  simp only [State.live, Bool.and_eq_true, Bool.not_eq_true'] at h
  exact h.2

/-! ### The cases of an arrival -/

/-- Port p of a working device takes the packet in, and it checks: its class has room, its checksum matches, R363 finds no fault with it, and Table
13-3 has its kind. -/
structure Sound (s : State) (p : FabPort) (k : Packet) : Prop where
  live : s.live = true
  up : portUp s p.toNat = true
  room : heldBack s p.toNat k = false
  ecrc : k.ecrc.toNat = ecrcOf k
  wellFormed : packetMalformed k = false
  kind : packetKind k.kind.toNat = true

section

variable {s : State} {p : FabPort} {kd : Byte} {k q : Packet} (f : State → Packet → State) (hq : { k with kind := kd } = q)

theorem arrive_down (h : s.live = false ∨ portUp s p.toNat = false) : arrive s p kd k f = s :=
  if_pos (h.imp ne_true_of_eq_false ne_true_of_eq_false)

theorem arrive_up (hl : s.live = true) (hup : portUp s p.toNat = true) (r : State) : (if ¬ s.live ∨ ¬ portUp s p.toNat then s else r) = r :=
  if_neg (not_or_intro (not_not_intro hl) (not_not_intro hup))

include hq

theorem arrive_heldBack (hl : s.live = true) (hup : portUp s p.toNat = true) (hheld : heldBack s p.toNat q = true) :
    arrive s p kd k f = holdBack s p.toNat q := by
  subst hq
  exact (arrive_up hl hup _).trans (if_pos hheld)

theorem arrive_corrupt (hl : s.live = true) (hup : portUp s p.toNat = true) (hroom : heldBack s p.toNat q = false)
    (hecrc : q.ecrc.toNat ≠ ecrcOf q) : arrive s p kd k f = ecrcMismatch s p.toNat q := by
  subst hq
  exact (arrive_up hl hup _).trans ((if_neg (ne_true_of_eq_false hroom)).trans (if_pos hecrc))

theorem arrive_malformed (hl : s.live = true) (hup : portUp s p.toNat = true) (hroom : heldBack s p.toNat q = false)
    (hecrc : q.ecrc.toNat = ecrcOf q) (hbad : packetMalformed q = true) : arrive s p kd k f = bumpFab0 s 63 48 := by
  subst hq
  exact (arrive_up hl hup _).trans ((if_neg (ne_true_of_eq_false hroom)).trans ((if_neg (not_not_intro hecrc)).trans (if_pos (.inl hbad))))

/-- What becomes of a sound packet turns on where it comes from and where it goes (R361, R377). -/
theorem arrive_sound (h : Sound s p q) : arrive s p kd k f = if fromAbsent (ecrcGood s p.toNat q) q then bumpFab1 (ecrcGood s p.toNat q) 47 32 1
    else if q.dst.toNat ≠ s.dev then forwardPacket (ecrcGood s p.toNat q) p.toNat q else f (ecrcGood s p.toNat q) q := by
  subst hq
  rw [← dev_ecrcGood s p.toNat { k with kind := kd }]
  exact (arrive_up h.live h.up _).trans ((if_neg (ne_true_of_eq_false h.room)).trans ((if_neg (not_not_intro h.ecrc)).trans
    (if_neg (not_or_intro (ne_true_of_eq_false h.wellFormed) (not_not_intro h.kind)))))

theorem arrive_absent (h : Sound s p q) (ha : fromAbsent (ecrcGood s p.toNat q) q = true) :
    arrive s p kd k f = bumpFab1 (ecrcGood s p.toNat q) 47 32 1 :=
  (arrive_sound f hq h).trans (if_pos ha)

theorem arrive_passes (h : Sound s p q) (ha : fromAbsent (ecrcGood s p.toNat q) q = false) (hd : q.dst.toNat ≠ s.dev) :
    arrive s p kd k f = forwardPacket (ecrcGood s p.toNat q) p.toNat q :=
  (arrive_sound f hq h).trans ((if_neg (ne_true_of_eq_false ha)).trans (if_pos hd))

omit hq

/-- A packet that `reaches` finds whole and addressed to this device is sound, where Table 13-3 has its kind. -/
theorem sound_of_reaches (h : reaches s p.toNat k = true) (hk : packetKind k.kind.toNat = true) : Sound s p k ∧ k.dst.toNat = s.dev := by
  simp only [reaches, Bool.and_eq_true, Bool.not_eq_true', decide_eq_true_eq] at h
  obtain ⟨⟨⟨⟨⟨hl, hup⟩, hroom⟩, hecrc⟩, hwell⟩, hdst⟩ := h
  exact ⟨⟨hl, hup, hroom, hecrc, hwell, hk⟩, hdst⟩

/-- A packet that reaches this device from a present one is given to the rule of its kind. -/
theorem arrive_reaches (h : Reaches s p kd k) (hk : packetKind kd.toNat = true) :
    arrive s p kd k f = f (ecrcGood s p.toNat { k with kind := kd }) { k with kind := kd } := by
  obtain ⟨hreach, hpresent⟩ := h
  obtain ⟨hsound, hdst⟩ := sound_of_reaches hreach hk
  rw [arrive_sound f rfl hsound, if_neg (ne_true_of_eq_false hpresent), if_neg (not_not_intro hdst)]

/-- What the command of a packet answers whose rule is `f`. -/
theorem answers_reaches {i : Instr} {r : State} (hi : exec i s = commit s (arrive s p kd k f)) (h : Reaches s p kd k)
    (hk : packetKind kd.toNat = true) (hr : f (ecrcGood s p.toNat { k with kind := kd }) { k with kind := kd } = r) : Answers i s r :=
  hi.trans (congrArg (commit s) ((arrive_reaches f h hk).trans hr))

end

end Sys2Proof.Machine

/-!
Requests at their target (R317, R362, R367, R368, R380, Table 13-4): the key and the slot that a first part takes, the parts that join it, and the
answers to copies.
-/

namespace Sys2Proof.Machine

/-! ### Keys -/

/-- The state that holds a key more. -/
def withKey (s : State) (hk : HKey) : State := { s with fab := { s.fab with keys := s.fab.keys ++ [hk] } }

section

variable {s r : State} {src ticket : Nat}

theorem keyOf_congr (h : r.fab.keys = s.fab.keys) : keyOf r src ticket = keyOf s src ticket := by
  rw [keyOf, keyOf, h]

/-- A change of the key (src, ticket) that keeps both shows in it. -/
theorem keyOf_mapKey (f : HKey → HKey) (hf : ∀ x, (f x).src = x.src ∧ (f x).ticket = x.ticket) :
    keyOf (mapKey s (fun x => x.src = src && x.ticket = ticket) f) src ticket = (keyOf s src ticket).map f :=
  find?_map_ite (fun x : HKey => x.src = src && x.ticket = ticket) f (fun x => by rw [(hf x).1, (hf x).2]) s.fab.keys

/-- A key that is new is found behind those that were held. -/
theorem keyOf_withKey {hk : HKey} (h : keyOf s hk.src hk.ticket = none) : keyOf (withKey s hk) hk.src hk.ticket = some hk := by
  simp only [keyOf] at h
  simp [keyOf, withKey, List.find?_append, h]

end

/-! ### The first part (Table 13-4, step 2) -/

section

variable {s : State} {p : Nat} {k : Packet}

theorem landRequest_held {hk : HKey} (h : keyOf s k.src.toNat k.ticket.toNat = some hk) : landRequest p s k = landAgain s k hk := by
  simp only [landRequest, h]

theorem landRequest_waits (h : keyOf s k.src.toNat k.ticket.toNat = none)
    (hw : s.quiesce.isSome = true ∨ 65536 ≤ s.fab.keys.length ∨ openKey s p k = none) : landRequest p s k = holdBack s p k := by
  simp only [landRequest, h]
  by_cases hfull : 65536 ≤ s.fab.keys.length ∨ s.quiesce.isSome = true
  · exact if_pos hfull
  · obtain hq | hlen | hopen := hw
    · exact absurd (.inr hq) hfull
    · exact absurd (.inl hlen) hfull
    · rw [if_neg hfull, hopen]

theorem landRequest_opens {r : State} (h : keyOf s k.src.toNat k.ticket.toNat = none) (hq : s.quiesce = none)
    (hlen : s.fab.keys.length < 65536) (hr : openKey s p k = some r) : landRequest p s k = takePart r true k := by
  simp only [landRequest, h]
  rw [if_neg (not_or_intro (Nat.not_le.mpr hlen) (by rw [hq]; decide)), hr]

/-- The key that a first part opens, before it has a slot. -/
def newKey (s : State) (p : Nat) (k : Packet) : HKey :=
  { src := k.src.toNat, ticket := k.ticket.toNat, slot := none, st := .running, req := [k], reply := [], resends := 0, landed := s.now, relAt := 0,
    pended := false, port := p, via := (viaOf s k).getD k.src.toNat }

theorem remoteStrm_withKey (hk : HKey) (d n : Nat) : remoteStrm (withKey s hk) d n = remoteStrm s d n := rfl

theorem pickSlot_nil (s : State) : pickSlot s [] = s.freeq.head? := by
  rw [pickSlot]
  cases s.freeq <;> rfl

/-- A spill moves descriptors of streams and bytes of the spill area alone. -/
theorem spillTo_eq (s : State) (n q : Nat) : ∃ strms store, spillTo s n q = { s with strms := strms, store := store } := by
  unfold spillTo
  split
  · exact ⟨_, _, rfl⟩
  · exact ⟨_, _, rfl⟩

/-- A refill moves descriptors of streams, and counts. -/
theorem refillStrm_eq (s : State) (n : Nat) :
    ∃ strms store sched, refillStrm s n = { s with strms := strms, store := store, sched := sched } := by
  unfold refillStrm
  split
  · exact ⟨_, _, _, rfl⟩
  · split
    · exact ⟨_, _, _, rfl⟩
    · rename_i q _
      dsimp only
      split_ifs
      · exact ⟨_, _, _, rfl⟩
      · split
        · rename_i v _
          obtain ⟨strms, store, h⟩ := spillTo_eq s v q
          rw [h]
          exact ⟨_, _, _, rfl⟩
        · exact ⟨_, _, _, rfl⟩

theorem slots_occupy (s : State) (t : Nat) (o : Op) :
    (occupy s t o).slots = (s.setSlot t { gen := (s.slot t).gen + 1, st := .busy { o with seq := s.car.seq } }).slots := by
  unfold occupy
  dsimp only
  split <;> rfl

theorem slot_occupy_ne (o : Op) {t x : Nat} (h : x ≠ t) : (occupy s t o).slot x = s.slot x := by
  rw [State.slot, slots_occupy]
  exact State.slot_setSlot_ne s _ h

variable (s p k) in
/-- The state whose new key holds slot t for an operation of stream n. -/
def openedKey (n t : Nat) : State :=
  mapKey (occupy (refillStrm (withKey s (newKey s p k)) n) t (requestOp (withKey s (newKey s p k)) (newKey s p k) k n))
    (fun x => x.src = k.src.toNat && x.ticket = k.ticket.toNat) (fun x => { x with slot := some t })

variable {n t : Nat}

theorem openKey_remote (hn : remoteStrm s k.src.toNat k.sstr.toNat = some n) (ht : s.freeq.head? = some t) :
    openKey s p k = some (openedKey s p k n t) := by
  have hopen : openRemote (withKey s (newKey s p k)) k.src.toNat k.sstr.toNat k.tenant.toNat = some (withKey s (newKey s p k), n) := by
    simp only [openRemote, remoteStrm_withKey, hn]
  have hpick : pickSlot (refillStrm (withKey s (newKey s p k)) n) [] = some t := by
    obtain ⟨strms, store, sched, h⟩ := refillStrm_eq (withKey s (newKey s p k)) n
    rw [pickSlot_nil, h]
    exact ht
  simp only [withKey, newKey] at hopen hpick
  simp only [openKey, hopen, allocOp, hpick]
  rfl

theorem keyOf_openedKey (h : keyOf s k.src.toNat k.ticket.toNat = none) :
    keyOf (openedKey s p k n t) k.src.toNat k.ticket.toNat = some { newKey s p k with slot := some t } := by
  have hkeys : (occupy (refillStrm (withKey s (newKey s p k)) n) t (requestOp (withKey s (newKey s p k)) (newKey s p k) k n)).fab.keys
      = (withKey s (newKey s p k)).fab.keys := by
    obtain ⟨strms, store, sched, hr⟩ := refillStrm_eq (withKey s (newKey s p k)) n
    rw [occupy_eq, hr]
  have hnew : keyOf (withKey s (newKey s p k)) k.src.toNat k.ticket.toNat = some (newKey s p k) := keyOf_withKey h
  rw [openedKey, keyOf_mapKey (fun x => { x with slot := some t }) (fun _ => ⟨rfl, rfl⟩), keyOf_congr hkeys, hnew]
  rfl

theorem op_openedKey : ∃ o, (openedKey s p k n t).op t = some o ∧ o.phase = .issued ∧ o.stream = n :=
  ⟨_, op_of_slot (congrArg Slot.st (slot_occupy_same _ t _)), rfl, rfl⟩

theorem slot_openedKey_ne {x : Nat} (h : x ≠ t) : (openedKey s p k n t).slot x = s.slot x := by
  obtain ⟨strms, store, sched, hr⟩ := refillStrm_eq (withKey s (newKey s p k)) n
  refine (slot_occupy_ne _ h).trans ?_
  rw [hr]
  rfl

/-! ### Parts -/

variable (s k) in
/-- The key has learned from a part where its replies go, where the part shows it (R370, R380). -/
def learnVia : State :=
  match viaOf s k with
  | some d => mapKey s (fun x => x.src = k.src.toNat && x.ticket = k.ticket.toNat) (fun x => { x with via := d })
  | none => s

variable {hk : HKey}

theorem keyOf_learnVia (h : keyOf s k.src.toNat k.ticket.toNat = some hk) :
    ∃ v, keyOf (learnVia s k) k.src.toNat k.ticket.toNat = some { hk with via := v } := by
  unfold learnVia
  split
  · rename_i d _
    exact ⟨d, by rw [keyOf_mapKey (fun x => { x with via := d }) (fun _ => ⟨rfl, rfl⟩), h]; rfl⟩
  · exact ⟨hk.via, h⟩

theorem slots_learnVia : (learnVia s k).slots = s.slots := by
  unfold learnVia
  split <;> rfl

/-- With parts still to come, the operation gathers at most the refusal of R373. -/
theorem takePart_unfinished (first : Bool) (h : keyOf (learnVia s k) k.src.toNat k.ticket.toNat = some hk) (ht : hk.slot = some t)
    (hw : hk.whole = false) : takePart s first k = if keyDenied (learnVia s k) first k
      then (learnVia s k).onOp t (fun o => { o with status := statusMin o.status 0x17 }) else learnVia s k := by
  cases hv : viaOf s k <;> simp only [learnVia, hv] at h <;>
    simp only [takePart, learnVia, hv, h, ht, hw, Bool.false_eq_true, if_false]

/-- The first of several parts leaves its key with slot t, whose operation waits for the rest (Table 13-4, step 2). -/
theorem takePart_opened_leaves (h : keyOf s k.src.toNat k.ticket.toNat = none) (hlast : k.last = false) :
    let r := takePart (openedKey s p k n t) true k
    (∃ hk, keyOf r k.src.toNat k.ticket.toNat = some hk ∧ hk.req = [k] ∧ hk.st = .running ∧ hk.slot = some t)
      ∧ (∃ o, r.op t = some o ∧ o.phase = .issued ∧ o.stream = n) ∧ ∀ x, x ≠ t → r.slot x = s.slot x := by
  obtain ⟨v, hkey⟩ := keyOf_learnVia (keyOf_openedKey (p := p) (n := n) (t := t) h)
  obtain ⟨o, ho, hphase, hstream⟩ := op_openedKey (s := s) (p := p) (k := k) (n := n) (t := t)
  have hslots := slots_learnVia (s := openedKey s p k n t) (k := k)
  have hop : (learnVia (openedKey s p k n t) k).op t = some o := by
    rw [State.op, State.slot, hslots]
    exact ho
  have hothers : ∀ x, x ≠ t → (learnVia (openedKey s p k n t) k).slot x = s.slot x := fun x hx => by
    rw [State.slot, hslots]
    exact slot_openedKey_ne hx
  have hpart := takePart_unfinished true hkey rfl (by simp [HKey.whole, newKey, hlast])
  dsimp only
  rw [hpart]
  split_ifs
  · rw [onOp_of_op hop]
    exact ⟨⟨_, hkey, rfl, rfl, rfl⟩, ⟨_, State.op_setOp_same _ t _, hphase, hstream⟩,
      fun x hx => (State.slot_setSlot_ne _ _ hx).trans (hothers x hx)⟩
  · exact ⟨⟨_, hkey, rfl, rfl, rfl⟩, ⟨o, hop, hphase, hstream⟩, hothers⟩

/-! ### Later parts and copies (R368) -/

variable (s k) in
/-- The part joins those of its key. -/
def joinPart : State :=
  mapKey s (fun x => x.src = k.src.toNat && x.ticket = k.ticket.toNat) (fun x => { x with req := x.req ++ [k] })

variable (s k hk) in
/-- The key with the device that a copy shows its replies to go to. -/
def toldKey : HKey := { hk with via := (viaOf s k).getD hk.via }

variable (s k hk) in
/-- A copy is counted, and its key told where its replies go. -/
def copyCounted : State :=
  mapKey (bumpFab1 s 31 16 1) (fun x => x.src = k.src.toNat && x.ticket = k.ticket.toNat) (fun x => { x with via := (toldKey s k hk).via })

theorem landAgain_copy (h : ∃ x ∈ hk.req, x.part = k.part) : landAgain s k hk
    = if hk.st = .running then sendPend (copyCounted s k hk) (toldKey s k hk) else resendReply (copyCounted s k hk) (toldKey s k hk) := by
  refine if_neg fun hall => ?_
  obtain ⟨x, hx, hpart⟩ := h
  exact of_decide_eq_true (List.all_eq_true.mp hall x hx) hpart

theorem landAgain_part (h : ∀ x ∈ hk.req, x.part ≠ k.part) : landAgain s k hk
    = if hk.st ≠ .running then joinPart s k else takePart (joinPart s k) false k :=
  if_pos (List.all_eq_true.mpr fun x hx => decide_eq_true (h x hx))

end

/-! ### The commands -/

theorem exec_request {p : FabPort} {k : Packet} {i : Instr} {kd : Byte} (h : (i, kd) ∈ [(Instr.rdreq p k, 0x01#8), (Instr.wrreq p k, 0x02#8),
    (Instr.accm p k, 0x03#8), (Instr.preq p k, 0x04#8), (Instr.fwd p k, 0x05#8)]) (s : State) :
    exec i s = commit s (arrive s p kd k (landRequest p.toNat)) ∧ packetKind kd.toNat = true := by
  simp only [List.mem_cons, List.not_mem_nil, or_false, Prod.mk.injEq] at h
  rcases h with ⟨rfl, rfl⟩ | ⟨rfl, rfl⟩ | ⟨rfl, rfl⟩ | ⟨rfl, rfl⟩ | ⟨rfl, rfl⟩ <;> exact ⟨rfl, by decide⟩

/-- Settles O41: each row is `landRequest`, whose cases are the key of the part, held or not, and the part, held or not. -/
theorem requestsLandOnTheirTarget : Obligations.RequestsLandOnTheirTarget := by
  intro p k s i kd hi hreach q s1 back mine join
  obtain ⟨hexec, hkind⟩ := exec_request hi s
  have answers : ∀ {r : State}, landRequest p.toNat s1 q = r → Answers i s r := answers_reaches _ hexec hreach hkind
  refine ⟨fun hnone => ⟨fun hw => ?_, fun hq hlen s2 hopen => ?_, fun hq hlen hlast hfree n hn => ?_⟩, ?_⟩
  · exact answers (landRequest_waits hnone hw)
  · exact answers (landRequest_opens hnone hq hlen hopen)
  · obtain ⟨t, ht⟩ := Option.isSome_iff_exists.mp (List.isSome_head?.mpr hfree)
    have hland := answers (landRequest_opens hnone hq hlen (openKey_remote hn ht))
    obtain ⟨⟨hk, hkey, hreq, hst, hslot⟩, ⟨o, ho, hphase, hstream⟩, hothers⟩ :=
      takePart_opened_leaves (s := s1) (p := p.toNat) (k := q) (n := n) (t := t) hnone hlast
    exact ⟨_, hk, t, o, hland, hkey, hreq, hst, hslot, ho, hphase, hstream, ht, hothers⟩
  · intro hk hheld hk1 s2
    have hagain := landRequest_held (p := p.toNat) (k := q) hheld
    refine ⟨fun hcopy => ?_, fun hnew => ?_⟩
    · have hland := hagain.trans (landAgain_copy hcopy)
      exact ⟨fun hst => answers (hland.trans (if_pos hst)), fun hst => answers (hland.trans (if_neg hst))⟩
    · have hland := hagain.trans (landAgain_part hnew)
      exact ⟨fun hst => answers (hland.trans (if_neg (not_not_intro hst))), fun hst => answers (hland.trans (if_pos hst))⟩

end Sys2Proof.Machine

/-!
What sending packets changes, and the timers of the fabric (R284, R317, R369, R374, R375, Table 13-4). Each acts at its moment, to which local time
moves (notes/assumptions/6).
-/

namespace Sys2Proof.Machine

/-! ### Commands that act under a condition -/

section

variable {i : Instr} {s a b : State} {c : Prop} [Decidable c]

theorem answers_of_pos (hx : exec i s = commit s (if c then a else b)) (hc : c) : Answers i s a := hx.trans (congrArg (commit s) (if_pos hc))

theorem answers_of_neg (hx : exec i s = commit s (if c then a else b)) (hc : ¬ c) : Answers i s b := hx.trans (congrArg (commit s) (if_neg hc))

end

/-! ### Sending -/

/-- Packets have left or been discarded for want of a way: only what waits at the ports and that count differ (R361). -/
def SentOnly (s r : State) : Prop :=
  ∃ egress cnt, r = { s with fab := { s.fab with egress := egress }, sched := { s.sched with fabcnt0 := cnt } }

section

variable {s r w : State}

theorem SentOnly.refl (s : State) : SentOnly s s := ⟨_, _, rfl⟩

theorem SentOnly.trans (h : SentOnly s r) (h' : SentOnly r w) : SentOnly s w := by
  obtain ⟨_, _, rfl⟩ := h
  obtain ⟨_, _, rfl⟩ := h'
  exact ⟨_, _, rfl⟩

theorem sentOnly_depart (s : State) (k : Packet) (from_ : Option Nat) (at_ : Nat) : SentOnly s (depart s k from_ at_) := by
  unfold depart
  split_ifs
  · exact SentOnly.refl s
  · split
    · exact ⟨_, _, rfl⟩
    · exact ⟨_, _, rfl⟩

theorem sentOnly_sendPacket (s : State) (k : Packet) : SentOnly s (sendPacket s k) := sentOnly_depart s (finish k) none s.now

theorem sentOnly_sendAll (s : State) (ks : List Packet) : SentOnly s (sendAll s ks) :=
  List.foldlRecOn (motive := SentOnly s) ks sendPacket (SentOnly.refl s) fun r hr k _ => hr.trans (sentOnly_sendPacket r k)

theorem SentOnly.fabcnt1 (h : SentOnly s r) : r.sched.fabcnt1 = s.sched.fabcnt1 := by
  obtain ⟨_, _, rfl⟩ := h
  rfl

/-- A counter grows by k and stays at its largest value (R17). -/
theorem fld_bump {w : W64} {hi lo : Nat} (k : Nat) (h : lo ≤ hi) (h64 : hi < 64) :
    fld (bump w hi lo k) hi lo = satAdd (hi + 1 - lo) (fld w hi lo) k := by
  rw [bump, fld_setFld_same _ h h64]
  exact Nat.mod_eq_of_lt (lt_of_le_of_lt (Nat.min_le_right _ _) (Nat.sub_lt (Nat.two_pow_pos _) Nat.one_pos))

end

/-! ### Held keys (Table 13-4, steps 3, 6 and 7) -/

section

variable {s : State} {src : DevId} {tk : BitVec 16} {hk : HKey}

theorem exec_pendTimer (h : keyOf s src.toNat tk.toNat = some hk) : exec (.pendTimer src tk) s
    = commit s (if s.live ∧ hk.st = .running ∧ ¬ hk.pended ∧ hk.viaKnown then
        mapKey (sendPend (s.atLeast (hk.landed + 1600)) hk) (fun x => x = hk) (fun x => { x with pended := true }) else s) := by
  change execPendTimer src tk s = _
  simp only [execPendTimer, h]

theorem exec_rplyResend (h : keyOf s src.toNat tk.toNat = some hk) : exec (.rplyResend src tk) s
    = commit s (if s.live ∧ hk.st = .replied ∧ hk.resends < 4 then
        resendReply (mapKey (s.atLeast (hk.relAt + rtoTicks s)) (fun x => x = hk)
          (fun x => { x with resends := x.resends + 1, relAt := (s.atLeast (hk.relAt + rtoTicks s)).now })) hk else s) := by
  change execRplyResend src tk s = _
  simp only [execRplyResend, h]

theorem exec_originatorSilence (h : keyOf s src.toNat tk.toNat = some hk) : exec (.originatorSilence src tk) s
    = commit s (if s.live ∧ hk.st = .replied ∧ hk.resends = 4 ∧ hk.viaKnown then
        declareAbsent (s.atLeast (hk.relAt + 110000)) hk.via else s) := by
  change execOriginatorSilence src tk s = _
  simp only [execOriginatorSilence, h]

variable (s hk) in
/-- The state without a key, at a local time t or later. -/
def keyDropped (t : Nat) : State :=
  { s.atLeast t with fab := { s.fab with keys := s.fab.keys.filter (fun k => k ≠ hk) } }

theorem exec_heldKeyExpiry (h : keyOf s src.toNat tk.toNat = some hk) : exec (.heldKeyExpiry src tk) s
    = commit s (if s.live ∧ hk.st = .released then keyDropped s hk (hk.relAt + 57600) else s) := by
  change execHeldKeyExpiry src tk s = _
  simp only [execHeldKeyExpiry, h]
  rfl

end

/-! ### Filters and remote streams (R284, R317) -/

section

variable {s : State}

theorem exec_filterEntryExpiry {h : HoofId} {src : DevId} {tk : BitVec 16} {e : FiltEnt}
    (he : (s.hoof h.val).filter.find? (fun e => e.src = src.toNat && e.ticket = tk.toNat) = some e) : exec (.filterEntryExpiry h src tk) s
    = commit s (if ¬ (s.hoof h.val).haon ∨ ¬ (s.hoof h.val).refclk then s else s.setHoof h.val { s.hoof h.val with
        ltime := Nat.max (s.hoof h.val).ltime (e.at_ + 57600), filter := (s.hoof h.val).filter.filter (fun x => x ≠ e) }) := by
  change execFilterEntryExpiry h src tk s = _
  simp only [execFilterEntryExpiry, he]

variable (s) in
/-- The state without stream n, at a local time t or later. -/
def strmDropped (n t : Nat) : State := { s.atLeast t with strms := adel s.strms n }

theorem exec_remoteStreamIdleClose {st : StreamId} {k : Strm} (h : s.strm st.toNat = some k) : exec (.remoteStreamIdleClose st) s
    = commit s (if s.live ∧ k.kind = 2 ∧ k.infl = 0 then strmDropped s st.toNat (k.last + 1000000) else s) := by
  change execRemoteStreamIdleClose st s = _
  simp only [execRemoteStreamIdleClose, h]
  rfl

/-! ### Requests sent (R369) -/

theorem sched_onOp (s : State) (t : Nat) (f : Op → Op) : (s.onOp t f).sched = s.sched := by
  unfold State.onOp
  split <;> rfl

/-- What a reissue adds to the counters beside the packets sent is one reissue. -/
theorem reissueSlot_counts {t : Nat} {e : Orig} (h : s.fab.orig.find? (fun e => e.slot = t && e.silent && !e.retried) = some e) :
    fld (reissueSlot s t).sched.fabcnt1 15 0 = satAdd 16 (fld s.sched.fabcnt1 15 0) 1 := by
  have hsent : (reissueSlot s t).sched.fabcnt1 = (bumpFab1 s 15 0 1).sched.fabcnt1 := by
    simp only [reissueSlot, h]
    refine (sentOnly_sendAll _ _).fabcnt1.trans ?_
    rw [sched_onOp]
    rfl
  rw [hsent]
  exact fld_bump 1 (by decide) (by decide)

theorem reissueSilence_answers {t : SlotId} {e : Orig} (hl : s.live = true)
    (h : s.fab.orig.find? (fun e => e.slot = t.toNat && e.silent && e.retried) = some e) :
    Answers (.reissueSilence t) s (declareAbsent (s.atLeast (e.sentAt + 110000)) e.dst) := by
  change execReissueSilence t s = _
  simp only [execReissueSilence, h]
  exact congrArg (commit s) (if_pos hl)

end

/-- Settles O44: each timer's command looks its key, entry, stream or request up and acts in the state that its rule names. -/
theorem fabricTimersAct : Obligations.FabricTimersAct := by
  refine ⟨fun src tk hk s hheld hl => ⟨fun hst hp hv => ?_, fun hquiet => ?_, fun hst hr => ?_, fun hst hr => ⟨?_, fun hv => ?_⟩,
      fun hst => ?_, fun hst => ?_⟩,
    fun h src tk e s he => ⟨fun ha hc => ?_, fun hstill => ?_⟩,
    fun st k s hk hl => ⟨fun hkind hinfl => ?_, fun hbusy => ?_⟩,
    fun t e s hl => ⟨fun he => ⟨?_, reissueSlot_counts he⟩, reissueSilence_answers hl⟩, fun d s hl hen => ⟨?_, fun hp ha => ?_⟩⟩
  · exact answers_of_pos (exec_pendTimer hheld) ⟨hl, hst, ne_true_of_eq_false hp, hv⟩
  · refine answers_of_neg (exec_pendTimer hheld) ?_
    rintro ⟨-, hst, hp, hv⟩
    exact hquiet.elim hp fun h => h.elim (fun hst' => hst' hst) fun hv' => ne_true_of_eq_false hv' hv
  · exact answers_of_pos (exec_rplyResend hheld) ⟨hl, hst, hr⟩
  · exact answers_of_neg (exec_rplyResend hheld) fun ⟨_, _, hlt⟩ => absurd hr (Nat.ne_of_lt hlt)
  · exact answers_of_pos (exec_originatorSilence hheld) ⟨hl, hst, hr, hv⟩
  · exact ⟨_, answers_of_pos (exec_heldKeyExpiry hheld) ⟨hl, hst⟩, rfl, rfl, rfl, rfl, rfl, rfl⟩
  · exact answers_of_neg (exec_heldKeyExpiry hheld) fun ⟨_, hst'⟩ => hst hst'
  · exact answers_of_neg (exec_filterEntryExpiry he) (not_or_intro (not_not_intro ha) (not_not_intro hc))
  · exact answers_of_pos (exec_filterEntryExpiry he) (hstill.imp ne_true_of_eq_false ne_true_of_eq_false)
  · exact ⟨_, answers_of_pos (exec_remoteStreamIdleClose hk) ⟨hl, hkind, hinfl⟩, rfl, rfl⟩
  · refine answers_of_neg (exec_remoteStreamIdleClose hk) ?_
    rintro ⟨-, hkind, hinfl⟩
    exact hbusy.elim (fun hne => hne hkind) fun hne => hne hinfl
  · exact answers_of_pos rfl hl
  · exact answers_of_pos rfl ⟨hl, hen⟩
  · exact answers_of_pos rfl ⟨hl, hen, hp, ne_true_of_eq_false ha⟩

end Sys2Proof.Machine

/-!
Fabric links and the units that MODULE_DOWN carries (R364, R406, R408, R412, R456, Tables 15-1 and 15-2, notes/assumptions/64).
-/

namespace Sys2Proof.Machine

/-! ### A link goes down (R364, Table 13-11) -/

section

variable {s : State} {p lost : Nat}

/-- The port as its link goes down now. -/
def downPort (s : State) (p : Nat) : FPort :=
  { s.fport p with lstat := bump (setFlag (s.fport p).lstat 0 false) 47 32 1, downAt := s.now, held := [] }

theorem lstatDown_of_up {w : W64} (h : flag w 0 = true) : lstatDown w = bump (setFlag w 0 false) 47 32 1 := if_pos h

/-- The link falls, and the last packets that its port took are lost: those that wait before those sent. -/
theorem linkDown_of_up (h : flag (s.fport p).lstat 0 = true) : linkDown s p lost
    = { s with fab := { (s.setFport p (downPort s p)).fab with
        egress := dropLast (fun e => decide (e.port = p)) lost s.fab.egress,
        wire := dropLast (fun e => decide (e.1 = p)) (lost - s.fab.egress.countP (fun e => decide (e.port = p))) s.fab.wire } } := by
  rw [linkDown, downPort, ← lstatDown_of_up h]
  exact if_pos h

theorem linkDown_of_down (h : flag (s.fport p).lstat 0 = false) : linkDown s p lost = s := if_neg (ne_true_of_eq_false h)

end

/-! ### A link comes up (R364, Table 15-2) -/

/-- A port whose link can come up: enabled, not retired, powered, with a module, and down. -/
structure MayRise (s : State) (p : FabPort) : Prop where
  live : s.live = true
  enabled : flag s.sched.fabcfg 8 = true
  unretired : flag s.mgmt.fltstat (40 + p.toNat) = false
  power : powered s (fabDomain p.toNat) = true
  down : flag (s.fport p.toNat).lstat 0 = false
  mods : (s.fport p.toNat).mods ≠ 0

section

variable {s : State} {p : FabPort} {far : DevId}

theorem not_barred_of_mayRise (h : MayRise s p) : ¬ (¬ s.live ∨ ¬ flag s.sched.fabcfg 8 ∨ flag s.mgmt.fltstat (40 + p.toNat) ∨
    ¬ powered s (fabDomain p.toNat) ∨ flag (s.fport p.toNat).lstat 0 ∨ (s.fport p.toNat).mods = 0) := by
  obtain ⟨hl, hen, hret, hpow, hdown, hmods⟩ := h
  simp only [hl, hen, hret, hpow, hdown, hmods, not_true_eq_false, Bool.false_eq_true, or_self, not_false_eq_true]

theorem fabricLinkUp_rises (h : MayRise s p) (hfar : 12 ≤ p.toNat ∨ far.toNat = neighbour s.dev (p.toNat / 2)) :
    Answers (.fabricLinkUp p far) s
      (s.setFport p.toNat { s.fport p.toNat with lstat := setFlag (setFld (s.fport p.toNat).lstat 15 4 far.toNat) 0 true }) :=
  congrArg (commit s) ((if_neg (not_barred_of_mayRise h)).trans
    (if_neg fun ⟨htorus, hne⟩ => hfar.elim (fun hle => absurd htorus (Nat.not_lt.mpr hle)) fun heq => hne heq))

theorem fabricLinkUp_wrongEnd (h : MayRise s p) (htorus : p.toNat < 12) (hfar : far.toNat ≠ neighbour s.dev (p.toNat / 2)) :
    Answers (.fabricLinkUp p far) s (portFault (addLog (s.setFport p.toNat
      { s.fport p.toNat with lstat := setFlag (setFld (s.fport p.toNat).lstat 15 4 far.toNat) 1 true }) 6 0x0202 p.toNat far.toNat) p.toNat) :=
  congrArg (commit s) ((if_neg (not_barred_of_mayRise h)).trans (if_pos ⟨htorus, hfar⟩))

end

/-! ### MODULE_DOWN -/

section

variable {s : State} {lasting : Bool} {t : SlotId}

theorem moduleDown_link (hl : s.live = true) (l : Link) (lost : Nat) :
    Answers (.moduleDown ⟨.module l lost, lasting, t⟩) s (linkModuleDown s l lost) :=
  answers_of_neg rfl (not_not_intro hl)

theorem moduleDown_unit (hl : s.live = true) {u : FaultUnit} (hu : ∀ l n, u ≠ .module l n) :
    Answers (.moduleDown ⟨u, lasting, t⟩) s (unitFault s u lasting t.toNat) := by
  cases u with
  | module l n => exact absurd rfl (hu l n)
  | _ => exact answers_of_neg rfl (not_not_intro hl)

theorem fabricModuleDown_runs {p lost : Nat} (h : (s.fport p).mods = 2) :
    fabricModuleDown s p lost = s.setFport p { s.fport p with mods := 1 } := by
  simp only [fabricModuleDown, h]
  rfl

theorem fabricModuleDown_falls {p lost : Nat} (h : (s.fport p).mods ≤ 1) :
    fabricModuleDown s p lost = linkDown (s.setFport p { s.fport p with mods := (s.fport p).mods - 1 }) p lost := if_pos h

theorem hoofModuleDown_runs {h : Nat} (hn : 3 < fld (s.hoof h).hlstat 3 1) : hoofModuleDown s h
    = maskFault (s.setHoof h { s.hoof h with hlstat := setFld (s.hoof h).hlstat 3 1 (fld (s.hoof h).hlstat 3 1 - 1) }) .central 0x05 h
        (fld (s.hoof h).hlstat 3 1 - 1) (fun s => s) :=
  (if_neg (by omega)).trans (if_neg (by omega))

theorem hostModuleDown_runs {p : Nat} (hn : 4 < (s.hport p).mods) : hostModuleDown s p
    = maskFault (s.setHport p { s.hport p with mods := (s.hport p).mods - 1 }) .central 0x07 p ((s.hport p).mods - 1) (fun s => s) :=
  (if_neg (by omega)).trans (if_neg (by omega))

/-- A vector slice at work is retried, and masked where the retry fails too (R406, R408). -/
theorem unitFault_slice {k : BitVec 2} (h : flag s.mgmt.fltstat (12 + k.toNat) = false) (n : Nat) :
    unitFault s (.slice k) false n = transient (markRetried s n) .central 0x07 k.toNat 0
      ∧ unitFault s (.slice k) true n = sliceFault (markMasked s n) k.toNat :=
  ⟨if_neg (ne_true_of_eq_false h), if_neg (ne_true_of_eq_false h)⟩

end

/-- Settles O45: a link that falls is `linkDown`, a retired port `portFault`, and MODULE_DOWN is the function of its unit. -/
theorem fabricLinksGoDownAndUp : Obligations.FabricLinksGoDownAndUp := by
  intro p s f
  refine ⟨fun lost hup => ?_, fun lost hdown => ?_, fun n hl hup => ?_, fun far hl hen hret hpow hdown hmods => ?_,
    fun hl hen hpow hdown hat => ?_,
    fun hl lasting t lost => ⟨fun hm => ?_, fun hm => ?_, fun h hh hn => ?_, fun q hq => ?_, fun u hu => ?_, fun k hk => ?_⟩⟩
  · exact ⟨_, congrArg (commit s) (linkDown_of_up hup), State.fport_setFport_same s _ _, rfl, rfl,
      fun q hq => State.fport_setFport_ne s _ hq, rfl⟩
  · exact congrArg (commit s) (linkDown_of_down hdown)
  · exact fun lost => answers_of_neg rfl (not_or_intro (not_not_intro hl) (not_not_intro hup))
  · have hrise : MayRise s p := ⟨hl, hen, hret, hpow, hdown, hmods⟩
    exact ⟨fun hfar => fabricLinkUp_rises hrise hfar, fun htorus hfar => fabricLinkUp_wrongEnd hrise htorus hfar⟩
  · exact answers_of_pos rfl ⟨hl, hen, hpow, ne_true_of_eq_false hdown, hat⟩
  · exact (moduleDown_link hl (.fabric p) lost).trans (congrArg (commit s) (fabricModuleDown_runs hm))
  · exact (moduleDown_link hl (.fabric p) lost).trans (congrArg (commit s) (fabricModuleDown_falls hm))
  · exact (moduleDown_link hl (.hoof h) lost).trans (congrArg (commit s) ((if_pos hh).trans (hoofModuleDown_runs hn)))
  · exact (moduleDown_link hl (.host q) lost).trans (congrArg (commit s) (hostModuleDown_runs hq))
  · exact moduleDown_unit hl hu
  · obtain ⟨hmended, hmasked⟩ := unitFault_slice hk t.toNat
    have hslice : ∀ l n, FaultUnit.slice k ≠ .module l n := fun l n h => FaultUnit.noConfusion h
    exact ⟨(moduleDown_unit hl hslice).trans (congrArg (commit s) hmended), (moduleDown_unit hl hslice).trans (congrArg (commit s) hmasked)⟩

end Sys2Proof.Machine

/-!
The readmission of an absent device (R378, R382).
-/

namespace Sys2Proof.Machine

/-! ### Contributions go again, and nobody's absence changes -/

/-- Only the fabric and SCHED differ, and the same devices are absent. -/
def AbsenceStands (s r : State) : Prop := ∃ fab sched, r = { s with fab := fab, sched := sched } ∧ fab.absent = s.fab.absent

section

variable {s r w : State}

theorem AbsenceStands.refl (s : State) : AbsenceStands s s := ⟨_, _, rfl, rfl⟩

theorem AbsenceStands.trans (h : AbsenceStands s r) (h' : AbsenceStands r w) : AbsenceStands s w := by
  obtain ⟨_, _, rfl, habs⟩ := h
  obtain ⟨_, _, rfl, habs'⟩ := h'
  exact ⟨_, _, rfl, habs'.trans habs⟩

theorem SentOnly.absenceStands (h : SentOnly s r) : AbsenceStands s r := by
  obtain ⟨_, _, rfl⟩ := h
  exact ⟨_, _, rfl, rfl⟩

theorem absenceStands_putContrib (s : State) (c : Contrib) : AbsenceStands s (putContrib s c) := ⟨_, _, rfl, rfl⟩

theorem absenceStands_sendContrib (s : State) (d : BarD) (c : Contrib) : AbsenceStands s (sendContrib s d c) :=
  List.foldlRecOn (motive := AbsenceStands s) _ _ (AbsenceStands.refl s) fun r hr _ _ => hr.trans (sentOnly_sendPacket r _).absenceStands

theorem absenceStands_resendContribs (s : State) : AbsenceStands s (resendContribs s) := by
  refine List.foldlRecOn (motive := AbsenceStands s) _ _ (AbsenceStands.refl s) fun r hr c _ => hr.trans ?_
  dsimp only
  split
  · split_ifs
    · exact AbsenceStands.refl r
    · exact (absenceStands_putContrib r _).trans (absenceStands_sendContrib _ _ _)
  · exact AbsenceStands.refl r

end

/-! ### FABADMIT -/

section

variable {s : State} {d : DevId}

theorem csrWrite_fabadmit (s : State) (mask v : Nat) :
    csrWrite s (bSCHED + 0x618) mask v = if bitAt mask 0 then readmit s (bits v 11 0) else s :=
  csrWrite_sched s mask v (by decide)

theorem fabadmit_answers (hl : s.live = true) : Answers (.fabadmit d) s (readmit s d.toNat) := by
  refine answers_csrWrite8 rfl (csrReach_of_live hl _) ((csrWrite_fabadmit s _ _).trans ?_)
  rw [if_pos (by decide)]
  exact congrArg (readmit s) ((congrArg (· % 2 ^ 12) (Nat.div_one d.toNat)).trans (Nat.mod_eq_of_lt d.isLt))

theorem fabadmit_refused (hl : s.live = false) : Answers (.fabadmit d) s s :=
  congrArg (commit s) (if_neg (ne_true_of_eq_false hl))

/-- Of who is absent, and of all but the fabric and SCHED, a readmission changes the absence of d alone. -/
theorem readmit_eq (s : State) (d : Nat) :
    ∃ fab sched, readmit s d = { s with fab := fab, sched := sched } ∧ fab.absent = s.fab.absent.filter (fun x => x ≠ d) :=
  absenceStands_resendContribs { s with fab := { s.fab with absent := s.fab.absent.filter (fun x => x ≠ d) } }

theorem isAbsent_readmit (s : State) (d e : Nat) : isAbsent (readmit s d) e = (decide (e ≠ d) && isAbsent s e) := by
  obtain ⟨fab, sched, h, habs⟩ := readmit_eq s d
  simp only [h, isAbsent, habs, List.mem_filter, decide_eq_true_eq, and_comm, Bool.decide_and]

theorem fromAbsent_of_src {k : Packet} (hk : k.kind ≠ 0x05) (h : isAbsent s k.src.toNat = false) : fromAbsent s k = false := by
  unfold fromAbsent
  rw [if_neg hk, h, ite_self]

theorem fromAbsent_of_owner {k : Packet} {q : Nat} (hk : k.kind = 0x05) (ho : ownerOf s k = some q) (h : isAbsent s q = false) :
    fromAbsent s k = false := by
  simp only [fromAbsent, hk, ho, Option.any_some, h, if_true, ite_self]

end

/-- Settles O54: the write is `readmit`, whose second part resends contributions and leaves who is absent. -/
theorem fabadmitReadmits : Obligations.FabadmitReadmits := by
  refine fun d s => ⟨fun hl => ?_, fabadmit_refused⟩
  have hpresent : isAbsent (settle s (readmit s d.toNat)) d.toNat = false := by
    rw [show isAbsent (settle s _) = isAbsent (readmit s d.toNat) from rfl, isAbsent_readmit, decide_eq_false (not_not_intro rfl), Bool.false_and]
  refine ⟨_, fabadmit_answers hl, hpresent, fun k hk hsrc => fromAbsent_of_src hk (hsrc ▸ hpresent),
    fun k hk ho => fromAbsent_of_owner hk ho hpresent, fun e he => ?_, ?_, rfl⟩
  · exact (isAbsent_readmit s d.toNat e).trans (by rw [decide_eq_true he, Bool.true_and])
  · obtain ⟨fab, sched, h, -⟩ := readmit_eq s d.toNat
    rw [h]
    rfl

end Sys2Proof.Machine

/-!
Responses, releases and the messages between devices at the device that they name (R159, R350, R363, R369 to R371, R374 to R376, R382).
-/

namespace Sys2Proof.Machine

/-! ### Responses (Table 13-4, steps 3 to 5; R369, R371) -/

section

variable {s : State} {k : Packet} {e : Orig}

theorem mapOrig_eq (s : State) (e : Orig) (f : Orig → Orig) :
    mapOrig s (fun x => x = e) f = { s with fab := { s.fab with orig := s.fab.orig.map (fun x => if x = e then f x else x) } } := by
  simp only [mapOrig, decide_eq_true_eq]

theorem pendArrive_stale (h : answered s k = none) : pendArrive s k = bumpStale s := by
  simp only [pendArrive, h]

theorem pendArrive_answers (h : answered s k = some e) : pendArrive s k = { s with fab := { s.fab with
    orig := s.fab.orig.map (fun x => if x = e then { x with pend := true } else x) } } := by
  simp only [pendArrive, h, mapOrig_eq]

/-- The first part of a reply that comes in several is kept: the last has not come. -/
theorem rplyArrive_gathers (h : answered s k = some e) (hparts : e.parts = []) (hnone : e.lastPart = none) (hlast : k.last = false)
    (hretry : k.retry = false) : rplyArrive s k = { s with fab := { s.fab with
      orig := s.fab.orig.map (fun x => if x = e then { e with parts := [(k.part.toNat, k.payload)] } else x) } } := by
  simp only [rplyArrive, h, hparts, hnone, hlast, hretry, Orig.replyData, mapOrig_eq, List.any_nil, List.nil_append, Bool.false_eq_true, if_false]

end

/-! ### Releases (Table 13-4, step 6) -/

section

variable {s : State} {k : Packet} {hk : HKey} {t : Nat} {o : Op}

theorem relArrive_unheld (h : keyOf s k.src.toNat k.ticket.toNat = none) : relArrive s k = bumpStale s := by
  simp only [relArrive, h]

theorem relArrive_unreplied (h : keyOf s k.src.toNat k.ticket.toNat = some hk) (hst : hk.st ≠ .replied) : relArrive s k = bumpStale s := by
  simp only [relArrive, h, hst, if_false]

variable (s hk) in
/-- The key is released now. -/
def releasedKey : State := mapKey s (fun x => x = hk) (fun x => { x with st := .released, relAt := s.now })

theorem keys_releasedKey : (releasedKey s hk).fab.keys
    = s.fab.keys.map (fun x => if x = hk then { x with st := .released, relAt := s.now } else x) := by
  simp only [releasedKey, mapKey, decide_eq_true_eq]

theorem relArrive_releases (h : keyOf s k.src.toNat k.ticket.toNat = some hk) (hst : hk.st = .replied) :
    relArrive s k = freeKeySlot (releasedKey s hk) hk := by
  simp only [relArrive, h, hst, if_true]
  rfl

/-- A key whose slot holds its operation, complete, leaves it (R160). -/
theorem freeKeySlot_held (hslot : hk.slot = some t) (ho : s.op t = some o) (hkey : o.ofKey hk.src hk.ticket = true) (hph : o.phase = .held) :
    freeKeySlot s hk = leaveSlot s t o := by
  simp only [freeKeySlot, dropSlot, hslot, ho, hkey, hph, Option.bind_some, Option.map_some, if_true]

theorem fab_leaveSlot (s : State) (t : Nat) (o : Op) : (leaveSlot s t o).fab = s.fab := by
  unfold leaveSlot freeSlot
  split_ifs <;> rfl

/-- What the release of a reply that the originator has taken leaves: the slot free, or in quarantine after a retry, and the key released. -/
theorem relArrive_leaves (h : keyOf s k.src.toNat k.ticket.toNat = some hk) (hst : hk.st = .replied) (hslot : hk.slot = some t)
    (ho : s.op t = some o) (hkey : o.ofKey hk.src hk.ticket = true) (hph : o.phase = .held) :
    ((relArrive s k).slot t).st = (if o.retried then .quarantine o.doneAt else .free)
      ∧ (relArrive s k).fab.keys = s.fab.keys.map (fun x => if x = hk then { x with st := .released, relAt := s.now } else x) := by
  have hop : (releasedKey s hk).op t = some o := ho
  rw [relArrive_releases h hst, freeKeySlot_held hslot hop hkey hph, (slotLeft_leaveSlot _ t o).slot, fab_leaveSlot]
  exact ⟨rfl, keys_releasedKey⟩

end

/-! ### Barrier and control packets -/

section

variable {s : State} {k : Packet}

theorem barTake_sound (h : barPayloadOk k.payload = true) : barTake s k = barArrive s k := if_pos h

theorem barTake_malformed (h : barPayloadOk k.payload = false) : barTake s k = bumpFab0 s 63 48 := if_neg (ne_true_of_eq_false h)

/-- A contribution for a step without an accepted STCL is kept (R382). -/
theorem barArrive_early (h : barOf s (fieldAt k.payload 4 4) = none) : barArrive s k = putContrib s (parseContrib k.src.toNat k.payload) := by
  have hstep : (parseContrib k.src.toNat k.payload).step = fieldAt k.payload 4 4 := rfl
  simp only [barArrive, hstep, h]

/-- A beacon is heard whoever sent it; an absent sender's is counted as discarded too (Table 13-5). -/
theorem beacIn_reaches {p : FabPort} {q : Packet} (hq : { k with kind := 0x11 } = q) (h : reaches s p.toNat q = true) :
    beacIn s p k = noteBeacon (if fromAbsent (ecrcGood s p.toNat q) q then bumpFab1 (ecrcGood s p.toNat q) 47 32 1 else ecrcGood s p.toNat q)
      k.src.toNat := by
  obtain ⟨hsound, hdst⟩ := sound_of_reaches h (by rw [← hq]; rfl)
  subst hq
  refine (if_pos h).trans (congrArg (fun r => noteBeacon r k.src.toNat) ?_)
  refine (arrive_sound (k := { k with kind := 0x11 }) _ rfl hsound).trans ?_
  rw [if_neg (not_not_intro hdst)]

theorem exclArrive_self (h : fieldAt k.payload 0 2 % 4096 = s.dev) : exclArrive s k = failStop s .central 0xFF 0xFFFF k.src.toNat := if_pos h

theorem exclArrive_partner (h : fieldAt k.payload 0 2 % 4096 ≠ s.dev) (hsrc : isPartner s k.src.toNat = true)
    (hd : isPartner s (fieldAt k.payload 0 2 % 4096) = true) : exclArrive s k = declareAbsent s (fieldAt k.payload 0 2 % 4096) :=
  (if_neg h).trans (if_pos ⟨hsrc, hd⟩)

end

/-- Settles O42: a packet that reaches this device is given to the function of its kind, whose main cases are the lemmas above. -/
theorem repliesAndMessagesArrive : Obligations.RepliesAndMessagesArrive := by
  intro p k s q g bleatOk exclOk
  have excl : ∀ {r : State}, Reaches s p 0x13 k → exclOk → exclArrive (g 0x13) (q 0x13) = r → Answers (.excl p k) s r :=
    fun h hok hr => answers_reaches exclTake rfl h (by decide) ((if_pos hok).trans hr)
  refine ⟨fun h => answers_reaches _ rfl h (by decide) rfl, fun h => answers_reaches _ rfl h (by decide) rfl,
    fun h => answers_reaches _ rfl h (by decide) rfl, fun h => answers_reaches _ rfl h (by decide) rfl,
    fun h hok => answers_reaches _ rfl h (by decide) (barTake_sound hok),
    fun h hbad => answers_reaches _ rfl h (by decide) (barTake_malformed hbad),
    fun h => ?_, fun h ha => ?_,
    fun h hans => answers_reaches _ rfl h (by decide) (pendArrive_stale hans),
    fun e h hans => answers_reaches _ rfl h (by decide) (pendArrive_answers hans),
    fun e h hans hparts hnone hlast hretry => answers_reaches _ rfl h (by decide) (rplyArrive_gathers hans hparts hnone hlast hretry),
    fun h hkey => answers_reaches _ rfl h (by decide) (relArrive_unheld hkey), fun hk t o h hkey hst hslot ho hof hph => ?_,
    fun hk h hkey hst => answers_reaches _ rfl h (by decide) (relArrive_unreplied hkey hst),
    fun h hok hbar => answers_reaches _ rfl h (by decide) ((barTake_sound hok).trans (barArrive_early hbar)),
    fun h hok hself => ?_, fun h hok hother hsrc hd => ?_,
    fun h hok => answers_reaches bleatTake rfl h (by decide) (if_pos hok),
    fun h hbad => answers_reaches bleatTake rfl h (by decide) (if_neg hbad),
    fun h hok => excl h hok rfl, fun h hbad => answers_reaches exclTake rfl h (by decide) (if_neg hbad)⟩
  · exact congrArg (commit s) ((beacIn_reaches rfl h.1).trans (by rw [if_neg (ne_true_of_eq_false h.2)]; rfl))
  · exact congrArg (commit s) ((beacIn_reaches rfl h).trans (by rw [if_pos ha]))
  · obtain ⟨hfree, hkeys⟩ := relArrive_leaves (k := q 0x0A) hkey hst hslot ho hof hph
    exact ⟨_, answers_reaches relArrive rfl h (by decide) rfl, hfree, hkeys⟩
  · exact excl h hok (exclArrive_self (hself.trans (dev_ecrcGood s _ _).symm))
  · exact excl h hok (exclArrive_partner (fun heq => hother (heq.trans (dev_ecrcGood s _ _))) ((isPartner_ecrcGood s _ _ _).trans hsrc)
      ((isPartner_ecrcGood s _ _ _).trans hd))

end Sys2Proof.Machine

/-!
Packets for other devices, and those that a port discards (R54, R359 to R361, R363, R365, R366, R370, R377).
-/

namespace Sys2Proof.Machine

/-! ### Passing on (R359 to R361, R366) -/

section

variable {s : State} {p : Nat} {k : Packet}

theorem forwardPacket_spent (h : k.hb = 0) : forwardPacket s p k = bumpFab0 s 31 16 := if_pos h

/-- The packet with a hop less, and without a direction where its dimension is done. -/
def hopped (s : State) (p : Nat) (k : Packet) : Packet :=
  let k1 := { k with hb := k.hb - 1 }
  if p < 12 ∧ coord k.dst.toNat (p / 4) = coord s.dev (p / 4) then { k1 with dir := 0 } else k1

theorem forwardPacket_departs (h : k.hb ≠ 0) : forwardPacket s p k = depart s (hopped s p k) (some p) s.now := if_neg h

theorem depart_unroutable (hf : s.failstop = false) (h : route s k = none) (from_ : Option Nat) (at_ : Nat) :
    depart s k from_ at_ = bumpFab0 s 47 32 := by
  simp only [depart, hf, h, Bool.false_eq_true, if_false]

theorem depart_routed {o d : Nat} (hf : s.failstop = false) (h : route s k = some (o, d)) (from_ : Option Nat) (at_ : Nat) :
    depart s k from_ at_
      = { s with fab := { s.fab with egress := enqueue s.fab.egress { port := o, pk := dressed k d, from_ := from_, at_ := at_ } } } := by
  simp only [depart, hf, h, Bool.false_eq_true, if_false]

end

/-! ### PACKET_FORWARD -/

section

variable {s : State} {p : FabPort} {k : Packet} {r : State}

theorem packetForward_answers (h : arrive s p k.kind k (fun s _ => s) = r) : Answers (.packetForward p k) s r := congrArg (commit s) h

/-- A sound packet from a present device for another one is handed on. -/
theorem packetForward_passes (h : Sound s p k) (ha : fromAbsent (ecrcGood s p.toNat k) k = false) (hd : k.dst.toNat ≠ (ecrcGood s p.toNat k).dev)
    (hr : forwardPacket (ecrcGood s p.toNat k) p.toNat k = r) : Answers (.packetForward p k) s r :=
  packetForward_answers ((arrive_passes _ rfl h ha fun heq => hd (heq.trans (dev_ecrcGood s _ _).symm)).trans hr)

/-- It waits at its port, or is discarded where no port is usable (R361). -/
theorem packetForward_departs (h : Sound s p k) (ha : fromAbsent (ecrcGood s p.toNat k) k = false) (hd : k.dst.toNat ≠ (ecrcGood s p.toNat k).dev)
    (hb : k.hb ≠ 0)
    (hr : depart (ecrcGood s p.toNat k) (hopped (ecrcGood s p.toNat k) p.toNat k) (some p.toNat) (ecrcGood s p.toNat k).now = r) :
    Answers (.packetForward p k) s r :=
  packetForward_passes h ha hd ((forwardPacket_departs hb).trans hr)

end

/-! ### RESIDENCY_DISCARD (R366) -/

theorem exec_residencyDiscard {s : State} {i : Nat} {e : Leaving} (h : s.fab.egress[i]? = some e) : exec (.residencyDiscard i) s
    = commit s (if e.from_.isSome ∧ s.live ∧ s.mgmt.refclk then
        bumpFab0 { s.atLeast (e.at_ + 6401) with fab := { s.fab with egress := s.fab.egress.eraseIdx i } } 15 0 else s) := by
  change execResidencyDiscard i s = _
  simp only [execResidencyDiscard, h]
  rfl

/-- Settles O43: the cases of `arrive`, and of `forwardPacket` for a sound packet of another device. -/
theorem packetsOfOthersPassOn : Obligations.PacketsOfOthersPassOn := by
  refine ⟨fun p k s => ⟨fun hdown => ⟨?_, ?_⟩, fun hl hup => ⟨?_, fun hheld => ?_,
      fun hroom => ⟨fun hecrc => ?_, fun hecrc hbad => ?_, fun hecrc hwell hkind => ?_⟩⟩⟩,
    fun i e s he => ⟨fun q hq hl hc => ?_, fun hstays => ?_⟩⟩
  · exact packetForward_answers (arrive_down _ hdown)
  · exact answers_of_neg rfl fun ⟨hl, hup⟩ => hdown.elim (fun h => ne_true_of_eq_false h hl) fun h => ne_true_of_eq_false h hup
  · exact answers_of_pos rfl ⟨hl, hup⟩
  · exact packetForward_answers (arrive_heldBack _ rfl hl hup hheld)
  · exact packetForward_answers (arrive_corrupt _ rfl hl hup hroom hecrc)
  · exact packetForward_answers (arrive_malformed _ rfl hl hup hroom hecrc hbad)
  · have hsound : Sound s p k := ⟨hl, hup, hroom, hecrc, hwell, hkind⟩
    have hworks : (ecrcGood s p.toNat k).failstop = false := (failstop_ecrcGood s _ _).trans (failstop_of_live hl)
    refine ⟨fun ha => packetForward_answers (arrive_absent _ rfl hsound ha), fun ha hd => packetForward_passes hsound ha hd rfl,
      fun ha hd hb => packetForward_passes hsound ha hd (forwardPacket_spent hb), fun ha hd hb => ⟨fun hr => ?_, fun o d hr => ?_⟩⟩
    · exact packetForward_departs hsound ha hd hb (depart_unroutable hworks hr _ _)
    · exact packetForward_departs hsound ha hd hb (depart_routed hworks hr _ _)
  · exact answers_of_pos (exec_residencyDiscard he) ⟨by rw [hq]; rfl, hl, hc⟩
  · refine answers_of_neg (exec_residencyDiscard he) ?_
    rintro ⟨hfrom, hl, hc⟩
    obtain hnone | hdead | hstill := hstays
    · rw [hnone] at hfrom
      exact Bool.false_ne_true hfrom
    · exact ne_true_of_eq_false hdead hl
    · exact ne_true_of_eq_false hstill hc

end Sys2Proof.Machine

/-!
The memory's own events: the scrub (R393), refresh (R389), patches that finish moving (R414), and parity writes (R400, R401).
-/

namespace Sys2Proof.Machine

/-! ### The scrub (R393) -/

section

variable {s : State} {h : HoofId} {ch : BitVec 5} {acc : BitVec 27} {e1 e2 : List (Fin 38 × BitVec 16)}

/-- The scrub may read the access: the stack is at work, no warm reset is under way, and the channel, scrubbed at all, has the access. -/
def MayScrub (s : State) (h : HoofId) (acc : BitVec 27) : Prop :=
  stackUp s h.val = true ∧ s.phase = .up ∧ fld (s.hoof h.val).href 15 8 ≠ 0 ∧ acc.toNat < channelAccesses (s.hoof h.val)

/-- The access is noted as read by the running pass. -/
def noteScrub (s : State) (h ch acc : Nat) : State := s.setHoof h { s.hoof h with scrubs := (s.hoof h).scrubs ++ [(ch, acc)] }

theorem scrub_notedAlready (hs : MayScrub s h acc) (hmem : (ch.toNat, acc.toNat) ∈ ((scrubPass s h.val ch.toNat).hoof h.val).scrubs) :
    Answers (.scrub h ch acc e1 e2) s (scrubPass s h.val ch.toNat) :=
  congrArg (commit s) ((if_pos hs).trans (if_pos hmem))

theorem scrub_reads (hs : MayScrub s h acc) (hnew : (ch.toNat, acc.toNat) ∉ ((scrubPass s h.val ch.toNat).hoof h.val).scrubs) :
    Answers (.scrub h ch acc e1 e2) s
      (readAccess (noteScrub (scrubPass s h.val ch.toNat) h.val ch.toNat acc.toNat) none h.val ch.toNat (acc.toNat * 64) (errNums e1) (errNums e2)) :=
  congrArg (commit s) ((if_pos hs).trans (if_neg hnew))

theorem scrub_off (hoff : stackUp s h.val = false ∨ s.phase ≠ .up) : Answers (.scrub h ch acc e1 e2) s s :=
  answers_of_neg rfl fun ⟨hup, hphase, _⟩ => hoff.elim (fun hdown => ne_true_of_eq_false hdown hup) fun hne => hne hphase

/-- Before the period has ended the running pass goes on. -/
theorem scrubPass_early {g : Nat} (c : Nat) (hearly : (s.hoof g).ltime - (s.hoof g).scrubAt < scrubPeriod (s.hoof g)) : scrubPass s g c = s :=
  if_pos (Nat.div_eq_of_lt hearly)

/-- A code word without an error is read once and changes nothing (Table 14-4). -/
theorem readAccess_clean {g c off : Nat} {errs : List (Nat × Nat)} (t : Option Nat) (errs2 : List (Nat × Nat))
    (hclean : eccDecode (flipSyms (eccWord s g c off) errs) = .clean) : readAccess s t g c off errs errs2 = s := by
  simp only [readAccess, readOnce, hclean]

/-- The codeword is that of the DRAM, which a note of the scrub leaves. -/
theorem eccWord_noteScrub (g c a g' c' off : Nat) : eccWord (noteScrub s g c a) g' c' off = eccWord s g' c' off := rfl

/-- A clean access, new to a pass within its period, is noted and no more. -/
theorem scrub_clean (hs : MayScrub s h acc) (hnew : (ch.toNat, acc.toNat) ∉ (s.hoof h.val).scrubs)
    (hearly : (s.hoof h.val).ltime - (s.hoof h.val).scrubAt < scrubPeriod (s.hoof h.val))
    (hclean : eccDecode (eccWord s h.val ch.toNat (acc.toNat * 64)) = .clean) :
    Answers (.scrub h ch acc [] e2) s (noteScrub s h.val ch.toNat acc.toNat) := by
  have hpass : scrubPass s h.val ch.toNat = s := scrubPass_early _ hearly
  have hread := scrub_reads (e1 := []) (e2 := e2) hs (by rwa [hpass])
  rw [hpass] at hread
  exact hread.trans (congrArg (commit s) (readAccess_clean none _ ((congrArg eccDecode (eccWord_noteScrub ..)).trans hclean)))

end

/-! ### Refresh (R389) -/

section

variable {s : State}

/-- The stack's Hoof runs and its stack is trained, not in self-refresh and not lost. -/
def MayRefresh (s : State) (h : HoofId) : Prop :=
  h.val < s.part.hoofs ∧ (s.hoof h.val).haon = true ∧ (s.hoof h.val).refclk = true ∧ flag (s.hoof h.val).hmem 24 = true
    ∧ ¬ flag (s.hoof h.val).href 1 = true ∧ ¬ lostStack s h.val = true

/-- The banks refreshed after one more refresh; a channel whose 128 banks are all done begins again (notes/assumptions/41). -/
def refreshedAfter (k : Hoof) (ch bank : Nat) : List Nat :=
  let r := (if flag k.href 0 then [bank] else List.range 128).foldl (fun l b => addNew l (ch * 128 + b)) k.refreshed
  if (List.range 128).all (fun b => decide (ch * 128 + b ∈ r)) then r.filter (fun x => x / 128 ≠ ch) else r

theorem not_mem_addNew {κ : Type} [DecidableEq κ] {l : List κ} {x y : κ} (hx : x ∉ l) (hne : x ≠ y) : x ∉ addNew l y := by
  unfold addNew
  split
  · exact hx
  · simp [hx, hne]

/-- A bank refreshed alone is noted while another of its channel is still to come. -/
theorem mem_refreshedAfter {k : Hoof} {ch bank b : Nat} (hpbr : flag k.href 0 = true) (hb : b < 128) (hne : b ≠ bank)
    (hopen : ch * 128 + b ∉ k.refreshed) : ch * 128 + bank ∈ refreshedAfter k ch bank := by
  have hstill : ch * 128 + b ∉ addNew k.refreshed (ch * 128 + bank) := not_mem_addNew hopen (by omega)
  have hpart : ¬ (List.range 128).all (fun b => decide (ch * 128 + b ∈ addNew k.refreshed (ch * 128 + bank))) = true :=
    fun hall => hstill (of_decide_eq_true (List.all_eq_true.mp hall b (List.mem_range.mpr hb)))
  simp only [refreshedAfter, hpbr, if_true, List.foldl_cons, List.foldl_nil, if_neg hpart]
  exact mem_addNew_self _ _

theorem dramRefresh_notes {h : HoofId} (hr : MayRefresh s h) (ch : BitVec 5) (bank : BitVec 7) : Answers (.dramRefresh h ch bank) s
    (s.setHoof h.val { s.hoof h.val with refreshed := refreshedAfter (s.hoof h.val) ch.toNat bank.toNat }) :=
  answers_of_pos rfl hr

theorem dramRefresh_off {h : HoofId} (hr : ¬ MayRefresh s h) (ch : BitVec 5) (bank : BitVec 7) : Answers (.dramRefresh h ch bank) s s :=
  answers_of_neg rfl hr

end

/-! ### Patches (R414) -/

section

variable {s : State} {h : HoofId} {ch : BitVec 5} {pa : BitVec 13} {q : Patch}

theorem exec_patchMoveDone (hq : patchOf s h.val ch.toNat pa.toNat = some q) : exec (.patchMoveDone h ch pa) s
    = commit s (if stackUp s h.val ∧ q.state = 0 then
        startMove (setPatch (rebuildPatch s h.val ch.toNat pa.toNat) h.val ch.toNat pa.toNat 1) h.val ch.toNat else s) := by
  change execPatchMoveDone h ch pa s = _
  simp only [execPatchMoveDone, hq]

end

/-! ### Parity (R400, R401) -/

section

variable {s : State} {i : Nat}

theorem exec_parityDelta {e : Delta} (he : s.deltas[i]? = some e) : exec (.parityDelta i) s
    = commit s (if stackUp s e.hoof then writeDelta { s with deltas := s.deltas.eraseIdx i } e else s) := by
  change execParityDelta i s = _
  simp only [execParityDelta, he]

variable {e : Full}

/-- Nothing more comes to the combination: it is whole, or the operation that wrote has ended. -/
def Full.Done (s : State) (e : Full) : Prop := e.complete = true ∨ ∀ o, s.op e.slot = some o → o.phase ≠ .running

theorem fullStripeComplete_writes (he : s.fulls[i]? = some e) (hdone : e.Done s) (hup : stackUp s e.hoof = true) :
    Answers (.fullStripeComplete i) s (writeFull { s with fulls := s.fulls.eraseIdx i } e) := by
  change execFullStripeComplete i s = _
  simp only [execFullStripeComplete, he]
  refine congrArg (commit s) (if_pos ⟨hdone.imp_right fun hended => ?_, hup⟩)
  cases hop : s.op e.slot with
  | none => rfl
  | some o => exact decide_eq_true (hended o hop)

theorem fullStripeComplete_off (he : s.fulls[i]? = some e) (hdown : stackUp s e.hoof = false) : Answers (.fullStripeComplete i) s s := by
  change execFullStripeComplete i s = _
  simp only [execFullStripeComplete, he]
  exact congrArg (commit s) (if_neg fun ⟨_, hup⟩ => ne_true_of_eq_false hdown hup)

theorem length_parity (s : State) (e : Full) : (e.parity s).length = 256 := by simp [Full.parity]

/-- Without held deltas a whole combination is its parity chunk. -/
theorem parity_of_complete (hd : s.deltas = []) (hc : e.complete = true) : e.parity s = (List.range 256).map (fun i => e.bytes.getD i 0) := by
  simp [Full.parity, heldXor, hd, hc]

theorem putLine_dram (s : State) (h ch off : Nat) (bs : List Byte) : (putLine s h ch off bs).dram = writeBytes s.dram (physKey h ch off) bs := rfl

theorem writeFull_dram (s : State) (e : Full) : (writeFull s e).dram = writeBytes s.dram (physKey e.hoof e.ch e.off) (e.parity s) := by
  rw [writeFull, State.setHoof_dram, putLine_dram]

theorem writeFull_line (s : State) (e : Full) : readBytes (writeFull s e).dram (physKey e.hoof e.ch e.off) 256 = e.parity s := by
  rw [writeFull_dram, readBytes_writeBytes_of_length (length_parity s e)]

theorem writeFull_outside (s : State) (e : Full) {a : Nat} (ha : a < physKey e.hoof e.ch e.off ∨ physKey e.hoof e.ch e.off + 256 ≤ a) :
    mget (fun _ => 0) (writeFull s e).dram a = mget (fun _ => 0) s.dram a := by
  rw [writeFull_dram, mget_writeBytes_out _ _ _ _ (by rwa [length_parity])]

theorem writeFull_keeps (s : State) (e : Full) :
    (writeFull s e).fulls = s.fulls ∧ (writeFull s e).store = s.store ∧ (writeFull s e).cores = s.cores := by
  unfold writeFull
  generalize e.parity s = bs
  exact ⟨rfl, rfl, rfl⟩

theorem writeFull_counts (s : State) (e : Full) : ((writeFull s e).hoof e.hoof).parcnt = bump (s.hoof e.hoof).parcnt 63 32 1 :=
  congrArg Hoof.parcnt (State.hoof_setHoof_same _ _ _)

end

/-- Settles O46: each event is its guard and its function; a refresh notes banks of its Hoof alone, and a combination leaves its line and its count. -/
theorem stackServiceEvents : Obligations.StackServiceEvents := by
  refine ⟨fun h ch acc e1 e2 s => ⟨fun hup hphase hon hacc => ?_, scrub_off⟩, fun h ch bank s => ?_,
    fun h ch pa q s hq => ⟨fun hup hmoves => ?_, fun hoff => ?_⟩,
    fun i e s he => ⟨fun hup => ?_, fun hdown => ?_⟩, fun i e s he hdone => ⟨fun hup => ?_, fullStripeComplete_off he⟩⟩
  · have hs : MayScrub s h acc := ⟨hup, hphase, hon, hacc⟩
    refine ⟨scrub_notedAlready hs, scrub_reads hs, fun hnew hearly herr hclean => ?_⟩
    subst herr
    exact scrub_clean hs hnew hearly hclean
  · by_cases hr : MayRefresh s h
    · exact ⟨_, dramRefresh_notes hr ch bank, rfl, by simp, fun g hg => State.hoof_setHoof_ne s _ hg, rfl, rfl,
        fun _ _ _ _ _ _ hpbr ⟨b, hb, hne, hopen⟩ => by simpa using mem_refreshedAfter hpbr hb hne hopen⟩
    · refine ⟨_, dramRefresh_off hr ch bank, rfl, rfl, fun g _ => rfl, rfl, rfl, fun hh haon hclk htrained hsr hlost => ?_⟩
      exact absurd ⟨hh, haon, hclk, htrained, ne_true_of_eq_false hsr, ne_true_of_eq_false hlost⟩ hr
  · exact answers_of_pos (exec_patchMoveDone hq) ⟨hup, hmoves⟩
  · exact answers_of_neg (exec_patchMoveDone hq) fun ⟨hup, hmoves⟩ => hoff.elim (fun hdown => ne_true_of_eq_false hdown hup) fun hne => hne hmoves
  · exact answers_of_pos (exec_parityDelta he) hup
  · exact answers_of_neg (exec_parityDelta he) (ne_true_of_eq_false hdown)
  · obtain ⟨hfulls, hstore, hcores⟩ := writeFull_keeps { s with fulls := s.fulls.eraseIdx i } e
    refine ⟨_, fullStripeComplete_writes he hdone hup, hfulls, ?_, fun hc hd => ?_, fun a ha => ?_, hstore, hcores, ?_⟩
    · rw [State.settle_dram, writeFull_line]
    · rw [State.settle_dram, writeFull_line]
      exact parity_of_complete hd hc
    · rw [State.settle_dram, writeFull_outside _ e ha]
    · rw [State.settle_hoof, writeFull_counts]
      rfl

end Sys2Proof.Machine

/-!
A device in fail-stop (R423, R424, notes/assumptions/42): what the operations that commands share do where the device does not work.
-/

namespace Sys2Proof.Machine

/-! ### The work of the block -/

/-- FAILSTOP, and the work that R423 holds still: cores, slots, open steps, streams, the store and DRAM. -/
def workOf (s : State) := (flag s.mgmt.fltstat 61, s.cores, s.slots, s.steps, s.strms, s.store, s.dram)

theorem workOf_eq_iff {s r : State} : workOf r = workOf s ↔ r.failstop = s.failstop ∧ r.cores = s.cores ∧ r.slots = s.slots
    ∧ r.steps = s.steps ∧ r.strms = s.strms ∧ r.store = s.store ∧ r.dram = s.dram := by
  simp only [workOf, Prod.mk.injEq, State.failstop]

section

variable {s r w : State}

/-! The registers and what a reset phase notes are no part of it, but for FLTSTAT.FAILSTOP. -/

@[simp] theorem workOf_withMgmt {m : Mgmt} (h : flag m.fltstat 61 = flag s.mgmt.fltstat 61) : workOf { s with mgmt := m } = workOf s :=
  workOf_eq_iff.mpr ⟨h, rfl, rfl, rfl, rfl, rfl, rfl⟩

@[simp] theorem workOf_withSched (s : State) (x : Sched) : workOf { s with sched := x } = workOf s := rfl

@[simp] theorem workOf_withUnits (s : State) (x : Units) : workOf { s with units := x } = workOf s := rfl

@[simp] theorem workOf_withFab (s : State) (x : FabSt) : workOf { s with fab := x } = workOf s := rfl

@[simp] theorem workOf_withWrstHeld (s : State) (x : Bool) : workOf { s with wrstHeld := x } = workOf s := rfl

@[simp] theorem workOf_setHoof (s : State) (h : Nat) (k : Hoof) : workOf (s.setHoof h k) = workOf s := rfl

@[simp] theorem workOf_setHport (s : State) (p : Nat) (k : HPort) : workOf (s.setHport p k) = workOf s := rfl

@[simp] theorem workOf_setFport (s : State) (p : Nat) (k : FPort) : workOf (s.setFport p k) = workOf s := rfl

@[simp] theorem workOf_addLogAt (s : State) (die : Die) (cls code unit ticket stream detail : Nat) :
    workOf (addLogAt s die cls code unit ticket stream detail) = workOf s := workOf_withMgmt rfl

@[simp] theorem workOf_addLog (s : State) (cls code unit detail : Nat) : workOf (addLog s cls code unit detail) = workOf s :=
  workOf_addLogAt ..

theorem workOf_ite {c : Prop} [Decidable c] (h : workOf r = workOf s) (h' : workOf w = workOf s) : workOf (if c then r else w) = workOf s := by
  split
  · exact h
  · exact h'

theorem workOf_foldl {α : Type} {f : State → α → State} (hf : ∀ s a, workOf (f s a) = workOf s) (l : List α) (s : State) :
    workOf (l.foldl f s) = workOf s := by
  induction l generalizing s with
  | nil => rfl
  | cons a l ih => exact (ih _).trans (hf s a)

theorem failstop_of_workOf (h : workOf r = workOf s) (hf : s.failstop = true) : r.failstop = true :=
  (workOf_eq_iff.mp h).1.trans hf

end

/-! ### A device that does not work: cores and operations -/

theorem not_live_of_failstop {s : State} (hf : s.failstop = true) : ¬ s.live = true :=
  fun hl => ne_true_of_eq_false (failstop_of_live hl) hf

section

variable {i : Instr} {s r : State} {t opc : Nat} (hl : ¬ s.live = true)

theorem answers_self (hx : exec i s = commit s r) (hr : r = s) : Answers i s s := hx.trans (congrArg (commit s) hr)

/-- What is issued has not been accepted, so it is no operation that a trial or a context operation waits for. -/
theorem phase_of_isIssued (h : isIssued s t opc = true) : ∃ o, s.op t = some o ∧ o.phase = .issued := by
  unfold isIssued at h
  split at h
  · exact ⟨_, ‹_›, of_decide_eq_true (Bool.and_eq_true_iff.mp h).1⟩
  · exact nomatch h

theorem quiesceFor_of_issued (h : isIssued s t opc = true) : quiesceFor s t = s := by
  obtain ⟨o, ho, hp⟩ := phase_of_isIssued h
  simp [quiesceFor, ho, hp]

include hl

theorem coreReady_of_not_live (c : Nat) : ¬ coreReady s c = true := by
  simp [coreReady, coreFree, hl]

theorem scalar_of_not_live (c n maj func : Nat) (ok : Bool) (f : Core → State) : scalar s c n maj func ok f = s :=
  if_pos (coreReady_of_not_live hl c)

theorem scalar_stands {c n maj func : Nat} {ok : Bool} {f : Core → State} (hx : exec i s = commit s (scalar s c n maj func ok f)) :
    Answers i s s :=
  answers_self hx (scalar_of_not_live hl ..)

theorem engineWord_stands (c : CoreId) (w : BitVec 128) : Answers (.engineWord c w) s s := by
  refine answers_self rfl ?_
  split
  · exact ite_eq_left_iff.mpr fun _ => scalar_of_not_live hl ..
  · exact if_pos (coreReady_of_not_live hl c.toNat)

theorem running_of_not_live : running s t opc = none :=
  Option.eq_none_iff_forall_ne_some.mpr fun _ h => hl (running_eq_some_iff.mp h).2.2.2

theorem acceptTurn_of_not_live : ¬ acceptTurn s t = true := by
  unfold acceptTurn
  cases s.op t <;> simp [hl]

theorem acceptOp_of_not_live (need : State → Op → Bool) (chk : State → Op → Chk) : acceptOp s t need chk = s :=
  if_pos (acceptTurn_of_not_live hl)

theorem opRow_of_not_live (need : State → Op → Bool) (chk : State → Op → Chk) (work : State → Op → State) :
    opRow s t opc need chk work = s := by
  simp only [opRow, acceptOp_of_not_live hl, running_of_not_live hl, ite_self]

theorem opRow_stands {w : OpRow} (hi : opRowOf i = some w) : Answers i s s :=
  answers_self (exec_opRow hi s) (opRow_of_not_live hl ..)

theorem microRow_stands {t : SlotId} {u op : Nat} {f : MicroF} (hi : microRowOf i = some (t, u, op, f)) : Answers i s s := by
  refine answers_self (exec_microRow hi s) ?_
  simp only [microRow, updUnit, running_of_not_live hl]

theorem vopAt_of_not_live (x : Nat) : vopAt s x = none := by
  unfold vopAt
  split
  · rw [running_of_not_live hl]
    rfl
  · rfl

theorem vecRow_stands {x : Fin 8} {op : Nat} {f : VecF} (hi : vecRowOf i = some (x, op, f)) : Answers i s s :=
  vecRow_unnamed hi (by simp only [vecNext, vopAt_of_not_live hl])

theorem upd_stands (t : SlotId) : Answers (.upd t) s s := by
  refine answers_self rfl ?_
  dsimp only
  rw [opRow_of_not_live hl]
  split
  · obtain ⟨o, ho, hp⟩ := phase_of_isIssued ‹_›
    simp [markTrial, ho, hp]
  · rfl

theorem ctxs_stands (t : SlotId) : Answers (.ctxs t) s s := by
  refine answers_self rfl ?_
  dsimp only
  rw [opRow_of_not_live hl]
  exact ite_eq_right_iff.mpr quiesceFor_of_issued

theorem ctxr_stands (t : SlotId) : Answers (.ctxr t) s s := by
  refine answers_self rfl ?_
  dsimp only
  rw [opRow_of_not_live hl]
  exact ite_eq_right_iff.mpr quiesceFor_of_issued

theorem stcl_stands (t : SlotId) : Answers (.stcl t) s s :=
  answers_of_neg rfl fun h => acceptTurn_of_not_live hl h.2

theorem stop_stands (t : SlotId) : Answers (.stop t) s s :=
  answers_of_neg rfl fun h => acceptTurn_of_not_live hl h.2

theorem fenc_stands (t : SlotId) : Answers (.fenc t) s s := by
  refine answers_self rfl ?_
  rw [acceptOp_of_not_live hl]
  split
  · rfl
  · split
    · exact if_neg fun h => hl h.2.2.1
    · rfl

theorem stepOpening_stands : Answers .stepOpening s s := by
  refine answers_self rfl ?_
  unfold stepOpening
  split
  · exact if_pos (.inr (.inl hl))
  · rfl

theorem roundA_stands (n : W32) : Answers (.roundA n) s s := by
  refine answers_self rfl ?_
  split
  · split
    · exact if_neg fun h => hl h.1
    · rfl
  · rfl

theorem roundB_stands (n : W32) : Answers (.roundB n) s s := by
  refine answers_self rfl ?_
  split
  · exact (if_neg fun h => hl h.1).trans (if_neg fun h => hl h.1)
  · rfl

theorem roundBDone_stands (n : W32) : Answers (.roundBDone n) s s := by
  refine answers_self rfl ?_
  split
  · exact if_pos hl
  · rfl

theorem dispatch_stands (t : SlotId) : Answers (.dispatch t) s s := by
  refine answers_self rfl ?_
  split
  · exact if_neg (by simp [dispatchable, hl])
  · rfl

theorem blockRelease_stands (t : SlotId) (u : Nat) : Answers (.blockRelease t u) s s :=
  answers_self rfl (by simp only [releaseUnit, updUnit, running_of_not_live hl])

theorem antlerReport_stands (t : SlotId) (h : HoofId) (a : Fin 8) : Answers (.antlerReport t h a) s s :=
  answers_self rfl (by simp only [antlerReport, running_of_not_live hl])

theorem shadowVerdict_stands (t : SlotId) (u : Nat) (v : Verdict) : Answers (.shadowVerdict t u v) s s :=
  answers_self rfl (by simp only [shadowVerdict, running_of_not_live hl])

theorem nld_stands (x : Fin 8) (f : VecF) : Answers (.nld x f) s s :=
  answers_self rfl (by simp only [vopAt_of_not_live hl])

theorem seatPlans_of_not_live : seatPlans s = s := by
  refine List.foldl_fixed' (fun n => ?_) _
  unfold seatPlan
  split
  · simp [hl]
  · rfl

theorem bucketTrigger_stands (n : W32) (b : BitVec 12) : Answers (.bucketTrigger n b) s s := by
  refine answers_self rfl ?_
  unfold bucketTrigger
  rw [seatPlans_of_not_live hl]
  dsimp only
  split
  · rfl
  · exact if_neg fun h => hl h.1

end
end Sys2Proof.Machine

/-!
Registers, the management port, timers and ticks of a device in fail-stop (R423, R424).
-/

namespace Sys2Proof.Machine

/-! ### Commands that leave the work -/

/-- The command changes nothing of the work. -/
def LeavesWork (i : Instr) (s : State) : Prop := ∃ r, Answers i s r ∧ workOf r = workOf s

section

variable {i : Instr} {s r : State}

theorem LeavesWork.of_stands (h : Answers i s s) : LeavesWork i s := ⟨s, h, rfl⟩

theorem LeavesWork.of_commit (hx : exec i s = commit s r) (hr : workOf r = workOf s) : LeavesWork i s := ⟨r, hx, hr⟩

end

/-! ### Registers (R16, R423) -/

section

variable {s : State}

@[simp] theorem workOf_logReserved (s : State) (off : Nat) (bad : Bool) : workOf (logReserved s off bad) = workOf s :=
  workOf_ite (workOf_addLog ..) rfl

@[simp] theorem workOf_logIgnored (s : State) (off : Nat) : workOf (logIgnored s off) = workOf s := workOf_addLog ..

theorem applyPolicies_of_failstop (hf : s.failstop = true) : applyPolicies s = s := if_neg fun h => h.2 hf

theorem workOf_writePwrctl (hf : s.failstop = true) (mask v : Nat) : workOf (writePwrctl s mask v) = workOf s := by
  have hpol : ∀ r, workOf r = workOf s → workOf (applyPolicies r) = workOf s := fun r hr => by
    rwa [applyPolicies_of_failstop (failstop_of_workOf hr hf)]
  refine hpol _ (workOf_ite ?_ ?_)
  · simp
  · simp

@[simp] theorem workOf_withTherm (s : State) (w : W64) : workOf (withTherm s w) = workOf s := workOf_withMgmt rfl

@[simp] theorem workOf_thermAlarm (s : State) : workOf (thermAlarm s) = workOf s := by
  by_cases hb : fld s.mgmt.therm 7 0 < fld s.mgmt.therm 23 16
  · rw [thermAlarm_below s hb]
  · obtain hs | ⟨die, temp, hs⟩ := thermAlarm_reached s (Nat.not_lt.mp hb)
    · rw [hs, workOf_withTherm]
    · rw [hs, workOf_addLogAt, workOf_withTherm]

theorem flag_w1c_ne {w : W64} {mask v i j : Nat} (hj : j < 64) (hne : j ≠ i) : flag (w1c w mask v i) j = flag w j := by
  unfold w1c
  split
  · exact flag_setFld_disjoint _ le_rfl hj (by omega)
  · rfl

/-- FAILSTOP is read-only (Table 15-6), and a stopped device applies no policy. -/
theorem workOf_writeMgmt (hf : s.failstop = true) (o mask v : Nat) : workOf (writeMgmt s o mask v) = workOf s := by
  unfold writeMgmt
  split_ifs
  · exact workOf_withMgmt rfl
  · exact workOf_withMgmt rfl
  · exact workOf_withMgmt (flag_w1c_ne (by decide) (by decide))
  · exact workOf_withMgmt rfl
  · exact workOf_writePwrctl hf mask v
  · rw [workOf_thermAlarm]
    exact workOf_withMgmt rfl
  · rfl

/-- Of CSR space a stopped device serves MGMT alone. -/
theorem workOf_csrWrite8 (hf : s.failstop = true) (off v : Nat) : workOf (csrWrite8 s off v) = workOf s := by
  unfold csrWrite8
  by_cases hm : off < bSCHED
  · rw [csrWrite_mgmt s _ _ hm]
    exact workOf_ite (workOf_writeMgmt hf ..) rfl
  · rw [csrReach, if_neg hm, if_neg (not_live_of_failstop hf)]

@[simp] theorem workOf_csrReadFx (s : State) (off : Nat) (lo hi : Bool) : workOf (csrReadFx s off lo hi) = workOf s := by
  unfold csrReadFx
  dsimp only
  refine workOf_ite (workOf_withMgmt rfl) <| workOf_ite (workOf_withSched ..) <| workOf_ite (workOf_ite (workOf_withSched ..) rfl) <|
    workOf_ite (workOf_withSched ..) <| workOf_ite (workOf_withSched ..) <| workOf_ite (workOf_withSched ..) <|
    workOf_ite (workOf_withUnits ..) <| workOf_ite (workOf_withUnits ..) <| workOf_ite (workOf_withUnits ..) <|
    workOf_ite (workOf_withUnits ..) <| workOf_ite (workOf_withUnits ..) <| workOf_ite (workOf_withUnits ..) <|
    workOf_ite (workOf_setHport ..) <| workOf_ite (workOf_setFport ..) <| workOf_ite ?_ rfl
  exact workOf_ite (workOf_setHoof ..) <| workOf_ite (workOf_setHoof ..) <| workOf_ite (workOf_setHoof ..) <|
    workOf_ite (workOf_setHoof ..) rfl

@[simp] theorem workOf_csrRead8 (s : State) (off : Nat) : workOf (csrRead8 s off) = workOf s := workOf_ite (workOf_csrReadFx ..) rfl

variable {i : Instr}

theorem leavesWork_of_csrWrite8 {off v : Nat} (hf : s.failstop = true) (hx : exec i s = commit s (csrWrite8 s off v)) : LeavesWork i s :=
  .of_commit hx (workOf_csrWrite8 hf off v)

theorem leavesWork_of_csrRead8 {off : Nat} (hx : exec i s = commit s (csrRead8 s off)) : LeavesWork i s :=
  .of_commit hx (workOf_csrRead8 s off)

theorem registerWrite_leavesWork (hf : s.failstop = true) (off : BitVec 28) (v : W64) : LeavesWork (.registerWrite off v) s :=
  .of_commit rfl (workOf_ite (workOf_csrWrite8 hf ..) rfl)

/-! ### The management port (R464 to R468) -/

@[simp] theorem workOf_i3cSay (s : State) (ack : Bool) (bs : List Byte) : workOf (i3cSay s ack bs) = workOf s := rfl

@[simp] theorem workOf_i3cResult (s : State) (st : Nat) (v : W64) : workOf (i3cResult s st v) = workOf s := rfl

@[simp] theorem workOf_setIr (s : State) (op : Nat) (inst : Option (BitVec 3)) : workOf (setIr s op inst) = workOf s := rfl

theorem leavesWork_of_i3cAddressed {f : State → State} (hx : exec i s = commit s (i3cAddressed s f)) (h : workOf (f s) = workOf s) :
    LeavesWork i s :=
  .of_commit hx (workOf_ite h (workOf_i3cSay ..))

/-- Beyond MGMT a stopped device answers NOT_READY, or BAD (R465). -/
theorem inCsr_of_i3cStatus (hf : s.failstop = true) {a : Nat} (h : i3cStatus s a = 0) : inCsr a = true := by
  by_contra hcsr
  have hstop : s.failstop = true ∧ ¬ (inCsr a && decide (a - csrBase < bSCHED)) = true := ⟨hf, by simp [hcsr]⟩
  simp only [i3cStatus, if_pos hstop] at h
  split at h
  · exact absurd h (by decide)
  · exact absurd h (by decide)

theorem i3cReadCommand_leavesWork (s : State) (a : BitVec 56) : LeavesWork (.i3cReadCommand a) s := by
  refine leavesWork_of_i3cAddressed rfl ?_
  exact workOf_ite (workOf_i3cResult ..) (workOf_ite ((workOf_i3cResult ..).trans (workOf_csrRead8 ..)) (workOf_i3cResult ..))

theorem i3cWriteCommand_leavesWork (hf : s.failstop = true) (a : BitVec 56) (v : W64) : LeavesWork (.i3cWriteCommand a v) s := by
  refine leavesWork_of_i3cAddressed rfl ?_
  dsimp only
  by_cases hst : i3cStatus s a.toNat = 0
  · rw [if_neg (not_not_intro hst), if_pos (inCsr_of_i3cStatus hf hst), workOf_i3cResult]
    exact workOf_csrWrite8 hf ..
  · rw [if_pos hst, workOf_i3cResult]

@[simp] theorem workOf_tapIntrusive (s : State) (op : Nat) (inst : Option (BitVec 3)) : workOf (tapIntrusive s op inst) = workOf s := by
  unfold tapIntrusive
  split
  all_goals simp

@[simp] theorem workOf_tapReset (s : State) : workOf (tapReset s) = workOf s := rfl

/-! ### Clocks and temperature (R52, R57, R58, R436) -/

@[simp] theorem workOf_noteTemp (s : State) (d : Die) (c : Nat) : workOf (noteTemp s d c) = workOf s := by
  cases d with
  | central => exact workOf_withMgmt rfl
  | hoof h => exact (workOf_setHoof ..).trans (workOf_withMgmt rfl)

theorem workOf_thermTrip (hf : s.failstop = true) : workOf (thermTrip s) = workOf s := by
  rw [thermTrip_stopped hf]
  exact workOf_withMgmt rfl

theorem workOf_tempReport (hf : s.failstop = true) (d : Die) (c : Nat) : workOf (tempReport s d c) = workOf s := by
  have halarm : workOf (thermAlarm (noteTemp s d c)) = workOf s := by simp
  exact workOf_ite ((workOf_thermTrip (failstop_of_workOf halarm hf)).trans halarm) halarm

theorem refclkLoss_leavesWork (hf : s.failstop = true) (d : Die) : LeavesWork (.refclkLoss d) s := by
  refine .of_commit rfl (workOf_ite rfl ?_)
  cases d with
  | central =>
    dsimp only
    rw [centralClockLoss_stopped hf]
    exact workOf_ite ((workOf_addLogAt ..).trans (workOf_withMgmt rfl)) rfl
  | hoof h =>
    dsimp only
    rw [hoofClockLoss_stopped hf]
    exact workOf_ite (workOf_addLogAt ..) rfl

theorem rateWindow_leavesWork (s : State) (d : Die) (mhz : BitVec 16) : LeavesWork (.rateWindow d mhz) s := by
  refine .of_commit rfl (workOf_ite rfl ?_)
  cases d with
  | central =>
    have hrep : workOf (rateReported s mhz) = workOf s := workOf_withMgmt rfl
    exact workOf_ite (workOf_ite ((workOf_addLogAt ..).trans hrep) hrep) rfl
  | hoof h => exact workOf_ite (workOf_ite (workOf_addLogAt ..) (workOf_setHoof ..)) rfl

theorem workOf_tickAll (s : State) : workOf (tickAll s) = workOf s := by
  have hc : workOf (tickCentral s) = workOf s := workOf_ite rfl (workOf_withMgmt rfl)
  exact workOf_ite hc ((workOf_foldl (fun _ _ => workOf_setHoof ..) _ _).trans hc)

theorem workOf_tick (hf : s.failstop = true) : workOf (tick s) = workOf s := by
  have hall := workOf_tickAll s
  unfold tick
  dsimp only
  rw [if_neg (not_live_of_failstop (failstop_of_workOf hall hf))]
  exact hall

/-! ### Resets (R424, R438) -/

theorem workOf_notePulse (s : State) (ns : Nat) : workOf (notePulse s ns) = workOf s := workOf_ite rfl rfl

end

end Sys2Proof.Machine

/-!
Every command but an RST_N assertion leaves the work of a stopped device (R423, R424, notes/assumptions/42): packets, timers, host messages, links,
stacks, power and resets.
-/

namespace Sys2Proof.Machine

section

variable {i : Instr} {s r : State} {f : State → State} (hl : ¬ s.live = true)

/-! ### The fabric (Section 13) -/

theorem workOf_linkDown (s : State) (p lost : Nat) : workOf (linkDown s p lost) = workOf s := by
  by_cases hup : flag (s.fport p).lstat 0 = true
  · rw [linkDown_of_up hup]
    exact workOf_withFab ..
  · rw [linkDown_of_down (Bool.eq_false_iff.mpr hup)]

theorem filterEntryExpiry_leavesWork (s : State) (h : HoofId) (src : DevId) (ticket : BitVec 16) :
    LeavesWork (.filterEntryExpiry h src ticket) s := by
  refine .of_commit rfl ?_
  dsimp only
  split
  · exact workOf_ite rfl (workOf_setHoof ..)
  · rfl

theorem dramRefresh_leavesWork (s : State) (h : HoofId) (ch : BitVec 5) (bank : BitVec 7) : LeavesWork (.dramRefresh h ch bank) s :=
  .of_commit rfl (workOf_ite (workOf_setHoof ..) rfl)

theorem cqHeadRecheck_stands (hf : s.failstop = true) (st : StreamId) : Answers (.cqHeadRecheck st) s s := by
  refine answers_self rfl (times_of_fixed ?_ _)
  unfold releaseRecord
  split
  · rfl
  · split
    · rfl
    · exact if_pos (.inr (.inl hf))

theorem completion_stands (hf : s.failstop = true) (t : SlotId) : Answers (.completion t) s s := by
  refine answers_self rfl ?_
  unfold completeOp
  split
  · rfl
  · exact if_pos (.inr (.inl hf))

theorem quarantineEnd_stands (hf : s.failstop = true) (t : SlotId) : Answers (.quarantineEnd t) s s := by
  refine answers_self rfl ?_
  split
  · exact if_pos hf
  · rfl

include hl

theorem arrive_stands {p : FabPort} {kind : Byte} {k : Packet} {f : State → Packet → State} (hx : exec i s = commit s (arrive s p kind k f)) :
    Answers i s s :=
  answers_self hx (arrive_down f (.inl (Bool.eq_false_iff.mpr hl)))

theorem beac_stands (p : FabPort) (k : Packet) : Answers (.beac p k) s s := by
  have hr : ∀ k, ¬ reaches s p.toNat k = true := fun k => by simp [reaches, hl]
  exact answers_self rfl ((if_neg (hr _)).trans (arrive_down _ (.inl (Bool.eq_false_iff.mpr hl))))

/-- What is done only where `c`, and `c` only where the device works. -/
theorem stands_of_guard {c : Prop} [Decidable c] {w : State} (hx : exec i s = commit s (if c then w else s)) (hc : c → s.live = true) :
    Answers i s s :=
  answers_of_neg hx fun h => hl (hc h)

theorem reissueSilence_stands (t : SlotId) : Answers (.reissueSilence t) s s := by
  refine answers_self rfl ?_
  split
  · exact if_neg hl
  · rfl

theorem residencyDiscard_stands (n : Nat) : Answers (.residencyDiscard n) s s := by
  refine answers_self rfl ?_
  split
  · exact if_neg fun h => hl h.2.1
  · rfl

/-! ### Host ports and links (Sections 11, 15) -/

theorem hostUp_of_not_live (p : Nat) : ¬ hostUp s p = true := by
  simp [hostUp, hl]

theorem hostArrive_stands {p : HostPort} {m : HostMsg} (hx : exec i s = commit s (hostArrive s p m f)) : Answers i s s :=
  answers_self hx (if_pos (hostUp_of_not_live hl p.toNat))

theorem hoofLinkTimeout_stands (l : LateMsg) : Answers (.hoofLinkTimeout l) s s :=
  answers_self rfl (if_pos (by simp [show (s.atLeast ((s.hoof l.hoof.val).linkAt + 2000)).live = s.live from rfl, hl]))

theorem hostResponseTimeout_stands (p : HostPort) : Answers (.hostResponseTimeout p) s s :=
  answers_self rfl (if_pos (by simp [show (s.atLeast ((s.hport p.toNat).linkAt + 2000)).live = s.live from rfl, hl]))

/-! ### Stacks (Section 14) -/

theorem stackUp_of_not_live (h : Nat) : ¬ stackUp s h = true := by
  simp [stackUp, hl]

theorem patchMoveDone_stands (h : HoofId) (ch : BitVec 5) (patch : BitVec 13) : Answers (.patchMoveDone h ch patch) s s := by
  refine answers_self rfl ?_
  split
  · exact if_neg fun hup => stackUp_of_not_live hl _ hup.1
  · rfl

theorem parityDelta_stands (n : Nat) : Answers (.parityDelta n) s s := by
  refine answers_self rfl ?_
  split
  · exact if_neg (stackUp_of_not_live hl _)
  · rfl

theorem fullStripeComplete_stands (n : Nat) : Answers (.fullStripeComplete n) s s := by
  refine answers_self rfl ?_
  split
  · exact if_neg fun hup => stackUp_of_not_live hl _ hup.2
  · rfl

end

/-! ### Resets and supplies (Section 16) -/

section

variable {s : State} (hf : s.failstop = true)

theorem rstNRelease_leavesWork (s : State) : LeavesWork .rstNRelease s :=
  .of_commit rfl (workOf_ite rfl rfl)

include hf

theorem watched_of_failstop : ¬ watched s = true := by
  simp [watched, hf]

theorem wrstNAssert_leavesWork (ns : Nat) : LeavesWork (.wrstNAssert ns) s :=
  .of_commit (congrArg (commit s) (if_pos (.inr (.inr hf)))) (workOf_notePulse s ns)

theorem wrstNRelease_leavesWork : LeavesWork .wrstNRelease s :=
  .of_commit (congrArg (commit s) (if_neg fun h => h.2 hf)) (workOf_withWrstHeld s false)

end

/-! ### Every command -/

/-- In fail-stop every command but an RST_N assertion leaves FAILSTOP and the work as they were. -/
theorem exec_leavesWork {s : State} (hf : s.failstop = true) (i : Instr) (hi : ∀ ns, i ≠ .rstNAssert ns) : LeavesWork i s := by
  have hl := not_live_of_failstop hf
  cases i with
  | rstNAssert ns => exact absurd rfl (hi ns)
  | op | addi | andi | ori | xori | shi | li | cmp | cmpi | plog | ld | st | ld32 | st32 | br | jal | jr | wait | summ | tsts | fence | mfs | mts
  | tret | brk | drx | halt => exact .of_stands (scalar_stands hl rfl)
  | engineWord c w => exact .of_stands (engineWord_stands hl c w)
  | pendingTrap | coreStallEnd => exact .of_stands (answers_of_pos rfl fun h => hl h.1)
  | copy | import_ | export_ | rread | rwrite | racc | acc | smp | gth | sct | clrs | mma | vop | draw | comb | flush =>
    exact .of_stands (opRow_stands hl rfl)
  | nop | mov | add | sub | mul | mulc | mac | lrp | sqr | abs | neg | sgn | max | min | ldc | scl | rcp | rsq | pwr | grp | rsum | rmax | red | apl
  | clp => exact .of_stands (microRow_stands hl rfl)
  | vld | vst | vadd | vsub | vmul | vmax | vmin | vabs | vneg | vscl | vclp | vcon | vcmp | vsel | vdrp | vred | tred | vprm | viota | tld | tst | ttr
  | top | tgv | tpv | wcv | wop | wfn | pcv | padd | pmul | wsum | wnr | setvl | sumc => exact .of_stands (vecRow_stands hl rfl)
  | nld x f => exact .of_stands (nld_stands hl x f)
  | upd t => exact .of_stands (upd_stands hl t)
  | ctxs t => exact .of_stands (ctxs_stands hl t)
  | ctxr t => exact .of_stands (ctxr_stands hl t)
  | stop t => exact .of_stands (stop_stands hl t)
  | stcl t => exact .of_stands (stcl_stands hl t)
  | fenc t => exact .of_stands (fenc_stands hl t)
  | stepOpening => exact .of_stands (stepOpening_stands hl)
  | roundA n => exact .of_stands (roundA_stands hl n)
  | roundB n => exact .of_stands (roundB_stands hl n)
  | roundBDone n => exact .of_stands (roundBDone_stands hl n)
  | dispatch t => exact .of_stands (dispatch_stands hl t)
  | completion t => exact .of_stands (completion_stands hf t)
  | cqHeadRecheck st => exact .of_stands (cqHeadRecheck_stands hf st)
  | blockRelease t u => exact .of_stands (blockRelease_stands hl t u)
  | antlerReport t h a => exact .of_stands (antlerReport_stands hl t h a)
  | shadowVerdict t u v => exact .of_stands (shadowVerdict_stands hl t u v)
  | bucketTrigger n b => exact .of_stands (bucketTrigger_stands hl n b)
  | quarantineEnd t => exact .of_stands (quarantineEnd_stands hf t)
  | word | write | read | sopen | sclose | rxcred => exact .of_stands (hostArrive_stands hl rfl)
  | discardedHostMessage p => exact .of_stands (answers_of_neg rfl (hostUp_of_not_live hl p.toNat))
  | hostLinkUp p => exact .of_stands (answers_of_pos rfl (.inl hl))
  | rdreq | wrreq | accm | preq | fwd | pend | rply | rel | ring | bar | bleat | excl | packetForward => exact .of_stands (arrive_stands hl rfl)
  | beac p k => exact .of_stands (beac_stands hl p k)
  | malformedPacket | beaconSend | beaconSilence | fabricPortRetire | hoofLinkUp | domainWake | domainIdleGate | functionDisabled =>
    exact .of_stands (stands_of_guard hl rfl And.left)
  | reissue | streamRefill | streamCloseComplete => exact .of_stands (stands_of_guard hl rfl id)
  | linkReplay | fabricLinkUp | hoofTrained => exact .of_stands (answers_of_pos rfl (.inl hl))
  | moduleDown | linkRetrainTimeout => exact .of_stands (answers_of_pos rfl hl)
  | fabricLinkDown p lost => exact .of_commit rfl (workOf_linkDown s p.toNat lost)
  | pendTimer | rplyResend | originatorSilence | heldKeyExpiry | remoteStreamIdleClose | roundADone =>
    refine .of_stands (answers_self rfl ?_)
    split
    · exact if_neg fun h => hl h.1
    · rfl
  | reissueSilence t => exact .of_stands (reissueSilence_stands hl t)
  | residencyDiscard n => exact .of_stands (residencyDiscard_stands hl n)
  | filterEntryExpiry h src k => exact filterEntryExpiry_leavesWork s h src k
  | hoofLinkTimeout l => exact .of_stands (hoofLinkTimeout_stands hl l)
  | hostResponseTimeout p => exact .of_stands (hostResponseTimeout_stands hl p)
  | rateWindow d mhz => exact rateWindow_leavesWork s d mhz
  | dramRefresh h ch bank => exact dramRefresh_leavesWork s h ch bank
  | scrub h ch acc e e2 => exact .of_stands (scrub_off (.inl (Bool.eq_false_iff.mpr (stackUp_of_not_live hl h.val))))
  | patchMoveDone h ch patch => exact .of_stands (patchMoveDone_stands hl h ch patch)
  | parityDelta n => exact .of_stands (parityDelta_stands hl n)
  | fullStripeComplete n => exact .of_stands (fullStripeComplete_stands hl n)
  | rstNRelease => exact rstNRelease_leavesWork s
  | bringUpComplete bad => exact .of_stands (answers_of_pos rfl (.inr hf))
  | wrstNAssert ns => exact wrstNAssert_leavesWork hf ns
  | wrstNRelease => exact wrstNRelease_leavesWork hf
  | warmResetRemoteTimeout | warmResetIdleDone => exact .of_stands (answers_of_neg rfl fun h => h.2.1 hf)
  | refclkLoss d => exact refclkLoss_leavesWork hf d
  | supplyFault d => exact .of_stands (answers_of_pos rfl (watched_of_failstop hf))
  | thermAlert d c | thermalTrip d c => exact .of_commit rfl (workOf_ite rfl (workOf_tempReport hf d c.toNat))
  | coreRun | coreHalt | wake | rateClr | rateLowClear | drxtestCall | streamOpen | streamClose | streamReconfigure | enable | drain | abort | pclr
  | fabadmit | fabcfgWrite | slayWrite | spaceWrite | hresvWrite | pwrctlWrite | vecstatWrite | drstatWrite | lstatWrite | mlogptrWrite | fltstatWrite
  | thermWrite => exact leavesWork_of_csrWrite8 hf rfl
  | toutRead | sbstatRead | arrhsRead | arrmacRead | shdcnt0Read | shdcnt1Read | grcntRead | sholdRead | strmcntRead | drcntRead | fabcnt0Read
  | fabcnt1Read | lstatRead | heccRead | parcntRead | fltcntRead | hpstatRead | hlstatRead => exact leavesWork_of_csrRead8 rfl
  | registerWrite off v => exact registerWrite_leavesWork hf off v
  | i3cReadCommand a => exact i3cReadCommand_leavesWork s a
  | i3cWriteCommand a v => exact i3cWriteCommand_leavesWork hf a v
  | i3cResultRead | setnewda | getpid | getbcr | getdcr | getstatus => exact leavesWork_of_i3cAddressed rfl rfl
  | entdaa | setdasa | rstdaa | otherCcc => exact .of_commit rfl (workOf_ite rfl rfl)
  | tapReset | idcode => exact .of_commit rfl (workOf_tapReset s)
  | samplePreload | bypass => exact .of_commit rfl rfl
  | extest | clamp | highz => exact .of_commit rfl (workOf_tapIntrusive ..)
  | ijtag n => exact .of_commit rfl (workOf_ite (workOf_tapIntrusive ..) (workOf_ite rfl rfl))

/-- Settles O8: in fail-stop the device does not work, so a command either stands or reaches only what is outside the work: MGMT, the ports and
the phase of a reset (R423, R424). Slots in quarantine stand still too (notes/assumptions/42). -/
theorem failStopEndsOnlyByReset : Obligations.FailStopEndsOnlyByReset := by
  unfold Obligations.FailStopEndsOnlyByReset
  intro s t hf hstep
  have kept : workOf t = workOf s → t.failstop = true ∧ t.cores = s.cores ∧ t.slots = s.slots ∧ t.steps = s.steps ∧ t.strms = s.strms
      ∧ t.store = s.store ∧ t.dram = s.dram := fun h => (workOf_eq_iff.mp h).imp_left fun h => h.trans hf
  cases hp : s.pending with
  | nil =>
    rw [step_of_pending_nil hp] at hstep
    cases hstep
    exact .inr (kept (workOf_tick hf))
  | cons c rest =>
    by_cases hc : ∃ ns, c = .rstNAssert ns
    · obtain ⟨ns, rfl⟩ := hc
      exact .inl ⟨ns, rest, rfl⟩
    · rw [step_of_pending_cons hp] at hstep
      obtain ⟨r, hr, hw⟩ := exec_leavesWork (s := { s with pending := rest }) hf c (not_exists.mp hc)
      cases hr.symm.trans hstep
      exact .inr (kept hw)

end Sys2Proof.Machine

/-!
Timeouts of the Hoof links and the host ports (Tables 15-1 and 15-2, R407, R461, R463): one equation per outcome.
-/

namespace Sys2Proof.Machine

/-! ### Hoof links -/

section

variable {s : State} {h : HoofId} (t : SlotId) (hl : s.live = true)
include hl

section

variable (hh : h.val < s.part.hoofs) (hk : (s.hoof h.val).retrain = false) (hs : lostStack s h.val = false)
include hh hk hs

/-- A Hoof that is there, whose link is in use and whose stack serves, has its timeouts. -/
theorem hoofLinkTimeout_open (n : Nat) :
    ¬ (!(s.atLeast n).live || decide ((s.atLeast n).part.hoofs ≤ h.val) || ((s.atLeast n).hoof h.val).retrain || lostStack (s.atLeast n) h.val) = true := by
  have hl' : (s.atLeast n).live = true := hl
  have hh' : decide ((s.atLeast n).part.hoofs ≤ h.val) = false := decide_eq_false (Nat.not_le.mpr hh)
  have hk' : ((s.atLeast n).hoof h.val).retrain = false := hk
  have hs' : lostStack (s.atLeast n) h.val = false := hs
  rw [hl', hh', hk', hs']
  exact Bool.false_ne_true

theorem hoofLinkTimeout_first (hr : (s.hoof h.val).resent = false) : Answers (.hoofLinkTimeout ⟨h, t⟩) s
    (markRetried (transient ((s.atLeast ((s.hoof h.val).linkAt + 2000)).setHoof h.val { s.hoof h.val with
      linkAt := (s.atLeast ((s.hoof h.val).linkAt + 2000)).now, resent := true, hlstat := bump (s.hoof h.val).hlstat 47 32 1 })
      .central 0x03 h.val 0) t.toNat) :=
  congrArg (commit s) ((if_neg (hoofLinkTimeout_open hl hh hk hs _)).trans (if_neg (ne_true_of_eq_false hr)))

theorem hoofLinkTimeout_second (hr : (s.hoof h.val).resent = true) : Answers (.hoofLinkTimeout ⟨h, t⟩) s
    ((s.atLeast ((s.hoof h.val).linkAt + 2000)).setHoof h.val { s.hoof h.val with
      linkAt := (s.atLeast ((s.hoof h.val).linkAt + 2000)).now, resent := false, retrain := true,
      hlstat := bump (setFlag (s.hoof h.val).hlstat 0 false) 31 16 1 }) :=
  congrArg (commit s) ((if_neg (hoofLinkTimeout_open hl hh hk hs _)).trans (if_pos hr))

end

theorem hoofLinkUp_retrained (hk : (s.hoof h.val).retrain = true) : Answers (.hoofLinkUp h) s
    (s.setHoof h.val { s.hoof h.val with retrain := false, resent := false, hlstat := setFlag (s.hoof h.val).hlstat 0 true }) :=
  answers_of_pos rfl ⟨hl, hk⟩

theorem linkRetrainTimeout_hoof (hk : (s.hoof h.val).retrain = true) : Answers (.linkRetrainTimeout (.hoof h)) s
    (stackFault ((s.atLeast ((s.hoof h.val).linkAt + 100000)).setHoof h.val { s.hoof h.val with retrain := false }) h.val) :=
  congrArg (commit s) ((if_neg (not_not_intro hl)).trans (if_pos hk))

theorem linkRetrainTimeout_hoof_idle (hk : (s.hoof h.val).retrain = false) : Answers (.linkRetrainTimeout (.hoof h)) s s :=
  congrArg (commit s) ((if_neg (not_not_intro hl)).trans (if_neg (ne_true_of_eq_false hk)))

end

theorem hoofLinkUp_idle {s : State} {h : HoofId} (hk : (s.hoof h.val).retrain = false) : Answers (.hoofLinkUp h) s s :=
  answers_of_neg rfl fun hup => ne_true_of_eq_false hk hup.2

/-! ### Host ports -/

section

variable {s : State} {p : HostPort}

theorem hostResponseTimeout_down (hu : (s.hport p.toNat).up = false) : Answers (.hostResponseTimeout p) s s := by
  have hu' : ((s.atLeast ((s.hport p.toNat).linkAt + 2000)).hport p.toNat).up = false := hu
  exact answers_of_pos rfl (by simp [hu'])

variable (hl : s.live = true)
include hl

section

variable (hu : (s.hport p.toNat).up = true)
include hu

theorem hostResponseTimeout_open (n : Nat) : ¬ (!(s.atLeast n).live || !((s.atLeast n).hport p.toNat).up) = true := by
  have hl' : (s.atLeast n).live = true := hl
  have hu' : ((s.atLeast n).hport p.toNat).up = true := hu
  simp [hl', hu']

theorem hostResponseTimeout_first {m : HostMsg} (hr : (s.hport p.toNat).resent = false) (hm : lastResponse s p.toNat = some m) :
    Answers (.hostResponseTimeout p) s (markResponse (transient (sendHost ((s.atLeast ((s.hport p.toNat).linkAt + 2000)).setHport p.toNat
      { s.hport p.toNat with linkAt := (s.atLeast ((s.hport p.toNat).linkAt + 2000)).now, resent := true }) m) .central 0x0A p.toNat 0) m) := by
  have hm' : lastResponse (s.atLeast ((s.hport p.toNat).linkAt + 2000)) p.toNat = some m := hm
  refine congrArg (commit s) ((if_neg (hostResponseTimeout_open hl hu _)).trans ((if_neg (ne_true_of_eq_false hr)).trans ?_))
  rw [hm']
  rfl

theorem hostResponseTimeout_second (hr : (s.hport p.toNat).resent = true) : Answers (.hostResponseTimeout p) s
    ((s.atLeast ((s.hport p.toNat).linkAt + 2000)).setHport p.toNat { s.hport p.toNat with
      linkAt := (s.atLeast ((s.hport p.toNat).linkAt + 2000)).now, resent := false, training := true, up := false,
      retrain := satAdd 16 (s.hport p.toNat).retrain 1 }) :=
  congrArg (commit s) ((if_neg (hostResponseTimeout_open hl hu _)).trans (if_pos hr))

end

theorem linkRetrainTimeout_host (ht : (s.hport p.toNat).training = true) : Answers (.linkRetrainTimeout (.host p)) s
    (failStop ((s.atLeast ((s.hport p.toNat).linkAt + 100000)).setHport p.toNat { s.hport p.toNat with training := false }) .central 0x07 p.toNat 0) :=
  congrArg (commit s) ((if_neg (not_not_intro hl)).trans (if_pos ht))

end

/-- Settles O47: each command answers what its row of Tables 15-1 and 15-2 gives. Local time moves to the moment of the timeout
(notes/assumptions/6), and HOOF_LINK_TIMEOUT carries the operation of its message (notes/assumptions/64). -/
theorem linkTimeoutsRetryThenRetrain : Obligations.LinkTimeoutsRetryThenRetrain := by
  unfold Obligations.LinkTimeoutsRetryThenRetrain
  constructor
  · intro h t s hl hh
    exact ⟨hoofLinkTimeout_first t hl hh, hoofLinkTimeout_second t hl hh,
      fun hk => ⟨hoofLinkUp_retrained hl hk, linkRetrainTimeout_hoof hl hk⟩,
      fun hk => ⟨hoofLinkUp_idle hk, linkRetrainTimeout_hoof_idle hl hk⟩⟩
  · intro p s hl
    exact ⟨fun _ hu => hostResponseTimeout_first hl hu, hostResponseTimeout_second hl, hostResponseTimeout_down,
      linkRetrainTimeout_host hl⟩

end Sys2Proof.Machine

/-!
Domains and functions under their policies (R430, R431, R433, R445). A domain gated for want of use is gated at the end of its idle time, to which local
time moves (notes/assumptions/6).
-/

namespace Sys2Proof.Machine

section

variable {s : State}

/-! ### Domains -/

section

variable {d : Domain}

theorem domainWake_wakes (hl : s.live = true) (hph : s.phase = .up) (hhere : domainHere s d = true) (hauto : policy s d = 0)
    (hgated : powered s d = false) (hhalf : retiredHalf s d = false) (hd : demand s d = true) :
    Answers (.domainWake d) s (noteUse (ungate s d) [d]) :=
  answers_of_pos rfl ⟨hl, hph, hhere, hauto, ne_true_of_eq_false hgated, ne_true_of_eq_false hhalf, hd⟩

theorem domainWake_governed (h : policy s d ≠ 0) : Answers (.domainWake d) s s :=
  answers_of_neg rfl fun ⟨_, _, _, hauto, _⟩ => h hauto

theorem domainWake_unneeded (h : demand s d = false) : Answers (.domainWake d) s s :=
  answers_of_neg rfl fun ⟨_, _, _, _, _, _, hd⟩ => ne_true_of_eq_false h hd

theorem domainIdleGate_gates (hl : s.live = true) (hph : s.phase = .up) (hhere : domainHere s d = true) (hauto : policy s d = 0)
    (hidle : fld s.mgmt.pwrctl 39 32 ≠ 0) (hpow : powered s d = true) (hd : demand s d = false) :
    Answers (.domainIdleGate d) s (gate (s.atLeast (idleSince s d)) d) :=
  answers_of_pos rfl ⟨hl, hph, hhere, hauto, hidle, hpow, ne_true_of_eq_false hd⟩

theorem domainIdleGate_governed (h : policy s d ≠ 0) : Answers (.domainIdleGate d) s s :=
  answers_of_neg rfl fun ⟨_, _, _, hauto, _⟩ => h hauto

theorem domainIdleGate_needed (h : demand s d = true) : Answers (.domainIdleGate d) s s :=
  answers_of_neg rfl fun ⟨_, _, _, _, _, _, hd⟩ => hd h

end

/-! ### Functions -/

section

variable {f : Fin 8}

theorem functionDisabled_disables (hl : s.live = true) (hst : fnState s f.val = 1 ∨ fnState s f.val = 2) (hb : fnBusy s f.val = false) :
    Answers (.functionDisabled f) s (applyPolicies (setFn s f.val 3)) :=
  answers_of_pos rfl ⟨hl, hst, ne_true_of_eq_false hb⟩

theorem functionDisabled_busy (h : fnBusy s f.val = true) : Answers (.functionDisabled f) s s :=
  answers_of_neg rfl fun ⟨_, _, hb⟩ => hb h

end

end

/-- Settles O50: each event acts under its own condition, and each clause in which nothing changes denies one part of it. -/
theorem domainsFollowDemandAndPolicy : Obligations.DomainsFollowDemandAndPolicy :=
  ⟨fun _ _ hl hph hhere => ⟨domainWake_wakes hl hph hhere, domainIdleGate_gates hl hph hhere,
      fun h => ⟨domainWake_governed h, domainIdleGate_governed h⟩, domainWake_unneeded, domainIdleGate_needed⟩,
    fun _ _ hl => ⟨functionDisabled_disables hl, functionDisabled_busy⟩⟩

end Sys2Proof.Machine

/-!
Cold reset, bring-up and training (R387, R437, R440 to R442, R453, Table 16-4).
-/

namespace Sys2Proof.Machine

section

variable {s : State}

/-! ### Reset pulses (R453) -/

section

variable {ns : Nat}

theorem pulseOn_short (h : ns < 100) : pulseOn s ns = false := if_pos h

theorem pulseOn_long (h : 1000 ≤ ns) : pulseOn s ns = true :=
  (if_neg (by omega)).trans (if_neg (by omega))

/-- A pulse whose effect R453 fixes uses up none of those that it leaves open. -/
theorem notePulse_of_fixed (h : ns < 100 ∨ 1000 ≤ ns) : notePulse s ns = s := if_neg (by omega)

theorem rstNAssert_ignored (h : ns < 100) : Answers (.rstNAssert ns) s s :=
  (answers_of_neg rfl (ne_true_of_eq_false (pulseOn_short h))).trans (congrArg (commit s) (notePulse_of_fixed (.inl h)))

theorem rstNAssert_resets (h : 1000 ≤ ns) : Answers (.rstNAssert ns) s (coldState s) :=
  (answers_of_pos rfl (pulseOn_long h)).trans (congrArg (fun r => commit s (coldState r)) (notePulse_of_fixed (.inr h)))

/-- RST_N brings a stopped device out (R423). -/
theorem failstop_coldState (s : State) : (coldState s).failstop = false := show flag Mgmt.reset.fltstat 61 = false by decide

end

theorem rstNRelease_starts (h : s.phase = .coldReset) : Answers .rstNRelease s
    (let s1 := tapReset s; { s1 with phase := .bringUp, mgmt := { s1.mgmt with pwrstat := 1 } }) := answers_of_pos rfl h

theorem rstNRelease_idle (h : s.phase ≠ .coldReset) : Answers .rstNRelease s s := answers_of_neg rfl h

/-! ### Policies leave the phase -/

theorem phase_foldl {α : Type} {f : State → α → State} (hf : ∀ s a, (f s a).phase = s.phase) (l : List α) (s : State) :
    (l.foldl f s).phase = s.phase := by
  induction l generalizing s with
  | nil => rfl
  | cons a l ih => exact (ih (f s a)).trans (hf s a)

theorem phase_setDomain (s : State) (d : Domain) (b : Bool) : (setDomain s d b).phase = s.phase := by
  cases d <;> rfl

theorem phase_linksDown (s : State) (d : Domain) : (linksDown s d).phase = s.phase := by
  cases d with
  | hostp | fabp0 | fabp1 =>
    refine phase_foldl ?_ _ s
    exact fun _ _ => rfl
  | arra | arrb | vec | htine | hctl => rfl

theorem phase_gate (s : State) (d : Domain) : (gate s d).phase = s.phase := by
  have h : (linksDown (setDomain s d false) d).phase = s.phase := (phase_linksDown ..).trans (phase_setDomain ..)
  cases d <;> exact h

theorem phase_ungate (s : State) (d : Domain) : (ungate s d).phase = s.phase := by
  have h : (setDomain s d true).phase = s.phase := phase_setDomain ..
  cases d <;> exact h

theorem phase_applyPolicy (s : State) (d : Domain) : (applyPolicy s d).phase = s.phase := by
  unfold applyPolicy
  dsimp only
  split_ifs
  · exact phase_ungate s d
  · exact phase_gate s d
  · rfl

theorem phase_applyPolicies (s : State) : (applyPolicies s).phase = s.phase := by
  unfold applyPolicies
  split_ifs
  · exact phase_foldl phase_applyPolicy _ s
  · rfl

theorem phase_inService (s : State) : (inService s).phase = .up := phase_applyPolicies _

/-! ### Bring-up -/

theorem bringUpComplete_sound (hph : s.phase = .bringUp) (hf : s.failstop = false) : Answers (.bringUpComplete []) s (inService s) :=
  congrArg (commit s) ((if_neg (not_or_intro (not_not_intro hph) (ne_true_of_eq_false hf))).trans (if_neg (ne_true_of_eq_false hf)))

theorem bringUpComplete_idle (h : s.phase ≠ .bringUp) (l : List (BitVec 8)) : Answers (.bringUpComplete l) s s :=
  answers_of_pos rfl (.inl h)

/-! ### Training (R387, R442) -/

section

variable {h : HoofId} {p : TrainP}

/-- The stack of Hoof h is there, powered, and still to be trained. -/
structure Untrained (s : State) (h : HoofId) : Prop where
  live : s.live = true
  phase : s.phase = .up
  here : h.val < s.part.hoofs
  powered : (s.hoof h.val).hctl = true
  untrained : trainedOrLost s h.val = false

theorem Untrained.trains (u : Untrained s h) :
    ¬ (¬ s.live ∨ s.phase ≠ .up ∨ s.part.hoofs ≤ h.val ∨ ¬ (s.hoof h.val).hctl ∨ trainedOrLost s h.val) := by
  simp [u.live, u.phase, u.here, u.powered, u.untrained]

theorem hoofTrained_failed (u : Untrained s h) (hok : p.ok = false) :
    Answers (.hoofTrained h p) s (trainingDone (stackFault s h.val)) :=
  congrArg (commit s) ((if_neg u.trains).trans (if_pos (.inl (ne_true_of_eq_false hok))))

theorem filter_bitAt_zero (l : List Nat) : l.filter (fun c => bitAt 0 c) = [] :=
  List.filter_eq_nil_iff.mpr fun c _ => by simp [bitAt, bits]

theorem hoofTrained_sound (u : Untrained s h) (hok : p.ok = true) (hgeo : geometryOk p = true) (hchan : p.badChan = 0) :
    Answers (.hoofTrained h p) s (trainingDone (s.setHoof h.val { s.hoof h.val with
      hmem := BitVec.ofNat 64 (p.height.toNat + p.dens.toNat * 2 ^ 8 + binOf p * 2 ^ 16 + 2 ^ 24) })) := by
  have hnone : (List.range 32).filter (fun c => bitAt p.badChan.toNat c) = [] := by
    rw [hchan]
    exact filter_bitAt_zero _
  refine congrArg (commit s) ((if_neg u.trains).trans ((if_neg (not_or_intro (not_not_intro hok) (not_not_intro hgeo))).trans ?_))
  rw [hnone]
  rfl

end

end

/-- Settles O51: a pulse of RST_N is short or long, the phases follow one another, and a stack trains or is lost. What a cold reset keeps is
that of notes/assumptions/23. -/
theorem resetAndBringUp : Obligations.ResetAndBringUp :=
  ⟨fun _ s => ⟨rstNAssert_ignored, fun hns => ⟨_, rstNAssert_resets hns, rfl, rfl, rfl, rfl, rfl, rfl, rfl, rfl, rfl, rfl, failstop_coldState s⟩⟩,
    fun s => ⟨rstNRelease_starts, rstNRelease_idle, fun hph hf => ⟨bringUpComplete_sound hph hf, phase_inService s⟩, bringUpComplete_idle⟩,
    fun _ _ _ hl hph hhere hctl hnew =>
      have u : Untrained _ _ := ⟨hl, hph, hhere, hctl, hnew⟩
      ⟨hoofTrained_failed u, hoofTrained_sound u⟩⟩

end Sys2Proof.Machine

/-!
Warm reset (R424, R438, R439): the drain, its end and the release of WRST_N. Local time moves to the moment of each event (notes/assumptions/6);
when WRST_N acts, and from when its 400 us count, is the reading of notes/assumptions/23.
-/

namespace Sys2Proof.Machine

section

variable {s : State}

/-! ### WRST_N_ASSERT -/

section

variable {ns : Nat}

/-- The state in which the drain begins, every function aborting (R438, steps 1 and 2). -/
def drainBegun (s : State) : State :=
  abortAll ((List.range 8).foldl (fun s f => abortFn s f) { s with phase := .warmDrain, wrstHeld := true, warmAt := s.now })

theorem wrstNAssert_drains (hns : 1000 ≤ ns) (hph : s.phase = .up) (hf : s.failstop = false) :
    Answers (.wrstNAssert ns) s (drainBegun s) := by
  have hgo : ¬ (¬ pulseOn s ns ∨ s.phase ≠ .up ∨ s.failstop) := by simp [pulseOn_long hns, hph, hf]
  refine (answers_of_neg rfl hgo).trans (congrArg (commit s) ?_)
  rw [notePulse_of_fixed (.inr hns), drainBegun]

theorem wrstNAssert_stands (hfix : ns < 100 ∨ 1000 ≤ ns) (h : ¬ pulseOn s ns ∨ s.phase ≠ .up ∨ s.failstop) :
    Answers (.wrstNAssert ns) s s :=
  (answers_of_pos rfl h).trans (congrArg (commit s) (notePulse_of_fixed hfix))

end

/-! ### The end of the drain -/

theorem warmResetRemoteTimeout_cancels {t : SlotId} {o : Op} (hph : s.phase = .warmDrain) (hf : s.failstop = false)
    (hremote : s.fab.orig.any (fun e => e.slot = t.toNat) = true) (ho : s.op t.toNat = some o) (hrun : o.phase = .running) :
    Answers (.warmResetRemoteTimeout t) s
      (endOp ((dropOrig (s.atLeast (s.warmAt + 200000)) (fun e => e.slot = t.toNat)).onOp t.toNat (fun o => { o with retried := true })) t.toNat 0x11
        (2 ^ 64 - 1)) := by
  have hwork : (s.op t.toNat).any (fun o => o.phase = .running) = true := by simp [ho, hrun]
  exact answers_of_pos rfl ⟨hph, ne_true_of_eq_false hf, hremote, hwork⟩

/-- The warm state as step 5 of R438 takes it. -/
def warmTaken (s : State) : State := warmState (drainParity (s.atLeast (s.warmAt + 40000)))

theorem warmResetIdleDone_takes (hph : s.phase = .warmDrain) (hf : s.failstop = false)
    (hdone : (busySlots s).all (fun e => !e.2.inFlight) = true) :
    Answers .warmResetIdleDone s (if (warmTaken s).wrstHeld then warmTaken s else warmUp (warmTaken s)) :=
  answers_of_pos rfl ⟨hph, ne_true_of_eq_false hf, hdone⟩

theorem warmResetIdleDone_busy (h : (busySlots s).all (fun e => !e.2.inFlight) = false) : Answers .warmResetIdleDone s s :=
  answers_of_neg rfl fun ⟨_, _, hdone⟩ => ne_true_of_eq_false h hdone

/-! ### WRST_N_RELEASE -/

theorem wrstNRelease_leaves (hph : s.phase = .warmIdle) (hf : s.failstop = false) :
    Answers .wrstNRelease s (warmUp { s with wrstHeld := false }) :=
  answers_of_pos rfl ⟨hph, ne_true_of_eq_false hf⟩

theorem wrstNRelease_noted (h : s.phase ≠ .warmIdle ∨ s.failstop = true) : Answers .wrstNRelease s { s with wrstHeld := false } :=
  answers_of_neg rfl fun ⟨hph, hf⟩ => h.elim (fun h => h hph) hf

end

/-- Settles O52: WRST_N acts on a working device in service, the drain ends once nothing is in flight, and the release counts in the warm state. -/
theorem warmResetDrainsThenResets : Obligations.WarmResetDrainsThenResets := by
  refine ⟨fun ns s => ⟨wrstNAssert_drains, fun hns h => wrstNAssert_stands (.inr hns) (.inr h), fun hns => ?_⟩,
    fun t o s => warmResetRemoteTimeout_cancels,
    fun s => ⟨fun hph hf hdone => ⟨fun hheld => ?_, fun hheld => ?_⟩, warmResetIdleDone_busy, wrstNRelease_leaves, wrstNRelease_noted⟩⟩
  · exact wrstNAssert_stands (.inl hns) (.inl (ne_true_of_eq_false (pulseOn_short hns)))
  · exact (warmResetIdleDone_takes hph hf hdone).trans (congrArg (commit s) (if_pos hheld))
  · exact (warmResetIdleDone_takes hph hf hdone).trans (congrArg (commit s) (if_neg (ne_true_of_eq_false hheld)))

end Sys2Proof.Machine

/-!
WRITE and READ of the host ports (R295, R300, R323, R401, R442, R458 to R460). A message without credits is taken, its credits counted down to zero
(notes/assumptions/25).
-/

namespace Sys2Proof.Machine

section

variable {s : State} {p : HostPort} {m : HostMsg}

/-! ### Messages that do not arrive -/

theorem hostArrive_down (h : hostUp s p.toNat = false) (f : State → State) : hostArrive s p m f = s := if_pos (ne_true_of_eq_false h)

theorem hostArrive_refused (hup : hostUp s p.toNat = true) (h : 64 < m.len.toNat ∨ reqPort m.req.toNat ≠ p.toNat) (f : State → State) :
    hostArrive s p m f = hostRefuse s p.toNat m.req.toNat m.stream.toNat :=
  (if_neg (not_not_intro hup)).trans (if_pos (h.imp_left decide_eq_true))

/-! ### Accesses that wait -/

/-- A host access waits: its range is sound, but what it needs is not ready, or an earlier access of its requester still waits for one of its units. -/
def Waits (s : State) (wr : Bool) (m : HostMsg) : Prop :=
  hostRange s (reqPort m.req.toNat) m.addr.toNat (64 * m.len.toNat) = 0 ∧ (hostWaits s wr m = true ∨ unitsHeld s m = true)

theorem not_waits_of_range {wr : Bool} (h : hostRange s (reqPort m.req.toNat) m.addr.toNat (64 * m.len.toNat) ≠ 0) : ¬ Waits s wr m :=
  fun hw => h hw.1

theorem not_waits_of_ready {wr : Bool} (hw : hostWaits s wr m = false) (hu : unitsHeld s m = false) : ¬ Waits s wr m :=
  fun h => h.2.elim (ne_true_of_eq_false hw) (ne_true_of_eq_false hu)

theorem hostAccess_waits {wr : Bool} (h : Waits s wr m) : hostAccess s wr m
    = { s with host := { s.host with hold := s.host.hold ++ [{ m with kind := if wr then 2 else 3 }] } } := if_pos h

theorem hostAccess_write (h : ¬ Waits s true m) : hostAccess s true m = doWrite s m := if_neg h

theorem hostAccess_read (h : ¬ Waits s false m) : hostAccess s false m = doRead s m := if_neg h

/-! ### Write credits (R460) -/

/-- The requester of the message has paid its write credits. -/
def paid (s : State) (m : HostMsg) : State :=
  { s with host := { s.host with
    wcred := mput (fun _ => 0) s.host.wcred m.req.toNat (mget (fun _ => 0) s.host.wcred m.req.toNat - cdiv m.len.toNat 4) } }

theorem dramBad_congr {r : State} (h : spaceAt r = spaceAt s) (e fuel a : Nat) : dramBad r e fuel a = dramBad s e fuel a := by
  induction fuel generalizing a with
  | zero => rfl
  | succ fuel ih => simp only [dramBad, h, ih]

/-- Whether an address may be touched depends on the spaces and on the layout of the store alone. -/
theorem badAddr_congr {r : State} (h : spaceAt r = spaceAt s) (hu : r.units = s.units) (a n : Nat) : badAddr r a n = badAddr s a n := by
  simp only [badAddr, dramBad_congr h, hu]

theorem hostRange_paid (q a n : Nat) : hostRange (paid s m) q a n = hostRange s q a n := by
  simp only [hostRange, badAddr_congr (s := s) (r := paid s m) rfl rfl]
  rfl

theorem exec_write : exec (.write p m) s = commit s (hostArrive s p m (fun s => hostAccess (paid s m) true m)) := rfl

theorem exec_read : exec (.read p m) s = commit s (hostArrive s p m (fun s => hostAccess s false m)) := rfl

/-! ### A write that is performed (R401, R459) -/

theorem doWrite_refused (h : hostRange s (reqPort m.req.toNat) m.addr.toNat (64 * m.len.toNat) ≠ 0) :
    doWrite s m = ackWrite s m (hostRange s (reqPort m.req.toNat) m.addr.toNat (64 * m.len.toNat)) := if_pos h

section

variable (hr : hostRange s (reqPort m.req.toNat) m.addr.toNat (64 * m.len.toNat) = 0) (hlen : m.payload.length = 64 * m.len.toNat)
include hr hlen

/-- A payload of LEN units is what is written. -/
theorem doWrite_sound : doWrite s m =
    if inCsr m.addr.toNat then ackWrite (csrWrites s (m.addr.toNat - csrBase) (64 * m.len.toNat / 8) m.payload) m 0
    else if inStore m.addr.toNat then ackWrite (wrLocal s 4096 m.addr.toNat m.payload) m 0
    else
      let s1 := wrLocal s (wackNo s) m.addr.toNat m.payload
      releaseWacks { s1 with host := { s1.host with wack := s1.host.wack ++ [(wackNo s, m)] } } := by
  have hbytes : (m.payload ++ List.replicate (64 * m.len.toNat) 0).take (64 * m.len.toNat) = m.payload := List.take_left' hlen
  unfold doWrite
  dsimp only
  rw [if_neg (not_not_intro hr), hbytes]

theorem doWrite_csr (hc : inCsr m.addr.toNat = true) :
    doWrite s m = ackWrite (csrWrites s (m.addr.toNat - csrBase) (64 * m.len.toNat / 8) m.payload) m 0 :=
  (doWrite_sound hr hlen).trans (if_pos hc)

theorem doWrite_store (hc : inCsr m.addr.toNat = false) (hst : inStore m.addr.toNat = true) :
    doWrite s m = ackWrite (wrLocal s 4096 m.addr.toNat m.payload) m 0 :=
  (doWrite_sound hr hlen).trans ((if_neg (ne_true_of_eq_false hc)).trans (if_pos hst))

theorem doWrite_dram (hc : inCsr m.addr.toNat = false) (hst : inStore m.addr.toNat = false) : doWrite s m =
    let s1 := wrLocal s (wackNo s) m.addr.toNat m.payload
    releaseWacks { s1 with host := { s1.host with wack := s1.host.wack ++ [(wackNo s, m)] } } :=
  (doWrite_sound hr hlen).trans ((if_neg (ne_true_of_eq_false hc)).trans (if_neg (ne_true_of_eq_false hst)))

end

/-! ### A read that is performed (R459) -/

/-- The response to a READ with its status and bytes. -/
def readRsp (m : HostMsg) (st : Nat) (bs : List Byte) : HostMsg :=
  hostMsg 0x83 m.req.toNat m.stream.toNat 0 st m.tag.toNat m.addr.toNat 0 true bs

theorem doRead_refused (h : hostRange s (reqPort m.req.toNat) m.addr.toNat (64 * m.len.toNat) ≠ 0) :
    doRead s m = sendCredited s (readRsp m (hostRange s (reqPort m.req.toNat) m.addr.toNat (64 * m.len.toNat)) []) := if_pos h

section

variable (hr : hostRange s (reqPort m.req.toNat) m.addr.toNat (64 * m.len.toNat) = 0)
include hr

theorem doRead_csr (hc : inCsr m.addr.toNat = true) : doRead s m =
    let r := csrReads s (m.addr.toNat - csrBase) (64 * m.len.toNat / 8)
    sendCredited r.1 (readRsp m 0 r.2) :=
  (if_neg (not_not_intro hr)).trans (if_pos hc)

theorem doRead_bytes (hc : inCsr m.addr.toNat = false) :
    doRead s m = sendCredited s (readRsp m 0 (rdLocal s m.addr.toNat (64 * m.len.toNat))) :=
  (if_neg (not_not_intro hr)).trans (if_neg (ne_true_of_eq_false hc))

end

/-! ### The commands -/

section

variable {r : State} (h : Arrives s p m)
include h

theorem write_waits (hw : Waits (paid s m) true m) :
    Answers (.write p m) s { paid s m with host := { (paid s m).host with hold := s.host.hold ++ [{ m with kind := 2 }] } } :=
  answers_of_arrives h exec_write (hostAccess_waits hw)

theorem write_done (hw : ¬ Waits (paid s m) true m) (hr : doWrite (paid s m) m = r) : Answers (.write p m) s r :=
  answers_of_arrives h exec_write ((hostAccess_write hw).trans hr)

theorem read_waits (hw : Waits s false m) :
    Answers (.read p m) s { s with host := { s.host with hold := s.host.hold ++ [{ m with kind := 3 }] } } :=
  answers_of_arrives h exec_read (hostAccess_waits hw)

theorem read_done (hw : ¬ Waits s false m) (hr : doRead s m = r) : Answers (.read p m) s r :=
  answers_of_arrives h exec_read ((hostAccess_read hw).trans hr)

end

end

/-- Settles O39: a message arrives or not, an access that arrives waits or not, and one that does not wait is `doWrite` or `doRead`. -/
theorem hostReadsAndWrites : Obligations.HostReadsAndWrites := by
  intro p m s r n a s1
  have hrange : hostRange s1 (reqPort r) a n = hostRange s (reqPort r) a n := hostRange_paid ..
  refine ⟨fun hdown => ⟨congrArg (commit s) (hostArrive_down hdown _), congrArg (commit s) (hostArrive_down hdown _)⟩,
    fun hup hbad => ⟨congrArg (commit s) (hostArrive_refused hup hbad _), congrArg (commit s) (hostArrive_refused hup hbad _)⟩,
    fun h => ⟨fun hr hw => write_waits h ⟨hrange.trans hr, hw⟩, fun hr hw => read_waits h ⟨hr, hw⟩, fun hr => ⟨?_, ?_⟩,
      fun hr hw hu hlen => ?_, fun hr hw hu => ?_⟩⟩
  · rw [← hrange] at hr ⊢
    exact write_done h (not_waits_of_range hr) (doWrite_refused hr)
  · exact read_done h (not_waits_of_range hr) (doRead_refused hr)
  · have hgo : ¬ Waits s1 true m := not_waits_of_ready hw hu
    rw [← hrange] at hr
    exact ⟨fun hc => write_done h hgo (doWrite_csr hr hlen hc), fun hc hst => write_done h hgo (doWrite_store hr hlen hc hst),
      fun hc hst => write_done h hgo (doWrite_dram hr hlen hc hst)⟩
  · have hgo : ¬ Waits s false m := not_waits_of_ready hw hu
    exact ⟨fun hc => read_done h hgo (doRead_bytes hr hc), fun hc => read_done h hgo (doRead_csr hr hc)⟩

end Sys2Proof.Machine

/-!
Context save and restore on this device (R446 to R448), over the image of notes/assumptions/22.
-/

namespace Sys2Proof.Machine

section

variable {s r : State} {t : SlotId} {opc : Nat} {o : Op} {sv : Bool}

/-! ### The rows -/

/-- The row of CTXS or CTXR: acceptance, which may quiesce the device, while it is issued; its work while it runs. -/
def ctxRow (s : State) (t opc : Nat) (sv : Bool) (work : State → Op → State) : State :=
  let s1 := opRow s t opc (fun _ _ => false) (ctxCheck sv) work
  if isIssued s t opc then quiesceFor s1 t else s1

theorem exec_ctxs : exec (.ctxs t) s = commit s (ctxRow s t.toNat 0x60 true (fun s o => saveWork s t.toNat o)) := rfl

theorem exec_ctxr : exec (.ctxr t) s = commit s (ctxRow s t.toNat 0x61 false (fun s o => restoreWork s t.toNat o)) := rfl

/-! ### Acceptance (R446) -/

/-- No function stands behind a context operation, and it needs no step. -/
theorem acceptFinds_context (hopc : o.opc = 0x60 ∨ o.opc = 0x61) (proj : Bool) : acceptFinds s o proj false = 0 := by
  obtain h | h := hopc <;> rw [acceptFinds, h] <;> rfl

theorem quiesceFor_waiting {n : Nat} (ho : s.op n = some o) (h : o.phase = .waiting) : quiesceFor s n = { s with quiesce := some n } := by
  simp only [quiesceFor, ho, h, if_true]

theorem ctxRow_accepts (h : Accepts s t opc o) (hopc : opc = 0x60 ∨ opc = 0x61) {rs : List Range} {imgs : List (Nat × Region)}
    {desc : List Byte} {prog : List Nat} (hc : ctxCheck sv (s.setOp t.toNat (tagged s o)) (tagged s o) = .ok rs imgs desc prog)
    (work : State → Op → State) :
    let o1 := { tagged s o with phase := .waiting, ranges := recordRanges rs, imgs := imgs, desc := desc, prog := prog,
                                writes := rs.filter (fun r => r.wr && !r.remote) }
    ∃ r, OpOnly s r t.toNat o1 ∧ ctxRow s t.toNat opc sv work = { r with quiesce := some t.toNat } := by
  intro o1
  have hcode : (tagged s o).opc = 0x60 ∨ (tagged s o).opc = 0x61 := by
    obtain ⟨-, ho, -⟩ := h
    rwa [← ho] at hopc
  have hs : OpOnly s ((s.setOp t.toNat (tagged s o)).setOp t.toNat o1) t.toNat o1 := (OpOnly.of_setOp s _ _).setOp o1
  refine ⟨_, hs, ?_⟩
  rw [ctxRow, if_pos h.issued, opRow_accepts h, acceptOp_ok h hc]
  dsimp only
  rw [acceptFinds_context hcode, if_neg (not_not_intro rfl)]
  exact quiesceFor_waiting hs.op rfl

/-- The command accepts the operation, and the device is quiesced until it completes. -/
theorem context_quiesces {i : Instr} (h : Accepts s t opc o) (hopc : opc = 0x60 ∨ opc = 0x61) {work : State → Op → State}
    (hx : exec i s = commit s (ctxRow s t.toNat opc sv work)) {rs : List Range} {imgs : List (Nat × Region)} {desc : List Byte}
    {prog : List Nat} (hc : ctxCheck sv (s.setOp t.toNat (tagged s o)) (tagged s o) = .ok rs imgs desc prog) :
    ∃ r, exec i s = .next r ∧ r.quiesce = some t.toNat ∧ r = settle s { s with slots := r.slots, quiesce := r.quiesce }
      ∧ (∀ x, x ≠ t.toNat → r.slot x = s.slot x)
      ∧ r.op t.toNat = some { tagged s o with phase := .waiting, ranges := recordRanges rs, imgs := imgs, desc := desc, prog := prog,
                                              writes := rs.filter (fun r => r.wr && !r.remote) } := by
  obtain ⟨r, hr, hrow⟩ := ctxRow_accepts h hopc hc work
  rw [hrow] at hx
  refine ⟨_, hx, rfl, ?_, hr.others, hr.op⟩
  rw [hr.frame]
  rfl

/-! ### Work -/

/-- What runs is issued no more. -/
theorem Works.not_issued (h : Works s t opc o) : isIssued s t.toNat opc = false := by
  obtain ⟨ho, -, hrun, -⟩ := h
  simp [isIssued, ho, hrun]

theorem opRow_works (h : Works s t opc o) (need : State → Op → Bool) (chk : State → Op → Chk) (work : State → Op → State) :
    opRow s t.toNat opc need chk work = work s o := by
  rw [opRow, if_neg (ne_true_of_eq_false h.not_issued), h.running]

theorem ctxRow_works (h : Works s t opc o) (work : State → Op → State) : ctxRow s t.toNat opc sv work = work s o :=
  (if_neg (ne_true_of_eq_false h.not_issued)).trans (opRow_works h ..)

theorem ctxs_works (h : Works s t 0x60 o) (hr : saveWork s t.toNat o = r) : Answers (.ctxs t) s r :=
  exec_ctxs.trans (congrArg (commit s) ((ctxRow_works h _).trans hr))

theorem ctxr_works (h : Works s t 0x61 o) (hr : restoreWork s t.toNat o = r) : Answers (.ctxr t) s r :=
  exec_ctxr.trans (congrArg (commit s) ((ctxRow_works h _).trans hr))

/-- A context operation that goes on: all its requests have been answered, and nothing has ended it. -/
structure GoesOn (o : Op) : Prop where
  answered : o.subs = 0
  going : o.aborted = false
  sound : o.status < 0x10

/-! ### CTXS to this device (R447) -/

section

variable {n : Nat} (hgo : GoesOn o) (hprog : o.progress ≠ 2) (hsound : saveBad s (parseCtx o.desc) (ctxImage s o (parseCtx o.desc)).2 = false)
  (hhere : remServer s (parseCtx o.desc).dev (parseCtx o.desc).addr = some s.dev)
include hgo hprog hsound hhere

theorem saveWork_here : saveWork s n o =
    let d := parseCtx o.desc
    let im := ctxImage s o d
    let x := if im.2 = [] then (s, 0, 0)
      else serveWrite s n (ownRefusal s (tenantOf s o) d.akey (d.addr + 4096) (pad64 im.2).length) (d.addr + 4096) (pad64 im.2)
    if 0x10 ≤ x.2.1 then endOp x.1 n x.2.1 x.2.2
    else (let y := serveWrite x.1 n (ownRefusal x.1 (tenantOf s o) d.akey d.addr 4096) d.addr im.1; endOp y.1 n y.2.1 y.2.2) := by
  obtain ⟨hsubs, hab, hst⟩ := hgo
  simp only [saveWork, hsubs, hab, Nat.not_le.mpr hst, hprog, hsound, hhere, ne_eq, not_true_eq_false, Bool.false_eq_true, if_false, if_true]

theorem saveWork_sections (hbody : (ctxImage s o (parseCtx o.desc)).2 ≠ []) :
    let d := parseCtx o.desc
    let im := ctxImage s o d
    let x := serveWrite s n (ownRefusal s (tenantOf s o) d.akey (d.addr + 4096) (pad64 im.2).length) (d.addr + 4096) (pad64 im.2)
    let y := serveWrite x.1 n (ownRefusal x.1 (tenantOf s o) d.akey d.addr 4096) d.addr im.1
    x.2.1 < 0x10 → saveWork s n o = endOp y.1 n y.2.1 y.2.2 := by
  intro d im x y hx
  rw [saveWork_here hgo hprog hsound hhere]
  dsimp only
  rw [if_neg hbody, if_neg (Nat.not_le.mpr hx)]

theorem saveWork_headerOnly (hbody : (ctxImage s o (parseCtx o.desc)).2 = []) :
    let d := parseCtx o.desc
    let y := serveWrite s n (ownRefusal s (tenantOf s o) d.akey d.addr 4096) d.addr (ctxImage s o d).1
    saveWork s n o = endOp y.1 n y.2.1 y.2.2 := by
  intro d y
  rw [saveWork_here hgo hprog hsound hhere]
  dsimp only
  rw [if_pos hbody, if_neg (Nat.not_succ_le_zero 15)]

end

/-! ### CTXR from this device (R448) -/

theorem reachRefusal_status {a n st d : Nat} (h : reachRefusal s a n = some (st, d)) : 0x10 ≤ st := by
  unfold reachRefusal at h
  split at h
  next =>
    obtain ⟨rfl, -⟩ := Prod.mk.inj (Option.some.inj h)
    decide
  next =>
    obtain ⟨-, heq⟩ := Option.ite_none_left_eq_some.mp h
    obtain ⟨rfl, -⟩ := Prod.mk.inj (Option.some.inj heq)
    decide

/-- A refusal of this device's own access is an ADDR or a DENIED (R356, R373). -/
theorem ownRefusal_status {tenant akey a n st d : Nat} (h : ownRefusal s tenant akey a n = some (st, d)) : 0x10 ≤ st := by
  unfold ownRefusal at h
  split at h
  next x hx =>
    obtain rfl := Option.some.inj h
    exact reachRefusal_status hx
  next =>
    obtain ⟨-, heq⟩ := Option.ite_none_left_eq_some.mp h
    obtain ⟨rfl, -⟩ := Prod.mk.inj (Option.some.inj heq)
    decide

/-- An access that the device serves itself leaves it as it was. -/
theorem serveRead_own {tenant akey a n a' n' : Nat} (h : (serveRead s (ownRefusal s tenant akey a n) a' n').2.1 < 0x10) :
    (serveRead s (ownRefusal s tenant akey a n) a' n').1 = s := by
  cases href : ownRefusal s tenant akey a n with
  | none => rfl
  | some e =>
    rw [href] at h
    exact absurd (ownRefusal_status href) (Nat.not_le.mpr h)

theorem restoreWork_here {n : Nat} (hgo : GoesOn o) (hhere : remServer s (parseCtx o.desc).dev (parseCtx o.desc).addr = some s.dev) :
    let d := parseCtx o.desc
    let x := serveRead s (ownRefusal s (tenantOf s o) d.akey d.addr 4096) d.addr 4096
    let m := cdiv (Nat.min (imageLen x.2.2.2) (2 ^ 41)) 64 * 64
    let y := serveRead s (ownRefusal s (tenantOf s o) d.akey d.addr m) d.addr m
    x.2.1 < 0x10 → y.2.1 < 0x10 → restoreWork s n o = applyImage y.1 n d y.2.2.2 := by
  intro d x m y hx hy
  obtain ⟨hsubs, hab, hst⟩ := hgo
  unfold restoreWork
  simp only [hsubs, hab, Nat.not_le.mpr hst, hhere, ne_eq, not_true_eq_false, Bool.false_eq_true, if_false, if_true]
  rw [if_neg (Nat.not_le.mpr hx), if_neg (Nat.not_le.mpr hy)]

theorem applyImage_restores {n : Nat} {d : CtxD} {im : List Byte} (hgood : restoreBad s d im = false) (hcap : imageLen im ≤ d.cap) :
    applyImage s n d im = endOp (restoreAll s n d im) n 0 0 :=
  if_neg (not_or_intro (ne_true_of_eq_false hgood) (Nat.not_lt.mpr hcap))

end

/-- Settles O30: a row accepts and quiesces, or does the next part of its work, which on this device is all that is left of it. -/
theorem contextOperationsQuiesceTheDevice : Obligations.ContextOperationsQuiesceTheDevice := by
  intro t o s
  refine ⟨fun h => ctxs_works h rfl, fun h => ctxr_works h rfl, fun i opc sv hi h => ?_, ?_, ?_⟩
  · intro s1 rs imgs desc prog hc
    obtain hi | hi := List.mem_pair.mp hi
    · obtain ⟨rfl, rfl, rfl⟩ : i = .ctxs t ∧ opc = 0x60 ∧ sv = true := by simpa using hi
      exact context_quiesces h (.inl rfl) exec_ctxs hc
    · obtain ⟨rfl, rfl, rfl⟩ : i = .ctxr t ∧ opc = 0x61 ∧ sv = false := by simpa using hi
      exact context_quiesces h (.inr rfl) exec_ctxr hc
  · dsimp only
    intro h hsubs hab hst hprog hsound hhere
    have hgo : GoesOn o := ⟨hsubs, hab, hst⟩
    exact ⟨fun hbody hx => ctxs_works h (saveWork_sections hgo hprog hsound hhere hbody hx),
      fun hbody => ctxs_works h (saveWork_headerOnly hgo hprog hsound hhere hbody)⟩
  · intro d h hsubs hab hst hhere x n y hx hy hgood hcap
    have hown : y.1 = s := serveRead_own hy
    have hgood1 : restoreBad y.1 d y.2.2.2 = false := by rw [hown, hgood]
    exact ctxr_works h ((restoreWork_here ⟨hsubs, hab, hst⟩ hhere hx hy).trans (applyImage_restores hgood1 hcap))

end Sys2Proof.Machine

/-!
What a register read clears (R469): an 8-byte read clears the clear-on-read fields of both halves, and an offset of Table 17-12 reaches one register.
-/

namespace Sys2Proof.Machine

section

variable (s : State)

/-- What a register command answers whose meaning is an 8-byte read that reaches CSR space. -/
theorem answers_csrRead8 {s r : State} {i : Instr} {off : Nat} (hi : exec i s = commit s (csrRead8 s off)) (hreach : csrReach s off = true)
    (hr : csrReadFx s off true true = r) : Answers i s r :=
  (answers_of_pos hi hreach).trans (congrArg (commit s) hr)

/-! ### Registers behind VEC -/

/-- What an 8-byte read of register o of HOOF n clears (Tables 10-11, 14-9, 14-11, 17-9). -/
def hoofRead (n o : Nat) : State :=
  let k := s.hoof n
  if o = 0x200 then s.setHoof n { k with grcnt := setFld (setFld k.grcnt 31 0 0) 63 32 0 }
  else if o = 0x308 then s.setHoof n { k with hecc := setFld (setFld (setFld k.hecc 31 0 0) 47 32 0) 63 48 0 }
  else if o = 0x318 then s.setHoof n { k with parcnt := setFld (setFld k.parcnt 31 0 0) 63 32 0 }
  else if o = 0x500 then s.setHoof n { k with hlstat := setFld (setFld k.hlstat 31 16 0) 47 32 0 }
  else s

/-- Behind VEC the registers that a read clears are those of the host ports, the fabric ports and the Hoofs. -/
theorem csrReadFx_past {off : Nat} (h : bHOST ≤ off) : csrReadFx s off true true =
    if bHOST + 0x100 ≤ off ∧ off < bHOST + 0x120 ∧ off % 8 = 0 then
      let p := (off - bHOST - 0x100) / 8
      s.setHport p { s.hport p with retrain := 0, refuse := 0 }
    else if bFAB ≤ off ∧ off < bFAB + 0x100000 ∧ (off - bFAB) % 0x10000 = 0 then
      let p := (off - bFAB) / 0x10000
      s.setFport p { s.fport p with lstat := setFld (setFld (s.fport p).lstat 31 16 0) 47 32 0 }
    else if bHOOF ≤ off ∧ off < bHOOF + 12 * 0x100000 ∧ hoofThere s ((off - bHOOF) / 0x100000) then
      hoofRead s ((off - bHOOF) / 0x100000) ((off - bHOOF) % 0x100000)
    else s := by
  have past : ∀ b, b < bHOST → off ≠ b := fun b hb => (hb.trans_le h).ne'
  unfold csrReadFx
  dsimp only
  rw [if_neg (past _ (by decide)), if_neg (not_or_intro (past _ (by decide)) (past _ (by decide)))]
  iterate 10 rw [if_neg (past _ (by decide))]
  rfl

theorem csrReadFx_hpstat (p : HostPort) : csrReadFx s (bHOST + 0x100 + 8 * p.toNat) true true
    = s.setHport p.toNat { s.hport p.toNat with retrain := 0, refuse := 0 } := by
  have hp := p.isLt
  have hidx : (bHOST + 0x100 + 8 * p.toNat - bHOST - 0x100) / 8 = p.toNat := by omega
  have hin : bHOST + 0x100 ≤ bHOST + 0x100 + 8 * p.toNat ∧ bHOST + 0x100 + 8 * p.toNat < bHOST + 0x120
      ∧ (bHOST + 0x100 + 8 * p.toNat) % 8 = 0 := by
    unfold bHOST
    omega
  rw [csrReadFx_past s (by omega), if_pos hin, hidx]

theorem csrReadFx_lstat (p : FabPort) : csrReadFx s (bFAB + p.toNat * 0x10000) true true
    = s.setFport p.toNat { s.fport p.toNat with lstat := setFld (setFld (s.fport p.toNat).lstat 31 16 0) 47 32 0 } := by
  have hp := p.isLt
  have hidx : (bFAB + p.toNat * 0x10000 - bFAB) / 0x10000 = p.toNat := by omega
  have hlo : bFAB ≤ bFAB + p.toNat * 0x10000 := Nat.le_add_right ..
  have hhost : bHOST + 0x120 ≤ bFAB + p.toNat * 0x10000 := le_trans (by decide) hlo
  rw [csrReadFx_past s (le_trans (by decide) hlo), if_neg fun ⟨_, hlt, _⟩ => hlt.not_ge hhost, if_pos ⟨hlo, by omega, by omega⟩, hidx]

theorem csrReadFx_hoof (h : HoofId) {o : Nat} (ho : o < 0x100000) (hh : hoofThere s h.val = true) :
    csrReadFx s (hoofReg h o) true true = hoofRead s h.val o := by
  have hlt := h.isLt
  have hdiv : (hoofReg h o - bHOOF) / 0x100000 = h.val := by unfold hoofReg; omega
  have hmod : (hoofReg h o - bHOOF) % 0x100000 = o := by unfold hoofReg; omega
  have hlo : bHOOF ≤ hoofReg h o := by unfold hoofReg; omega
  have hhi : hoofReg h o < bHOOF + 12 * 0x100000 := by unfold hoofReg; omega
  have hfab : bFAB + 0x100000 ≤ hoofReg h o := le_trans (by decide) hlo
  have hhost : bHOST + 0x120 ≤ hoofReg h o := le_trans (by decide) hlo
  rw [csrReadFx_past s (le_trans (by decide) hlo), if_neg fun ⟨_, hlt, _⟩ => hlt.not_ge hhost, if_neg fun ⟨_, hlt, _⟩ => hlt.not_ge hfab, hdiv,
    hmod, if_pos ⟨hlo, hhi, hh⟩]

end

/-- Settles O58: each command is the 8-byte read of its register. -/
theorem counterReadsClear : Obligations.CounterReadsClear := by
  intro s c
  refine ⟨fun hp => answers_csrRead8 rfl (csrReach_mgmt hp (by decide)) rfl, fun hl => ?_⟩
  have central : ∀ {i : Instr} {off : Nat} {r : State}, exec i s = commit s (csrRead8 s off) → csrReadFx s off true true = r → Answers i s r :=
    fun hi hr => answers_csrRead8 hi (csrReach_of_live hl _) hr
  exact ⟨central rfl rfl, central rfl rfl, central rfl rfl, central rfl rfl, central rfl rfl, central rfl rfl, central rfl rfl, central rfl rfl,
    central rfl rfl, central rfl rfl, fun p => central rfl (csrReadFx_hpstat s p), fun p => central rfl (csrReadFx_lstat s p),
    fun h hh => ⟨central rfl (csrReadFx_hoof s h (by decide) hh), central rfl (csrReadFx_hoof s h (by decide) hh),
      central rfl (csrReadFx_hoof s h (by decide) hh), central rfl (csrReadFx_hoof s h (by decide) hh)⟩⟩

end Sys2Proof.Machine

/-!
The test access port (R466 to R468). The numbers of the instruments are those of notes/assumptions/24.
-/

namespace Sys2Proof.Machine

section

variable {s : State}

/-- IDCODE of an RLU-12 of stepping 1.0 (Table 17-10). -/
theorem idcodeOf_rlu12 (hpart : s.part = .rlu12) (hstep : s.stepping = 0x10) : idcodeOf s = 0x1520C5A3#32 := by
  rw [idcodeOf, partCode, hpart, hstep]
  decide

/-- The bypass register is selected in place of an intrusive opcode, and the attempt is logged (R468). -/
def bypassed (s : State) (op : Nat) : State :=
  let s1 := addLog s 4 0x0001 0xFFFF op
  { s1 with ports := { s1.ports with ir := 0xFF, instr := none } }

theorem tapIntrusive_reset (h : s.phase = .coldReset) (op : Nat) (inst : Option (BitVec 3)) : tapIntrusive s op inst = setIr s op inst := if_pos h

theorem tapIntrusive_refused (h : s.phase ≠ .coldReset) (op : Nat) (inst : Option (BitVec 3)) : tapIntrusive s op inst = bypassed s op := if_neg h

section

variable {i : BitVec 3}

theorem ijtag_intrusive (h : i.toNat < 3) : exec (.ijtag i) s = commit s (tapIntrusive s 0x10 (some i)) := answers_of_pos rfl h

theorem ijtag_open (hlo : 3 ≤ i.toNat) (hhi : i.toNat < 5) : Answers (.ijtag i) s (setIr s 0x10 (some i)) :=
  (answers_of_neg rfl (Nat.not_lt.mpr hlo)).trans (congrArg (commit s) (if_pos hhi))

end

end

/-- Settles O60: a command sets the instruction register, and `tapIntrusive` looks at RST_N for those that are intrusive. -/
theorem testAccessPort : Obligations.TestAccessPort := by
  intro s P byp
  refine ⟨rfl, rfl, idcodeOf_rlu12, rfl, rfl, fun hr => ?_, fun hr => ?_, fun i => ijtag_open⟩
  · have selected : ∀ op inst, commit s (tapIntrusive s op inst) = commit s (setIr s op inst) :=
      fun op inst => congrArg (commit s) (tapIntrusive_reset hr op inst)
    exact ⟨selected 3 none, selected 4 none, selected 5 none, fun i hi => (ijtag_intrusive hi).trans (selected 0x10 (some i))⟩
  · have refused : ∀ op inst, commit s (tapIntrusive s op inst) = commit s (bypassed s op) :=
      fun op inst => congrArg (commit s) (tapIntrusive_refused hr op inst)
    exact ⟨refused 3 none, refused 4 none, refused 5 none, fun i hi => (ijtag_intrusive hi).trans (refused 0x10 (some i))⟩

end Sys2Proof.Machine

/-!
The state after reset: what its registers read as, and its cores, streams and slots (Tables 4-5, 6-1, 6-5, 9-12, 11-8, 13-7, 14-6, 14-7, 14-11,
16-3, 16-8 to 16-12, 17-7; R158, R308). The part and its stepping are those of notes/assumptions/4.
-/

namespace Sys2Proof.Machine

/-! ### Cores, streams and slots -/

theorem core_reset (c : Nat) : State.reset.core c = Core.reset c := rfl

theorem getS_reset (c i : Nat) : (Core.reset c).getS i = 0 := ite_self _

theorem stream_reset (c : CoreId) : (Core.reset c.toNat).stream.toNat = c.toNat :=
  Nat.mod_eq_of_lt (c.isLt.trans (by decide))

/-- Each core has the stream of its own number (R308). -/
theorem strm_reset (c : CoreId) : (State.reset.strm c.toNat).isSome = true := by
  revert c
  decide

theorem slot_reset (t : Nat) : State.reset.slot t = Slot.reset := rfl

/-! ### Registers -/

/-- A space of DRAM that nothing has configured (Tables 14-6, 14-7). -/
theorem csrRead_reset_space (k : BitVec 6) : csrRead State.reset (bSCHED + 0x800 + 16 * k.toNat) = 0x24
    ∧ csrRead State.reset (bSCHED + 0x808 + 16 * k.toNat) = 0 := by
  revert k
  decide

/-- A Hoof's refresh and its counter (Tables 10-11, 14-11). -/
theorem csrRead_reset_hoof (h : HoofId) : csrRead State.reset (hoofReg h 0x310) = 0x1801 ∧ csrRead State.reset (hoofReg h 0x200) = 0 := by
  revert h
  decide

/-- Settles O3: the state after reset is a literal, so each register is read off it. -/
theorem resetRegisterValues : Obligations.ResetRegisterValues := by
  refine ⟨?_, ?_, csrRead_reset_space, ?_, ?_, ?_, ?_, ?_, ?_, ?_, ?_, csrRead_reset_hoof, ?_,
    fun c => ⟨rfl, rfl, stream_reset c, getS_reset c.toNat, strm_reset c⟩, fun t => slot_reset t.toNat, rfl⟩
  all_goals decide

end Sys2Proof.Machine
